-- ==== Sys2Proof/Word.lean ====
section
/-! DEFINITION. The machine's words: the widths the spec names (spec/00_scope.md R17), each a plain
bit vector so that the BitVec lemmas apply to it. -/

namespace Sys2Proof

/-- Eight bits (R17). -/
abbrev Byte := BitVec 8

/-- Thirty-two bits: an instruction word, a control register of the 32-bit members (R17, R360). -/
abbrev Word := BitVec 32

/-- Sixty-four bits: a general register, HI, LO and the program counter as the model holds them on every
member (R40, R44, R46; on the 32-bit members the accessors keep them sign-extended, log entry 1). -/
abbrev DWord := BitVec 64

/-- A five-bit register specifier (R361). -/
abbrev RegNum := BitVec 5

end Sys2Proof
end

