-- ==== Sys2Proof/Config.lean ====
section
/-! DEFINITION. What one chip fixes (its member and options, spec/00_scope.md R3, R8) and the values
the spec leaves free: types and opaque constants only; the tables that say what each member has stand in
Machine/Member.lean. -/

namespace Sys2Proof

/-- The eleven members of the family (R3): `CPU` is the model's top parameter. -/
inductive Cpu where
  | r3041 | r3051 | r3052 | r3071 | r3081 | r36100
  | r4600 | r4700 | r4650 | r4640
  | r5000
  deriving DecidableEq, Repr

/-- The instruction-set levels MIPS-1 to MIPS-4 (R2), each containing the one before (R364). -/
inductive Isa where
  | mips1 | mips2 | mips3 | mips4
  deriving DecidableEq, Repr

/-- The operations an R4xxx or R5000 FPA declines besides the cases the source fixes: the model's shape of the parameter
`FPUnimplemented` (R892, D30; spec/92_eei_decisions.md section 2), one switch for each case R892 names as not
stated. All false is the spec's default (log entry 22). -/
structure FpDeclined where
  /-- an operation with a denormalized operand -/
  denormOperand : Bool
  /-- an operation with a NaN operand -/
  nanOperand : Bool
  /-- a conversion to L that is out of range -/
  longRange : Bool
  deriving DecidableEq, Repr

/-- The parameters the spec leaves to the chip option, the board or the implementation
(R8; spec/92_eei_decisions.md section 2): constant for the life of a machine. -/
structure Params where
  /-- which member (R3) -/
  cpu : Cpu
  /-- R3051/R3052/R3071/R3081 only: the version with the 64-entry TLB (R8) -/
  eVersion : Bool
  /-- memory byte order as configured from power-up (R220) -/
  bigEndianMem : Bool
  /-- bits 63..32 after an LWR that does not load bit 31: a copy of bit 31 (true) or unchanged (R701) -/
  lwrUpperSigned : Bool
  /-- Count ticks per step (R141, D8) -/
  countTicksPerStep : Nat
  /-- PRId.Imp where the spec prints none: R4640, R5000 (R104) -/
  prIdImp : BitVec 8
  /-- PRId.Rev where the spec calls it undefined (R104) -/
  prIdRev : BitVec 8
  /-- FCR0.Rev (R826) -/
  fcr0Rev : BitVec 8
  /-- Config bits 31:3 that the boot-time mode stream supplies on the R4xxx and R5000 (R152 to R154):
  EC and EP on every one, the R4650's CM, SB, SS, SW, EW, SC, SM, EM, EB, CU as well -/
  bootMode : Word
  /-- Config.DB Refill from the reset-time hardware input of the R3081 (R150) -/
  dbRefill : Bool
  /-- R4650 and R4640: MTC0 writes Cause.IW and Cause.DW (R771), or does not (R125, R1063): the rules disagree and no
  ruling settles it (DESIGN CHOICE, log entry 61: both are covered) -/
  causeWatchWritable : Bool
  /-- R4xxx and R5000: a TLB exception taken while EXL is set writes Context, as R1041 and section 8 of
  spec/93_implementation_defined.md say; clear only for a chip that follows R161 (DESIGN CHOICE, log entry 44: on for the
  chip of State.reset) -/
  contextUnderExl : Bool
  /-- R4xxx: the general register that an MFC0 or DMFC0 loads may be used by the next instruction (R770: interlocked), or
  is any value there (R455; spec/93_implementation_defined.md section 2): the two disagree and no ruling settles it
  (DESIGN CHOICE, log entry 14: both are covered) -/
  mfc0Interlocked : Bool
  /-- what the FPA of an R4xxx or R5000 declines besides (R892) -/
  fpDeclined : FpDeclined
  deriving DecidableEq, Repr

/-- The value the machine shows where the spec says that a result, a flag or a register is undefined,
unspecified or `any value` (spec/93_implementation_defined.md): nothing constrains it. State.freeCtr says
which one the step uses next. -/
opaque Config.freeValue : Nat → BitVec 64

end Sys2Proof
end

