-- ==== Sys2Proof/Syntax.lean ====
section
/-! DEFINITION. The instruction set: one constructor for each row of spec/opcode_table.json, its arguments
the fields of that row in the table's order (spec/30_encoding.md R361, R362), with the rule that gives the
instruction its meaning. -/

namespace Sys2Proof

/-- An instruction of the family, whichever member has it: a member that lacks it takes Reserved
Instruction when it runs (R364). -/
inductive Instr where
  /-- ADD, spec/40_alu.md R510 -/
  | add (rs : RegNum) (rt : RegNum) (rd : RegNum)
  /-- ADDU, spec/40_alu.md R513 -/
  | addu (rs : RegNum) (rt : RegNum) (rd : RegNum)
  /-- SUB, spec/40_alu.md R514 -/
  | sub (rs : RegNum) (rt : RegNum) (rd : RegNum)
  /-- SUBU, spec/40_alu.md R515 -/
  | subu (rs : RegNum) (rt : RegNum) (rd : RegNum)
  /-- DADD, spec/40_alu.md R516 -/
  | dadd (rs : RegNum) (rt : RegNum) (rd : RegNum)
  /-- DADDU, spec/40_alu.md R519 -/
  | daddu (rs : RegNum) (rt : RegNum) (rd : RegNum)
  /-- DSUB, spec/40_alu.md R520 -/
  | dsub (rs : RegNum) (rt : RegNum) (rd : RegNum)
  /-- DSUBU, spec/40_alu.md R521 -/
  | dsubu (rs : RegNum) (rt : RegNum) (rd : RegNum)
  /-- AND, spec/40_alu.md R525 -/
  | and (rs : RegNum) (rt : RegNum) (rd : RegNum)
  /-- OR, spec/40_alu.md R527 -/
  | or (rs : RegNum) (rt : RegNum) (rd : RegNum)
  /-- XOR, spec/40_alu.md R529 -/
  | xor (rs : RegNum) (rt : RegNum) (rd : RegNum)
  /-- NOR, spec/40_alu.md R531 -/
  | nor (rs : RegNum) (rt : RegNum) (rd : RegNum)
  /-- SLT, spec/40_alu.md R535 -/
  | slt (rs : RegNum) (rt : RegNum) (rd : RegNum)
  /-- SLTU, spec/40_alu.md R537 -/
  | sltu (rs : RegNum) (rt : RegNum) (rd : RegNum)
  /-- SLLV, spec/40_alu.md R543 -/
  | sllv (rs : RegNum) (rt : RegNum) (rd : RegNum)
  /-- SRLV, spec/40_alu.md R544 -/
  | srlv (rs : RegNum) (rt : RegNum) (rd : RegNum)
  /-- SRAV, spec/40_alu.md R545 -/
  | srav (rs : RegNum) (rt : RegNum) (rd : RegNum)
  /-- DSLLV, spec/40_alu.md R549 -/
  | dsllv (rs : RegNum) (rt : RegNum) (rd : RegNum)
  /-- DSRLV, spec/40_alu.md R550 -/
  | dsrlv (rs : RegNum) (rt : RegNum) (rd : RegNum)
  /-- DSRAV, spec/40_alu.md R551 -/
  | dsrav (rs : RegNum) (rt : RegNum) (rd : RegNum)
  /-- MOVN, spec/40_alu.md R560 -/
  | movn (rs : RegNum) (rt : RegNum) (rd : RegNum)
  /-- MOVZ, spec/40_alu.md R561 -/
  | movz (rs : RegNum) (rt : RegNum) (rd : RegNum)
  /-- SLL, spec/40_alu.md R540 -/
  | sll (rt : RegNum) (rd : RegNum) (sa : BitVec 5)
  /-- SRL, spec/40_alu.md R541 -/
  | srl (rt : RegNum) (rd : RegNum) (sa : BitVec 5)
  /-- SRA, spec/40_alu.md R542 -/
  | sra (rt : RegNum) (rd : RegNum) (sa : BitVec 5)
  /-- DSLL, spec/40_alu.md R546 -/
  | dsll (rt : RegNum) (rd : RegNum) (sa : BitVec 5)
  /-- DSRL, spec/40_alu.md R547 -/
  | dsrl (rt : RegNum) (rd : RegNum) (sa : BitVec 5)
  /-- DSRA, spec/40_alu.md R548 -/
  | dsra (rt : RegNum) (rd : RegNum) (sa : BitVec 5)
  /-- DSLL32, spec/40_alu.md R552 -/
  | dsll32 (rt : RegNum) (rd : RegNum) (sa : BitVec 5)
  /-- DSRL32, spec/40_alu.md R553 -/
  | dsrl32 (rt : RegNum) (rd : RegNum) (sa : BitVec 5)
  /-- DSRA32, spec/40_alu.md R554 -/
  | dsra32 (rt : RegNum) (rd : RegNum) (sa : BitVec 5)
  /-- MOVF, spec/40_alu.md R562 -/
  | movf (rs : RegNum) (cc : BitVec 3) (rd : RegNum)
  /-- MOVT, spec/40_alu.md R563 -/
  | movt (rs : RegNum) (cc : BitVec 3) (rd : RegNum)
  /-- ADDI, spec/40_alu.md R511 -/
  | addi (rs : RegNum) (rt : RegNum) (imm : BitVec 16)
  /-- ADDIU, spec/40_alu.md R512 -/
  | addiu (rs : RegNum) (rt : RegNum) (imm : BitVec 16)
  /-- SLTI, spec/40_alu.md R536 -/
  | slti (rs : RegNum) (rt : RegNum) (imm : BitVec 16)
  /-- SLTIU, spec/40_alu.md R538 -/
  | sltiu (rs : RegNum) (rt : RegNum) (imm : BitVec 16)
  /-- ANDI, spec/40_alu.md R526 -/
  | andi (rs : RegNum) (rt : RegNum) (imm : BitVec 16)
  /-- ORI, spec/40_alu.md R528 -/
  | ori (rs : RegNum) (rt : RegNum) (imm : BitVec 16)
  /-- XORI, spec/40_alu.md R530 -/
  | xori (rs : RegNum) (rt : RegNum) (imm : BitVec 16)
  /-- DADDI, spec/40_alu.md R517 -/
  | daddi (rs : RegNum) (rt : RegNum) (imm : BitVec 16)
  /-- DADDIU, spec/40_alu.md R518 -/
  | daddiu (rs : RegNum) (rt : RegNum) (imm : BitVec 16)
  /-- LUI, spec/40_alu.md R532 -/
  | lui (rt : RegNum) (imm : BitVec 16)
  /-- MFHI, spec/41_muldiv.md R582 -/
  | mfhi (rd : RegNum)
  /-- MFLO, spec/41_muldiv.md R583 -/
  | mflo (rd : RegNum)
  /-- MTHI, spec/41_muldiv.md R584 -/
  | mthi (rs : RegNum)
  /-- MTLO, spec/41_muldiv.md R585 -/
  | mtlo (rs : RegNum)
  /-- DIV, spec/41_muldiv.md R586 -/
  | div (rs : RegNum) (rt : RegNum)
  /-- DIVU, spec/41_muldiv.md R587 -/
  | divu (rs : RegNum) (rt : RegNum)
  /-- DDIV, spec/41_muldiv.md R588 -/
  | ddiv (rs : RegNum) (rt : RegNum)
  /-- DDIVU, spec/41_muldiv.md R589 -/
  | ddivu (rs : RegNum) (rt : RegNum)
  /-- MULT, spec/41_muldiv.md R590 -/
  | mult (rs : RegNum) (rt : RegNum)
  /-- MULTU, spec/41_muldiv.md R591 -/
  | multu (rs : RegNum) (rt : RegNum)
  /-- DMULT, spec/41_muldiv.md R592 -/
  | dmult (rs : RegNum) (rt : RegNum)
  /-- DMULTU, spec/41_muldiv.md R593 -/
  | dmultu (rs : RegNum) (rt : RegNum)
  /-- MAD, spec/41_muldiv.md R594 -/
  | mad (rs : RegNum) (rt : RegNum)
  /-- MADU, spec/41_muldiv.md R595 -/
  | madu (rs : RegNum) (rt : RegNum)
  /-- MUL, spec/41_muldiv.md R596 -/
  | mul (rs : RegNum) (rt : RegNum) (rd : RegNum)
  /-- J, spec/42_branch_jump.md R630 -/
  | j (idx : BitVec 26)
  /-- JAL, spec/42_branch_jump.md R631 -/
  | jal (idx : BitVec 26)
  /-- JR, spec/42_branch_jump.md R632 -/
  | jr (rs : RegNum)
  /-- JALR, spec/42_branch_jump.md R633 -/
  | jalr (rs : RegNum) (rd : RegNum)
  /-- BEQ, spec/42_branch_jump.md R634 -/
  | beq (rs : RegNum) (rt : RegNum) (offset : BitVec 16)
  /-- BNE, spec/42_branch_jump.md R635 -/
  | bne (rs : RegNum) (rt : RegNum) (offset : BitVec 16)
  /-- BEQL, spec/42_branch_jump.md R642 -/
  | beql (rs : RegNum) (rt : RegNum) (offset : BitVec 16)
  /-- BNEL, spec/42_branch_jump.md R643 -/
  | bnel (rs : RegNum) (rt : RegNum) (offset : BitVec 16)
  /-- BLEZ, spec/42_branch_jump.md R636 -/
  | blez (rs : RegNum) (offset : BitVec 16)
  /-- BGTZ, spec/42_branch_jump.md R637 -/
  | bgtz (rs : RegNum) (offset : BitVec 16)
  /-- BLEZL, spec/42_branch_jump.md R644 -/
  | blezl (rs : RegNum) (offset : BitVec 16)
  /-- BGTZL, spec/42_branch_jump.md R645 -/
  | bgtzl (rs : RegNum) (offset : BitVec 16)
  /-- BLTZ, spec/42_branch_jump.md R638 -/
  | bltz (rs : RegNum) (offset : BitVec 16)
  /-- BGEZ, spec/42_branch_jump.md R639 -/
  | bgez (rs : RegNum) (offset : BitVec 16)
  /-- BLTZL, spec/42_branch_jump.md R646 -/
  | bltzl (rs : RegNum) (offset : BitVec 16)
  /-- BGEZL, spec/42_branch_jump.md R647 -/
  | bgezl (rs : RegNum) (offset : BitVec 16)
  /-- BLTZAL, spec/42_branch_jump.md R640 -/
  | bltzal (rs : RegNum) (offset : BitVec 16)
  /-- BGEZAL, spec/42_branch_jump.md R641 -/
  | bgezal (rs : RegNum) (offset : BitVec 16)
  /-- BLTZALL, spec/42_branch_jump.md R648 -/
  | bltzall (rs : RegNum) (offset : BitVec 16)
  /-- BGEZALL, spec/42_branch_jump.md R649 -/
  | bgezall (rs : RegNum) (offset : BitVec 16)
  /-- BC0F, spec/42_branch_jump.md R650 -/
  | bc0f (offset : BitVec 16)
  /-- BC0T, spec/42_branch_jump.md R650 -/
  | bc0t (offset : BitVec 16)
  /-- BC0FL, spec/42_branch_jump.md R650 -/
  | bc0fl (offset : BitVec 16)
  /-- BC0TL, spec/42_branch_jump.md R650 -/
  | bc0tl (offset : BitVec 16)
  /-- BC2F, spec/42_branch_jump.md R650 -/
  | bc2f (offset : BitVec 16)
  /-- BC2T, spec/42_branch_jump.md R650 -/
  | bc2t (offset : BitVec 16)
  /-- BC2FL, spec/42_branch_jump.md R650 -/
  | bc2fl (offset : BitVec 16)
  /-- BC2TL, spec/42_branch_jump.md R650 -/
  | bc2tl (offset : BitVec 16)
  /-- BC3F, spec/42_branch_jump.md R650 -/
  | bc3f (offset : BitVec 16)
  /-- BC3T, spec/42_branch_jump.md R650 -/
  | bc3t (offset : BitVec 16)
  /-- BC3FL, spec/42_branch_jump.md R650 -/
  | bc3fl (offset : BitVec 16)
  /-- BC3TL, spec/42_branch_jump.md R650 -/
  | bc3tl (offset : BitVec 16)
  /-- LB, spec/43_load_store.md R680 -/
  | lb (base : RegNum) (rt : RegNum) (offset : BitVec 16)
  /-- LBU, spec/43_load_store.md R681 -/
  | lbu (base : RegNum) (rt : RegNum) (offset : BitVec 16)
  /-- LH, spec/43_load_store.md R682 -/
  | lh (base : RegNum) (rt : RegNum) (offset : BitVec 16)
  /-- LHU, spec/43_load_store.md R683 -/
  | lhu (base : RegNum) (rt : RegNum) (offset : BitVec 16)
  /-- LW, spec/43_load_store.md R684 -/
  | lw (base : RegNum) (rt : RegNum) (offset : BitVec 16)
  /-- LWU, spec/43_load_store.md R685 -/
  | lwu (base : RegNum) (rt : RegNum) (offset : BitVec 16)
  /-- LD, spec/43_load_store.md R686 -/
  | ld (base : RegNum) (rt : RegNum) (offset : BitVec 16)
  /-- SB, spec/43_load_store.md R690 -/
  | sb (base : RegNum) (rt : RegNum) (offset : BitVec 16)
  /-- SH, spec/43_load_store.md R691 -/
  | sh (base : RegNum) (rt : RegNum) (offset : BitVec 16)
  /-- SW, spec/43_load_store.md R692 -/
  | sw (base : RegNum) (rt : RegNum) (offset : BitVec 16)
  /-- SD, spec/43_load_store.md R693 -/
  | sd (base : RegNum) (rt : RegNum) (offset : BitVec 16)
  /-- LWL, spec/43_load_store.md R700 -/
  | lwl (base : RegNum) (rt : RegNum) (offset : BitVec 16)
  /-- LWR, spec/43_load_store.md R701 -/
  | lwr (base : RegNum) (rt : RegNum) (offset : BitVec 16)
  /-- SWL, spec/43_load_store.md R702 -/
  | swl (base : RegNum) (rt : RegNum) (offset : BitVec 16)
  /-- SWR, spec/43_load_store.md R703 -/
  | swr (base : RegNum) (rt : RegNum) (offset : BitVec 16)
  /-- LDL, spec/43_load_store.md R704 -/
  | ldl (base : RegNum) (rt : RegNum) (offset : BitVec 16)
  /-- LDR, spec/43_load_store.md R705 -/
  | ldr (base : RegNum) (rt : RegNum) (offset : BitVec 16)
  /-- SDL, spec/43_load_store.md R706 -/
  | sdl (base : RegNum) (rt : RegNum) (offset : BitVec 16)
  /-- SDR, spec/43_load_store.md R707 -/
  | sdr (base : RegNum) (rt : RegNum) (offset : BitVec 16)
  /-- LL, spec/43_load_store.md R730 -/
  | ll (base : RegNum) (rt : RegNum) (offset : BitVec 16)
  /-- SC, spec/43_load_store.md R731 -/
  | sc (base : RegNum) (rt : RegNum) (offset : BitVec 16)
  /-- LLD, spec/43_load_store.md R732 -/
  | lld (base : RegNum) (rt : RegNum) (offset : BitVec 16)
  /-- SCD, spec/43_load_store.md R733 -/
  | scd (base : RegNum) (rt : RegNum) (offset : BitVec 16)
  /-- LWC2, spec/43_load_store.md R715 -/
  | lwc2 (base : RegNum) (rt : RegNum) (offset : BitVec 16)
  /-- LWC3, spec/43_load_store.md R715 -/
  | lwc3 (base : RegNum) (rt : RegNum) (offset : BitVec 16)
  /-- SWC2, spec/43_load_store.md R716 -/
  | swc2 (base : RegNum) (rt : RegNum) (offset : BitVec 16)
  /-- SWC3, spec/43_load_store.md R716 -/
  | swc3 (base : RegNum) (rt : RegNum) (offset : BitVec 16)
  /-- LDC2, spec/43_load_store.md R717 -/
  | ldc2 (base : RegNum) (rt : RegNum) (offset : BitVec 16)
  /-- SDC2, spec/43_load_store.md R718 -/
  | sdc2 (base : RegNum) (rt : RegNum) (offset : BitVec 16)
  /-- PREF, spec/43_load_store.md R740 -/
  | pref (base : RegNum) (hint : BitVec 5) (offset : BitVec 16)
  /-- SYSCALL, spec/44_system.md R752 -/
  | syscall (code : BitVec 20)
  /-- BREAK, spec/44_system.md R753 -/
  | brk (code : BitVec 20)
  /-- SYNC, spec/44_system.md R760 -/
  | sync (stype : BitVec 5)
  /-- MFC0, spec/44_system.md R770 -/
  | mfc0 (rt : RegNum) (rd : RegNum)
  /-- MTC0, spec/44_system.md R771 -/
  | mtc0 (rt : RegNum) (rd : RegNum)
  /-- DMFC0, spec/44_system.md R772 -/
  | dmfc0 (rt : RegNum) (rd : RegNum)
  /-- DMTC0, spec/44_system.md R773 -/
  | dmtc0 (rt : RegNum) (rd : RegNum)
  /-- MFC2, spec/44_system.md R774 -/
  | mfc2 (rt : RegNum) (rd : RegNum)
  /-- MTC2, spec/44_system.md R774 -/
  | mtc2 (rt : RegNum) (rd : RegNum)
  /-- CFC2, spec/44_system.md R775 -/
  | cfc2 (rt : RegNum) (rd : RegNum)
  /-- CTC2, spec/44_system.md R775 -/
  | ctc2 (rt : RegNum) (rd : RegNum)
  /-- COP2, spec/44_system.md R776 -/
  | cop2 (fn : BitVec 25)
  /-- MFC3, spec/44_system.md R774 -/
  | mfc3 (rt : RegNum) (rd : RegNum)
  /-- MTC3, spec/44_system.md R774 -/
  | mtc3 (rt : RegNum) (rd : RegNum)
  /-- CFC3, spec/44_system.md R775 -/
  | cfc3 (rt : RegNum) (rd : RegNum)
  /-- CTC3, spec/44_system.md R775 -/
  | ctc3 (rt : RegNum) (rd : RegNum)
  /-- COP3, spec/44_system.md R776 -/
  | cop3 (fn : BitVec 25)
  /-- CACHE, spec/44_system.md R780 -/
  | cache (base : RegNum) (op : BitVec 5) (offset : BitVec 16)
  /-- TLBR, spec/44_system.md R795 -/
  | tlbr
  /-- TLBWI, spec/44_system.md R796 -/
  | tlbwi
  /-- TLBWR, spec/44_system.md R797 -/
  | tlbwr
  /-- TLBP, spec/44_system.md R798 -/
  | tlbp
  /-- RFE, spec/44_system.md R791 -/
  | rfe
  /-- ERET, spec/44_system.md R792 -/
  | eret
  /-- WAIT, spec/44_system.md R793 -/
  | wait
  /-- TGE, spec/44_system.md R801 -/
  | tge (rs : RegNum) (rt : RegNum) (code : BitVec 10)
  /-- TGEU, spec/44_system.md R802 -/
  | tgeu (rs : RegNum) (rt : RegNum) (code : BitVec 10)
  /-- TLT, spec/44_system.md R803 -/
  | tlt (rs : RegNum) (rt : RegNum) (code : BitVec 10)
  /-- TLTU, spec/44_system.md R804 -/
  | tltu (rs : RegNum) (rt : RegNum) (code : BitVec 10)
  /-- TEQ, spec/44_system.md R805 -/
  | teq (rs : RegNum) (rt : RegNum) (code : BitVec 10)
  /-- TNE, spec/44_system.md R806 -/
  | tne (rs : RegNum) (rt : RegNum) (code : BitVec 10)
  /-- TGEI, spec/44_system.md R807 -/
  | tgei (rs : RegNum) (imm : BitVec 16)
  /-- TGEIU, spec/44_system.md R808 -/
  | tgeiu (rs : RegNum) (imm : BitVec 16)
  /-- TLTI, spec/44_system.md R809 -/
  | tlti (rs : RegNum) (imm : BitVec 16)
  /-- TLTIU, spec/44_system.md R810 -/
  | tltiu (rs : RegNum) (imm : BitVec 16)
  /-- TEQI, spec/44_system.md R811 -/
  | teqi (rs : RegNum) (imm : BitVec 16)
  /-- TNEI, spec/44_system.md R812 -/
  | tnei (rs : RegNum) (imm : BitVec 16)
  /-- MFC1, spec/45_fpu_state_moves.md R840 -/
  | mfc1 (rt : RegNum) (fs : RegNum)
  /-- MTC1, spec/45_fpu_state_moves.md R841 -/
  | mtc1 (rt : RegNum) (fs : RegNum)
  /-- CFC1, spec/45_fpu_state_moves.md R842 -/
  | cfc1 (rt : RegNum) (fs : RegNum)
  /-- CTC1, spec/45_fpu_state_moves.md R843 -/
  | ctc1 (rt : RegNum) (fs : RegNum)
  /-- DMFC1, spec/45_fpu_state_moves.md R844 -/
  | dmfc1 (rt : RegNum) (fs : RegNum)
  /-- DMTC1, spec/45_fpu_state_moves.md R845 -/
  | dmtc1 (rt : RegNum) (fs : RegNum)
  /-- LWC1, spec/45_fpu_state_moves.md R850 -/
  | lwc1 (base : RegNum) (ft : RegNum) (offset : BitVec 16)
  /-- LDC1, spec/45_fpu_state_moves.md R851 -/
  | ldc1 (base : RegNum) (ft : RegNum) (offset : BitVec 16)
  /-- SWC1, spec/45_fpu_state_moves.md R852 -/
  | swc1 (base : RegNum) (ft : RegNum) (offset : BitVec 16)
  /-- SDC1, spec/45_fpu_state_moves.md R853 -/
  | sdc1 (base : RegNum) (ft : RegNum) (offset : BitVec 16)
  /-- LWXC1, spec/45_fpu_state_moves.md R854 -/
  | lwxc1 (base : RegNum) (index : RegNum) (fd : RegNum)
  /-- LDXC1, spec/45_fpu_state_moves.md R855 -/
  | ldxc1 (base : RegNum) (index : RegNum) (fd : RegNum)
  /-- SWXC1, spec/45_fpu_state_moves.md R856 -/
  | swxc1 (base : RegNum) (index : RegNum) (fs : RegNum)
  /-- SDXC1, spec/45_fpu_state_moves.md R857 -/
  | sdxc1 (base : RegNum) (index : RegNum) (fs : RegNum)
  /-- PREFX, spec/45_fpu_state_moves.md R858 -/
  | prefx (base : RegNum) (index : RegNum) (hint : BitVec 5)
  /-- BC1F, spec/45_fpu_state_moves.md R860 -/
  | bc1f (cc : BitVec 3) (offset : BitVec 16)
  /-- BC1FL, spec/45_fpu_state_moves.md R861 -/
  | bc1fl (cc : BitVec 3) (offset : BitVec 16)
  /-- BC1T, spec/45_fpu_state_moves.md R862 -/
  | bc1t (cc : BitVec 3) (offset : BitVec 16)
  /-- BC1TL, spec/45_fpu_state_moves.md R863 -/
  | bc1tl (cc : BitVec 3) (offset : BitVec 16)
  /-- ADD.S, spec/46_fpu_arith.md R900 -/
  | addS (ft : RegNum) (fs : RegNum) (fd : RegNum)
  /-- SUB.S, spec/46_fpu_arith.md R901 -/
  | subS (ft : RegNum) (fs : RegNum) (fd : RegNum)
  /-- MUL.S, spec/46_fpu_arith.md R902 -/
  | mulS (ft : RegNum) (fs : RegNum) (fd : RegNum)
  /-- DIV.S, spec/46_fpu_arith.md R903 -/
  | divS (ft : RegNum) (fs : RegNum) (fd : RegNum)
  /-- SQRT.S, spec/46_fpu_arith.md R906 -/
  | sqrtS (fs : RegNum) (fd : RegNum)
  /-- ABS.S, spec/46_fpu_arith.md R904 -/
  | absS (fs : RegNum) (fd : RegNum)
  /-- MOV.S, spec/45_fpu_state_moves.md R870 -/
  | movS (fs : RegNum) (fd : RegNum)
  /-- NEG.S, spec/46_fpu_arith.md R905 -/
  | negS (fs : RegNum) (fd : RegNum)
  /-- RECIP.S, spec/46_fpu_arith.md R907 -/
  | recipS (fs : RegNum) (fd : RegNum)
  /-- RSQRT.S, spec/46_fpu_arith.md R908 -/
  | rsqrtS (fs : RegNum) (fd : RegNum)
  /-- ROUND.L.S, spec/46_fpu_arith.md R938 -/
  | roundLS (fs : RegNum) (fd : RegNum)
  /-- TRUNC.L.S, spec/46_fpu_arith.md R939 -/
  | truncLS (fs : RegNum) (fd : RegNum)
  /-- CEIL.L.S, spec/46_fpu_arith.md R940 -/
  | ceilLS (fs : RegNum) (fd : RegNum)
  /-- FLOOR.L.S, spec/46_fpu_arith.md R941 -/
  | floorLS (fs : RegNum) (fd : RegNum)
  /-- ROUND.W.S, spec/46_fpu_arith.md R934 -/
  | roundWS (fs : RegNum) (fd : RegNum)
  /-- TRUNC.W.S, spec/46_fpu_arith.md R935 -/
  | truncWS (fs : RegNum) (fd : RegNum)
  /-- CEIL.W.S, spec/46_fpu_arith.md R936 -/
  | ceilWS (fs : RegNum) (fd : RegNum)
  /-- FLOOR.W.S, spec/46_fpu_arith.md R937 -/
  | floorWS (fs : RegNum) (fd : RegNum)
  /-- CVT.W.S, spec/46_fpu_arith.md R932 -/
  | cvtWS (fs : RegNum) (fd : RegNum)
  /-- CVT.L.S, spec/46_fpu_arith.md R933 -/
  | cvtLS (fs : RegNum) (fd : RegNum)
  /-- MOVF.S, spec/45_fpu_state_moves.md R871 -/
  | movfS (cc : BitVec 3) (fs : RegNum) (fd : RegNum)
  /-- MOVT.S, spec/45_fpu_state_moves.md R872 -/
  | movtS (cc : BitVec 3) (fs : RegNum) (fd : RegNum)
  /-- MOVZ.S, spec/45_fpu_state_moves.md R874 -/
  | movzS (rt : RegNum) (fs : RegNum) (fd : RegNum)
  /-- MOVN.S, spec/45_fpu_state_moves.md R873 -/
  | movnS (rt : RegNum) (fs : RegNum) (fd : RegNum)
  /-- C.F.S, spec/46_fpu_arith.md R920 -/
  | cFS (ft : RegNum) (fs : RegNum) (cc : BitVec 3)
  /-- C.UN.S, spec/46_fpu_arith.md R920 -/
  | cUnS (ft : RegNum) (fs : RegNum) (cc : BitVec 3)
  /-- C.EQ.S, spec/46_fpu_arith.md R920 -/
  | cEqS (ft : RegNum) (fs : RegNum) (cc : BitVec 3)
  /-- C.UEQ.S, spec/46_fpu_arith.md R920 -/
  | cUeqS (ft : RegNum) (fs : RegNum) (cc : BitVec 3)
  /-- C.OLT.S, spec/46_fpu_arith.md R920 -/
  | cOltS (ft : RegNum) (fs : RegNum) (cc : BitVec 3)
  /-- C.ULT.S, spec/46_fpu_arith.md R920 -/
  | cUltS (ft : RegNum) (fs : RegNum) (cc : BitVec 3)
  /-- C.OLE.S, spec/46_fpu_arith.md R920 -/
  | cOleS (ft : RegNum) (fs : RegNum) (cc : BitVec 3)
  /-- C.ULE.S, spec/46_fpu_arith.md R920 -/
  | cUleS (ft : RegNum) (fs : RegNum) (cc : BitVec 3)
  /-- C.SF.S, spec/46_fpu_arith.md R920 -/
  | cSfS (ft : RegNum) (fs : RegNum) (cc : BitVec 3)
  /-- C.NGLE.S, spec/46_fpu_arith.md R920 -/
  | cNgleS (ft : RegNum) (fs : RegNum) (cc : BitVec 3)
  /-- C.SEQ.S, spec/46_fpu_arith.md R920 -/
  | cSeqS (ft : RegNum) (fs : RegNum) (cc : BitVec 3)
  /-- C.NGL.S, spec/46_fpu_arith.md R920 -/
  | cNglS (ft : RegNum) (fs : RegNum) (cc : BitVec 3)
  /-- C.LT.S, spec/46_fpu_arith.md R920 -/
  | cLtS (ft : RegNum) (fs : RegNum) (cc : BitVec 3)
  /-- C.NGE.S, spec/46_fpu_arith.md R920 -/
  | cNgeS (ft : RegNum) (fs : RegNum) (cc : BitVec 3)
  /-- C.LE.S, spec/46_fpu_arith.md R920 -/
  | cLeS (ft : RegNum) (fs : RegNum) (cc : BitVec 3)
  /-- C.NGT.S, spec/46_fpu_arith.md R920 -/
  | cNgtS (ft : RegNum) (fs : RegNum) (cc : BitVec 3)
  /-- ADD.D, spec/46_fpu_arith.md R900 -/
  | addD (ft : RegNum) (fs : RegNum) (fd : RegNum)
  /-- SUB.D, spec/46_fpu_arith.md R901 -/
  | subD (ft : RegNum) (fs : RegNum) (fd : RegNum)
  /-- MUL.D, spec/46_fpu_arith.md R902 -/
  | mulD (ft : RegNum) (fs : RegNum) (fd : RegNum)
  /-- DIV.D, spec/46_fpu_arith.md R903 -/
  | divD (ft : RegNum) (fs : RegNum) (fd : RegNum)
  /-- SQRT.D, spec/46_fpu_arith.md R906 -/
  | sqrtD (fs : RegNum) (fd : RegNum)
  /-- ABS.D, spec/46_fpu_arith.md R904 -/
  | absD (fs : RegNum) (fd : RegNum)
  /-- MOV.D, spec/45_fpu_state_moves.md R870 -/
  | movD (fs : RegNum) (fd : RegNum)
  /-- NEG.D, spec/46_fpu_arith.md R905 -/
  | negD (fs : RegNum) (fd : RegNum)
  /-- RECIP.D, spec/46_fpu_arith.md R907 -/
  | recipD (fs : RegNum) (fd : RegNum)
  /-- RSQRT.D, spec/46_fpu_arith.md R908 -/
  | rsqrtD (fs : RegNum) (fd : RegNum)
  /-- ROUND.L.D, spec/46_fpu_arith.md R938 -/
  | roundLD (fs : RegNum) (fd : RegNum)
  /-- TRUNC.L.D, spec/46_fpu_arith.md R939 -/
  | truncLD (fs : RegNum) (fd : RegNum)
  /-- CEIL.L.D, spec/46_fpu_arith.md R940 -/
  | ceilLD (fs : RegNum) (fd : RegNum)
  /-- FLOOR.L.D, spec/46_fpu_arith.md R941 -/
  | floorLD (fs : RegNum) (fd : RegNum)
  /-- ROUND.W.D, spec/46_fpu_arith.md R934 -/
  | roundWD (fs : RegNum) (fd : RegNum)
  /-- TRUNC.W.D, spec/46_fpu_arith.md R935 -/
  | truncWD (fs : RegNum) (fd : RegNum)
  /-- CEIL.W.D, spec/46_fpu_arith.md R936 -/
  | ceilWD (fs : RegNum) (fd : RegNum)
  /-- FLOOR.W.D, spec/46_fpu_arith.md R937 -/
  | floorWD (fs : RegNum) (fd : RegNum)
  /-- CVT.W.D, spec/46_fpu_arith.md R932 -/
  | cvtWD (fs : RegNum) (fd : RegNum)
  /-- CVT.L.D, spec/46_fpu_arith.md R933 -/
  | cvtLD (fs : RegNum) (fd : RegNum)
  /-- MOVF.D, spec/45_fpu_state_moves.md R871 -/
  | movfD (cc : BitVec 3) (fs : RegNum) (fd : RegNum)
  /-- MOVT.D, spec/45_fpu_state_moves.md R872 -/
  | movtD (cc : BitVec 3) (fs : RegNum) (fd : RegNum)
  /-- MOVZ.D, spec/45_fpu_state_moves.md R874 -/
  | movzD (rt : RegNum) (fs : RegNum) (fd : RegNum)
  /-- MOVN.D, spec/45_fpu_state_moves.md R873 -/
  | movnD (rt : RegNum) (fs : RegNum) (fd : RegNum)
  /-- C.F.D, spec/46_fpu_arith.md R920 -/
  | cFD (ft : RegNum) (fs : RegNum) (cc : BitVec 3)
  /-- C.UN.D, spec/46_fpu_arith.md R920 -/
  | cUnD (ft : RegNum) (fs : RegNum) (cc : BitVec 3)
  /-- C.EQ.D, spec/46_fpu_arith.md R920 -/
  | cEqD (ft : RegNum) (fs : RegNum) (cc : BitVec 3)
  /-- C.UEQ.D, spec/46_fpu_arith.md R920 -/
  | cUeqD (ft : RegNum) (fs : RegNum) (cc : BitVec 3)
  /-- C.OLT.D, spec/46_fpu_arith.md R920 -/
  | cOltD (ft : RegNum) (fs : RegNum) (cc : BitVec 3)
  /-- C.ULT.D, spec/46_fpu_arith.md R920 -/
  | cUltD (ft : RegNum) (fs : RegNum) (cc : BitVec 3)
  /-- C.OLE.D, spec/46_fpu_arith.md R920 -/
  | cOleD (ft : RegNum) (fs : RegNum) (cc : BitVec 3)
  /-- C.ULE.D, spec/46_fpu_arith.md R920 -/
  | cUleD (ft : RegNum) (fs : RegNum) (cc : BitVec 3)
  /-- C.SF.D, spec/46_fpu_arith.md R920 -/
  | cSfD (ft : RegNum) (fs : RegNum) (cc : BitVec 3)
  /-- C.NGLE.D, spec/46_fpu_arith.md R920 -/
  | cNgleD (ft : RegNum) (fs : RegNum) (cc : BitVec 3)
  /-- C.SEQ.D, spec/46_fpu_arith.md R920 -/
  | cSeqD (ft : RegNum) (fs : RegNum) (cc : BitVec 3)
  /-- C.NGL.D, spec/46_fpu_arith.md R920 -/
  | cNglD (ft : RegNum) (fs : RegNum) (cc : BitVec 3)
  /-- C.LT.D, spec/46_fpu_arith.md R920 -/
  | cLtD (ft : RegNum) (fs : RegNum) (cc : BitVec 3)
  /-- C.NGE.D, spec/46_fpu_arith.md R920 -/
  | cNgeD (ft : RegNum) (fs : RegNum) (cc : BitVec 3)
  /-- C.LE.D, spec/46_fpu_arith.md R920 -/
  | cLeD (ft : RegNum) (fs : RegNum) (cc : BitVec 3)
  /-- C.NGT.D, spec/46_fpu_arith.md R920 -/
  | cNgtD (ft : RegNum) (fs : RegNum) (cc : BitVec 3)
  /-- CVT.S.D, spec/46_fpu_arith.md R930 -/
  | cvtSD (fs : RegNum) (fd : RegNum)
  /-- CVT.S.W, spec/46_fpu_arith.md R930 -/
  | cvtSW (fs : RegNum) (fd : RegNum)
  /-- CVT.S.L, spec/46_fpu_arith.md R930 -/
  | cvtSL (fs : RegNum) (fd : RegNum)
  /-- CVT.D.S, spec/46_fpu_arith.md R931 -/
  | cvtDS (fs : RegNum) (fd : RegNum)
  /-- CVT.D.W, spec/46_fpu_arith.md R931 -/
  | cvtDW (fs : RegNum) (fd : RegNum)
  /-- CVT.D.L, spec/46_fpu_arith.md R931 -/
  | cvtDL (fs : RegNum) (fd : RegNum)
  /-- MADD.S, spec/46_fpu_arith.md R910 -/
  | maddS (fr : RegNum) (ft : RegNum) (fs : RegNum) (fd : RegNum)
  /-- MADD.D, spec/46_fpu_arith.md R910 -/
  | maddD (fr : RegNum) (ft : RegNum) (fs : RegNum) (fd : RegNum)
  /-- MSUB.S, spec/46_fpu_arith.md R911 -/
  | msubS (fr : RegNum) (ft : RegNum) (fs : RegNum) (fd : RegNum)
  /-- MSUB.D, spec/46_fpu_arith.md R911 -/
  | msubD (fr : RegNum) (ft : RegNum) (fs : RegNum) (fd : RegNum)
  /-- NMADD.S, spec/46_fpu_arith.md R912 -/
  | nmaddS (fr : RegNum) (ft : RegNum) (fs : RegNum) (fd : RegNum)
  /-- NMADD.D, spec/46_fpu_arith.md R912 -/
  | nmaddD (fr : RegNum) (ft : RegNum) (fs : RegNum) (fd : RegNum)
  /-- NMSUB.S, spec/46_fpu_arith.md R913 -/
  | nmsubS (fr : RegNum) (ft : RegNum) (fs : RegNum) (fd : RegNum)
  /-- NMSUB.D, spec/46_fpu_arith.md R913 -/
  | nmsubD (fr : RegNum) (ft : RegNum) (fs : RegNum) (fd : RegNum)
  deriving DecidableEq, Repr

end Sys2Proof
end

