-- ==== Sys2Proof/WellFormed.lean ====
section
/-! DEFINITION. Which terms of Instr are instructions a decoder of a given level can read: the fields are as
wide as the encoding's, so the one thing to check is a primary opcode that different levels give to
different instructions (spec/30_encoding.md R365). -/

namespace Sys2Proof

/-- The instructions that share the primary opcodes 010011 and 110011 belong to one end of the levels each:
coprocessor 3 to MIPS-1 and MIPS-2 (R364: "removed or changed to another use starting in MIPS III"), COP1X
and PREF to MIPS-4 (R383, R390). Every other instruction is well formed at every level. -/
def Instr.wellFormed (isa : Isa) : Instr → Bool
  | .bc3f _ => isa == .mips1 || isa == .mips2
  | .bc3t _ => isa == .mips1 || isa == .mips2
  | .bc3fl _ => isa == .mips1 || isa == .mips2
  | .bc3tl _ => isa == .mips1 || isa == .mips2
  | .lwc3 _ _ _ => isa == .mips1 || isa == .mips2
  | .pref _ _ _ => isa == .mips4
  | .mfc3 _ _ => isa == .mips1 || isa == .mips2
  | .mtc3 _ _ => isa == .mips1 || isa == .mips2
  | .cfc3 _ _ => isa == .mips1 || isa == .mips2
  | .ctc3 _ _ => isa == .mips1 || isa == .mips2
  | .cop3 _ => isa == .mips1 || isa == .mips2
  | .lwxc1 _ _ _ => isa == .mips4
  | .ldxc1 _ _ _ => isa == .mips4
  | .swxc1 _ _ _ => isa == .mips4
  | .sdxc1 _ _ _ => isa == .mips4
  | .prefx _ _ _ => isa == .mips4
  | .maddS _ _ _ _ => isa == .mips4
  | .maddD _ _ _ _ => isa == .mips4
  | .msubS _ _ _ _ => isa == .mips4
  | .msubD _ _ _ _ => isa == .mips4
  | .nmaddS _ _ _ _ => isa == .mips4
  | .nmaddD _ _ _ _ => isa == .mips4
  | .nmsubS _ _ _ _ => isa == .mips4
  | .nmsubD _ _ _ _ => isa == .mips4
  | .add _ _ _ => true
  | .addu _ _ _ => true
  | .sub _ _ _ => true
  | .subu _ _ _ => true
  | .dadd _ _ _ => true
  | .daddu _ _ _ => true
  | .dsub _ _ _ => true
  | .dsubu _ _ _ => true
  | .and _ _ _ => true
  | .or _ _ _ => true
  | .xor _ _ _ => true
  | .nor _ _ _ => true
  | .slt _ _ _ => true
  | .sltu _ _ _ => true
  | .sllv _ _ _ => true
  | .srlv _ _ _ => true
  | .srav _ _ _ => true
  | .dsllv _ _ _ => true
  | .dsrlv _ _ _ => true
  | .dsrav _ _ _ => true
  | .movn _ _ _ => true
  | .movz _ _ _ => true
  | .sll _ _ _ => true
  | .srl _ _ _ => true
  | .sra _ _ _ => true
  | .dsll _ _ _ => true
  | .dsrl _ _ _ => true
  | .dsra _ _ _ => true
  | .dsll32 _ _ _ => true
  | .dsrl32 _ _ _ => true
  | .dsra32 _ _ _ => true
  | .movf _ _ _ => true
  | .movt _ _ _ => true
  | .addi _ _ _ => true
  | .addiu _ _ _ => true
  | .slti _ _ _ => true
  | .sltiu _ _ _ => true
  | .andi _ _ _ => true
  | .ori _ _ _ => true
  | .xori _ _ _ => true
  | .daddi _ _ _ => true
  | .daddiu _ _ _ => true
  | .lui _ _ => true
  | .mfhi _ => true
  | .mflo _ => true
  | .mthi _ => true
  | .mtlo _ => true
  | .div _ _ => true
  | .divu _ _ => true
  | .ddiv _ _ => true
  | .ddivu _ _ => true
  | .mult _ _ => true
  | .multu _ _ => true
  | .dmult _ _ => true
  | .dmultu _ _ => true
  | .mad _ _ => true
  | .madu _ _ => true
  | .mul _ _ _ => true
  | .j _ => true
  | .jal _ => true
  | .jr _ => true
  | .jalr _ _ => true
  | .beq _ _ _ => true
  | .bne _ _ _ => true
  | .beql _ _ _ => true
  | .bnel _ _ _ => true
  | .blez _ _ => true
  | .bgtz _ _ => true
  | .blezl _ _ => true
  | .bgtzl _ _ => true
  | .bltz _ _ => true
  | .bgez _ _ => true
  | .bltzl _ _ => true
  | .bgezl _ _ => true
  | .bltzal _ _ => true
  | .bgezal _ _ => true
  | .bltzall _ _ => true
  | .bgezall _ _ => true
  | .bc0f _ => true
  | .bc0t _ => true
  | .bc0fl _ => true
  | .bc0tl _ => true
  | .bc2f _ => true
  | .bc2t _ => true
  | .bc2fl _ => true
  | .bc2tl _ => true
  | .lb _ _ _ => true
  | .lbu _ _ _ => true
  | .lh _ _ _ => true
  | .lhu _ _ _ => true
  | .lw _ _ _ => true
  | .lwu _ _ _ => true
  | .ld _ _ _ => true
  | .sb _ _ _ => true
  | .sh _ _ _ => true
  | .sw _ _ _ => true
  | .sd _ _ _ => true
  | .lwl _ _ _ => true
  | .lwr _ _ _ => true
  | .swl _ _ _ => true
  | .swr _ _ _ => true
  | .ldl _ _ _ => true
  | .ldr _ _ _ => true
  | .sdl _ _ _ => true
  | .sdr _ _ _ => true
  | .ll _ _ _ => true
  | .sc _ _ _ => true
  | .lld _ _ _ => true
  | .scd _ _ _ => true
  | .lwc2 _ _ _ => true
  | .swc2 _ _ _ => true
  | .swc3 _ _ _ => true
  | .ldc2 _ _ _ => true
  | .sdc2 _ _ _ => true
  | .syscall _ => true
  | .brk _ => true
  | .sync _ => true
  | .mfc0 _ _ => true
  | .mtc0 _ _ => true
  | .dmfc0 _ _ => true
  | .dmtc0 _ _ => true
  | .mfc2 _ _ => true
  | .mtc2 _ _ => true
  | .cfc2 _ _ => true
  | .ctc2 _ _ => true
  | .cop2 _ => true
  | .cache _ _ _ => true
  | .tlbr => true
  | .tlbwi => true
  | .tlbwr => true
  | .tlbp => true
  | .rfe => true
  | .eret => true
  | .wait => true
  | .tge _ _ _ => true
  | .tgeu _ _ _ => true
  | .tlt _ _ _ => true
  | .tltu _ _ _ => true
  | .teq _ _ _ => true
  | .tne _ _ _ => true
  | .tgei _ _ => true
  | .tgeiu _ _ => true
  | .tlti _ _ => true
  | .tltiu _ _ => true
  | .teqi _ _ => true
  | .tnei _ _ => true
  | .mfc1 _ _ => true
  | .mtc1 _ _ => true
  | .cfc1 _ _ => true
  | .ctc1 _ _ => true
  | .dmfc1 _ _ => true
  | .dmtc1 _ _ => true
  | .lwc1 _ _ _ => true
  | .ldc1 _ _ _ => true
  | .swc1 _ _ _ => true
  | .sdc1 _ _ _ => true
  | .bc1f _ _ => true
  | .bc1fl _ _ => true
  | .bc1t _ _ => true
  | .bc1tl _ _ => true
  | .addS _ _ _ => true
  | .subS _ _ _ => true
  | .mulS _ _ _ => true
  | .divS _ _ _ => true
  | .sqrtS _ _ => true
  | .absS _ _ => true
  | .movS _ _ => true
  | .negS _ _ => true
  | .recipS _ _ => true
  | .rsqrtS _ _ => true
  | .roundLS _ _ => true
  | .truncLS _ _ => true
  | .ceilLS _ _ => true
  | .floorLS _ _ => true
  | .roundWS _ _ => true
  | .truncWS _ _ => true
  | .ceilWS _ _ => true
  | .floorWS _ _ => true
  | .cvtWS _ _ => true
  | .cvtLS _ _ => true
  | .movfS _ _ _ => true
  | .movtS _ _ _ => true
  | .movzS _ _ _ => true
  | .movnS _ _ _ => true
  | .cFS _ _ _ => true
  | .cUnS _ _ _ => true
  | .cEqS _ _ _ => true
  | .cUeqS _ _ _ => true
  | .cOltS _ _ _ => true
  | .cUltS _ _ _ => true
  | .cOleS _ _ _ => true
  | .cUleS _ _ _ => true
  | .cSfS _ _ _ => true
  | .cNgleS _ _ _ => true
  | .cSeqS _ _ _ => true
  | .cNglS _ _ _ => true
  | .cLtS _ _ _ => true
  | .cNgeS _ _ _ => true
  | .cLeS _ _ _ => true
  | .cNgtS _ _ _ => true
  | .addD _ _ _ => true
  | .subD _ _ _ => true
  | .mulD _ _ _ => true
  | .divD _ _ _ => true
  | .sqrtD _ _ => true
  | .absD _ _ => true
  | .movD _ _ => true
  | .negD _ _ => true
  | .recipD _ _ => true
  | .rsqrtD _ _ => true
  | .roundLD _ _ => true
  | .truncLD _ _ => true
  | .ceilLD _ _ => true
  | .floorLD _ _ => true
  | .roundWD _ _ => true
  | .truncWD _ _ => true
  | .ceilWD _ _ => true
  | .floorWD _ _ => true
  | .cvtWD _ _ => true
  | .cvtLD _ _ => true
  | .movfD _ _ _ => true
  | .movtD _ _ _ => true
  | .movzD _ _ _ => true
  | .movnD _ _ _ => true
  | .cFD _ _ _ => true
  | .cUnD _ _ _ => true
  | .cEqD _ _ _ => true
  | .cUeqD _ _ _ => true
  | .cOltD _ _ _ => true
  | .cUltD _ _ _ => true
  | .cOleD _ _ _ => true
  | .cUleD _ _ _ => true
  | .cSfD _ _ _ => true
  | .cNgleD _ _ _ => true
  | .cSeqD _ _ _ => true
  | .cNglD _ _ _ => true
  | .cLtD _ _ _ => true
  | .cNgeD _ _ _ => true
  | .cLeD _ _ _ => true
  | .cNgtD _ _ _ => true
  | .cvtSD _ _ => true
  | .cvtSW _ _ => true
  | .cvtSL _ _ => true
  | .cvtDS _ _ => true
  | .cvtDW _ _ => true
  | .cvtDL _ _ => true

end Sys2Proof
end

