-- ==== Sys2Proof/Decode.lean ====
section
/-! DEFINITION. From an instruction word to an instruction, total on every word, rejecting by name
(spec/30_encoding.md R360 to R390, spec/opcode_table.json), and back: the encoder. A field the spec draws
as zero is not looked at (R370, D21; log entry 4). The section is noncomputable because Lean's compiled code
has room for 244 constructors with arguments and Instr has more: the kernel evaluates every definition
here, and nothing else is lost. -/

namespace Sys2Proof

noncomputable section

/-! ### The fields of a word (R361, R362) -/

/-- bits 31:26, the primary opcode -/
def fOp (w : Word) : BitVec 6 := w.extractLsb' 26 6
/-- bits 25:21: rs, base, fmt, fr or the coprocessor sub-opcode -/
def fRs (w : Word) : BitVec 5 := w.extractLsb' 21 5
/-- bits 20:16: rt, ft, index, hint or the REGIMM function -/
def fRt (w : Word) : BitVec 5 := w.extractLsb' 16 5
/-- bits 15:11: rd, fs or the PREFX hint -/
def fRd (w : Word) : BitVec 5 := w.extractLsb' 11 5
/-- bits 10:6: sa, fd or stype -/
def fSa (w : Word) : BitVec 5 := w.extractLsb' 6 5
/-- bits 5:0, the function -/
def fFn (w : Word) : BitVec 6 := w.extractLsb' 0 6
/-- bits 15:0: immediate or offset -/
def fImm (w : Word) : BitVec 16 := w.extractLsb' 0 16
/-- bits 25:0, the jump index -/
def fIdx (w : Word) : BitVec 26 := w.extractLsb' 0 26
/-- bits 24:0, the coprocessor function -/
def fCofun (w : Word) : BitVec 25 := w.extractLsb' 0 25
/-- bits 25:6, the code of SYSCALL and BREAK -/
def fCode20 (w : Word) : BitVec 20 := w.extractLsb' 6 20
/-- bits 15:6, the code of a register trap -/
def fCode10 (w : Word) : BitVec 10 := w.extractLsb' 6 10
/-- bits 20:18, the condition code a branch or a conditional move reads -/
def fCc (w : Word) : BitVec 3 := w.extractLsb' 18 3
/-- bits 10:8, the condition code a compare writes -/
def fCmpCc (w : Word) : BitVec 3 := w.extractLsb' 8 3
/-- bits 17:16: nd and tf of a coprocessor branch -/
def fNdTf (w : Word) : BitVec 2 := w.extractLsb' 16 2
/-- bit 16: tf of MOVCI and MOVCF -/
def fTf (w : Word) : BitVec 1 := w.extractLsb' 16 1

/-- Why a word is no instruction. -/
inductive Reject where
  /-- a `*` cell of every table: Reserved Instruction (R368) -/
  | reserved
  /-- an undefined sub-opcode of coprocessor 0: Coprocessor Unusable first, then Reserved Instruction
  (R369 point 5) -/
  | cop0
  /-- a reserved fmt or function of COP1 or COP1X: Coprocessor Unusable first, then Reserved Instruction
  (R369 point 5, R830, R893) -/
  | cop1
  /-- a format marked U for an operation that exists from level `lvl` on: Coprocessor Unusable first, then
  Reserved Instruction below that level, else Unimplemented Operation (R893, D32) -/
  | fpFormat (lvl : Isa)
  /-- an unlisted sub-opcode of coprocessor 2 or 3: Coprocessor Unusable first; the coprocessor does not exist (R386), and
  with its CU bit set the word does nothing (R380; DESIGN CHOICE, log entry 30) -/
  | copAbsent (z : BitVec 2)
  deriving DecidableEq, Repr

/-- What a word decodes to. -/
inductive Decoded where
  | ok (i : Instr)
  | bad (r : Reject)
  deriving DecidableEq, Repr

/-- SPECIAL, by function (R366) -/
def decodeSpecial (w : Word) : Decoded :=
  match fFn w with
  | 0x0#6 => .ok (.sll (fRt w) (fRd w) (fSa w))
  | 0x1#6 => if fTf w = 1#1 then .ok (.movt (fRs w) (fCc w) (fRd w)) else .ok (.movf (fRs w) (fCc w) (fRd w))
  | 0x2#6 => .ok (.srl (fRt w) (fRd w) (fSa w))
  | 0x3#6 => .ok (.sra (fRt w) (fRd w) (fSa w))
  | 0x4#6 => .ok (.sllv (fRs w) (fRt w) (fRd w))
  | 0x6#6 => .ok (.srlv (fRs w) (fRt w) (fRd w))
  | 0x7#6 => .ok (.srav (fRs w) (fRt w) (fRd w))
  | 0x8#6 => .ok (.jr (fRs w))
  | 0x9#6 => .ok (.jalr (fRs w) (fRd w))
  | 0xa#6 => .ok (.movz (fRs w) (fRt w) (fRd w))
  | 0xb#6 => .ok (.movn (fRs w) (fRt w) (fRd w))
  | 0xc#6 => .ok (.syscall (fCode20 w))
  | 0xd#6 => .ok (.brk (fCode20 w))
  | 0xf#6 => .ok (.sync (fSa w))
  | 0x10#6 => .ok (.mfhi (fRd w))
  | 0x11#6 => .ok (.mthi (fRs w))
  | 0x12#6 => .ok (.mflo (fRd w))
  | 0x13#6 => .ok (.mtlo (fRs w))
  | 0x14#6 => .ok (.dsllv (fRs w) (fRt w) (fRd w))
  | 0x16#6 => .ok (.dsrlv (fRs w) (fRt w) (fRd w))
  | 0x17#6 => .ok (.dsrav (fRs w) (fRt w) (fRd w))
  | 0x18#6 => .ok (.mult (fRs w) (fRt w))
  | 0x19#6 => .ok (.multu (fRs w) (fRt w))
  | 0x1a#6 => .ok (.div (fRs w) (fRt w))
  | 0x1b#6 => .ok (.divu (fRs w) (fRt w))
  | 0x1c#6 => .ok (.dmult (fRs w) (fRt w))
  | 0x1d#6 => .ok (.dmultu (fRs w) (fRt w))
  | 0x1e#6 => .ok (.ddiv (fRs w) (fRt w))
  | 0x1f#6 => .ok (.ddivu (fRs w) (fRt w))
  | 0x20#6 => .ok (.add (fRs w) (fRt w) (fRd w))
  | 0x21#6 => .ok (.addu (fRs w) (fRt w) (fRd w))
  | 0x22#6 => .ok (.sub (fRs w) (fRt w) (fRd w))
  | 0x23#6 => .ok (.subu (fRs w) (fRt w) (fRd w))
  | 0x24#6 => .ok (.and (fRs w) (fRt w) (fRd w))
  | 0x25#6 => .ok (.or (fRs w) (fRt w) (fRd w))
  | 0x26#6 => .ok (.xor (fRs w) (fRt w) (fRd w))
  | 0x27#6 => .ok (.nor (fRs w) (fRt w) (fRd w))
  | 0x2a#6 => .ok (.slt (fRs w) (fRt w) (fRd w))
  | 0x2b#6 => .ok (.sltu (fRs w) (fRt w) (fRd w))
  | 0x2c#6 => .ok (.dadd (fRs w) (fRt w) (fRd w))
  | 0x2d#6 => .ok (.daddu (fRs w) (fRt w) (fRd w))
  | 0x2e#6 => .ok (.dsub (fRs w) (fRt w) (fRd w))
  | 0x2f#6 => .ok (.dsubu (fRs w) (fRt w) (fRd w))
  | 0x30#6 => .ok (.tge (fRs w) (fRt w) (fCode10 w))
  | 0x31#6 => .ok (.tgeu (fRs w) (fRt w) (fCode10 w))
  | 0x32#6 => .ok (.tlt (fRs w) (fRt w) (fCode10 w))
  | 0x33#6 => .ok (.tltu (fRs w) (fRt w) (fCode10 w))
  | 0x34#6 => .ok (.teq (fRs w) (fRt w) (fCode10 w))
  | 0x36#6 => .ok (.tne (fRs w) (fRt w) (fCode10 w))
  | 0x38#6 => .ok (.dsll (fRt w) (fRd w) (fSa w))
  | 0x3a#6 => .ok (.dsrl (fRt w) (fRd w) (fSa w))
  | 0x3b#6 => .ok (.dsra (fRt w) (fRd w) (fSa w))
  | 0x3c#6 => .ok (.dsll32 (fRt w) (fRd w) (fSa w))
  | 0x3e#6 => .ok (.dsrl32 (fRt w) (fRd w) (fSa w))
  | 0x3f#6 => .ok (.dsra32 (fRt w) (fRd w) (fSa w))
  | _ => .bad .reserved

/-- REGIMM, by rt (R367; on a MIPS-1 member the unlisted values are Reserved Instruction, D20) -/
def decodeRegimm (w : Word) : Decoded :=
  match fRt w with
  | 0x0#5 => .ok (.bltz (fRs w) (fImm w))
  | 0x1#5 => .ok (.bgez (fRs w) (fImm w))
  | 0x2#5 => .ok (.bltzl (fRs w) (fImm w))
  | 0x3#5 => .ok (.bgezl (fRs w) (fImm w))
  | 0x8#5 => .ok (.tgei (fRs w) (fImm w))
  | 0x9#5 => .ok (.tgeiu (fRs w) (fImm w))
  | 0xa#5 => .ok (.tlti (fRs w) (fImm w))
  | 0xb#5 => .ok (.tltiu (fRs w) (fImm w))
  | 0xc#5 => .ok (.teqi (fRs w) (fImm w))
  | 0xe#5 => .ok (.tnei (fRs w) (fImm w))
  | 0x10#5 => .ok (.bltzal (fRs w) (fImm w))
  | 0x11#5 => .ok (.bgezal (fRs w) (fImm w))
  | 0x12#5 => .ok (.bltzall (fRs w) (fImm w))
  | 0x13#5 => .ok (.bgezall (fRs w) (fImm w))
  | _ => .bad .reserved

/-- SPECIAL2, by function (R372) -/
def decodeSpecial2 (w : Word) : Decoded :=
  match fFn w with
  | 0x0#6 => .ok (.mad (fRs w) (fRt w))
  | 0x1#6 => .ok (.madu (fRs w) (fRt w))
  | 0x2#6 => .ok (.mul (fRs w) (fRt w) (fRd w))
  | _ => .bad .reserved

/-- The four branches on condition 0, by nd and tf (R380) -/
def decodeBc0 (w : Word) : Decoded :=
  match fNdTf w with
  | 0#2 => .ok (.bc0f (fImm w))
  | 1#2 => .ok (.bc0t (fImm w))
  | 2#2 => .ok (.bc0fl (fImm w))
  | 3#2 => .ok (.bc0tl (fImm w))

/-- The four branches on condition 1, by nd and tf (R380) -/
def decodeBc1 (w : Word) : Decoded :=
  match fNdTf w with
  | 0#2 => .ok (.bc1f (fCc w) (fImm w))
  | 1#2 => .ok (.bc1t (fCc w) (fImm w))
  | 2#2 => .ok (.bc1fl (fCc w) (fImm w))
  | 3#2 => .ok (.bc1tl (fCc w) (fImm w))

/-- The four branches on condition 2, by nd and tf (R380) -/
def decodeBc2 (w : Word) : Decoded :=
  match fNdTf w with
  | 0#2 => .ok (.bc2f (fImm w))
  | 1#2 => .ok (.bc2t (fImm w))
  | 2#2 => .ok (.bc2fl (fImm w))
  | 3#2 => .ok (.bc2tl (fImm w))

/-- The four branches on condition 3, by nd and tf (R380) -/
def decodeBc3 (w : Word) : Decoded :=
  match fNdTf w with
  | 0#2 => .ok (.bc3f (fImm w))
  | 1#2 => .ok (.bc3t (fImm w))
  | 2#2 => .ok (.bc3fl (fImm w))
  | 3#2 => .ok (.bc3tl (fImm w))

/-- Coprocessor 0 operations, by function (R385) -/
def decodeCop0Op (w : Word) : Decoded :=
  match fFn w with
  | 0x1#6 => .ok (.tlbr)
  | 0x2#6 => .ok (.tlbwi)
  | 0x6#6 => .ok (.tlbwr)
  | 0x8#6 => .ok (.tlbp)
  | 0x10#6 => .ok (.rfe)
  | 0x18#6 => .ok (.eret)
  | 0x20#6 => .ok (.wait)
  | _ => .bad .cop0

/-- COP0, by sub-opcode (R380) -/
def decodeCop0 (w : Word) : Decoded :=
  if (fRs w).msb then decodeCop0Op w else
  match fRs w with
  | 0#5 => .ok (.mfc0 (fRt w) (fRd w))
  | 1#5 => .ok (.dmfc0 (fRt w) (fRd w))
  | 4#5 => .ok (.mtc0 (fRt w) (fRd w))
  | 5#5 => .ok (.dmtc0 (fRt w) (fRd w))
  | 8#5 => decodeBc0 w
  | _ => .bad .cop0

/-- COP2, by sub-opcode (R380, R386) -/
def decodeCop2 (w : Word) : Decoded :=
  if (fRs w).msb then .ok (.cop2 (fCofun w)) else
  match fRs w with
  | 0#5 => .ok (.mfc2 (fRt w) (fRd w))
  | 2#5 => .ok (.cfc2 (fRt w) (fRd w))
  | 4#5 => .ok (.mtc2 (fRt w) (fRd w))
  | 6#5 => .ok (.ctc2 (fRt w) (fRd w))
  | 8#5 => decodeBc2 w
  | _ => .bad (.copAbsent 2#2)

/-- COP3, by sub-opcode (R380, R386) -/
def decodeCop3 (w : Word) : Decoded :=
  if (fRs w).msb then .ok (.cop3 (fCofun w)) else
  match fRs w with
  | 0#5 => .ok (.mfc3 (fRt w) (fRd w))
  | 2#5 => .ok (.cfc3 (fRt w) (fRd w))
  | 4#5 => .ok (.mtc3 (fRt w) (fRd w))
  | 6#5 => .ok (.ctc3 (fRt w) (fRd w))
  | 8#5 => decodeBc3 w
  | _ => .bad (.copAbsent 3#2)

/-- COP1 with fmt S, by function (R382, R893) -/
def decodeFpS (w : Word) : Decoded :=
  match fFn w with
  | 0x0#6 => .ok (.addS (fRt w) (fRd w) (fSa w))
  | 0x1#6 => .ok (.subS (fRt w) (fRd w) (fSa w))
  | 0x2#6 => .ok (.mulS (fRt w) (fRd w) (fSa w))
  | 0x3#6 => .ok (.divS (fRt w) (fRd w) (fSa w))
  | 0x4#6 => .ok (.sqrtS (fRd w) (fSa w))
  | 0x5#6 => .ok (.absS (fRd w) (fSa w))
  | 0x6#6 => .ok (.movS (fRd w) (fSa w))
  | 0x7#6 => .ok (.negS (fRd w) (fSa w))
  | 0x8#6 => .ok (.roundLS (fRd w) (fSa w))
  | 0x9#6 => .ok (.truncLS (fRd w) (fSa w))
  | 0xa#6 => .ok (.ceilLS (fRd w) (fSa w))
  | 0xb#6 => .ok (.floorLS (fRd w) (fSa w))
  | 0xc#6 => .ok (.roundWS (fRd w) (fSa w))
  | 0xd#6 => .ok (.truncWS (fRd w) (fSa w))
  | 0xe#6 => .ok (.ceilWS (fRd w) (fSa w))
  | 0xf#6 => .ok (.floorWS (fRd w) (fSa w))
  | 0x11#6 => if fTf w = 1#1 then .ok (.movtS (fCc w) (fRd w) (fSa w)) else .ok (.movfS (fCc w) (fRd w) (fSa w))
  | 0x12#6 => .ok (.movzS (fRt w) (fRd w) (fSa w))
  | 0x13#6 => .ok (.movnS (fRt w) (fRd w) (fSa w))
  | 0x15#6 => .ok (.recipS (fRd w) (fSa w))
  | 0x16#6 => .ok (.rsqrtS (fRd w) (fSa w))
  | 0x20#6 => .bad (.fpFormat .mips1)
  | 0x21#6 => .ok (.cvtDS (fRd w) (fSa w))
  | 0x24#6 => .ok (.cvtWS (fRd w) (fSa w))
  | 0x25#6 => .ok (.cvtLS (fRd w) (fSa w))
  | 0x30#6 => .ok (.cFS (fRt w) (fRd w) (fCmpCc w))
  | 0x31#6 => .ok (.cUnS (fRt w) (fRd w) (fCmpCc w))
  | 0x32#6 => .ok (.cEqS (fRt w) (fRd w) (fCmpCc w))
  | 0x33#6 => .ok (.cUeqS (fRt w) (fRd w) (fCmpCc w))
  | 0x34#6 => .ok (.cOltS (fRt w) (fRd w) (fCmpCc w))
  | 0x35#6 => .ok (.cUltS (fRt w) (fRd w) (fCmpCc w))
  | 0x36#6 => .ok (.cOleS (fRt w) (fRd w) (fCmpCc w))
  | 0x37#6 => .ok (.cUleS (fRt w) (fRd w) (fCmpCc w))
  | 0x38#6 => .ok (.cSfS (fRt w) (fRd w) (fCmpCc w))
  | 0x39#6 => .ok (.cNgleS (fRt w) (fRd w) (fCmpCc w))
  | 0x3a#6 => .ok (.cSeqS (fRt w) (fRd w) (fCmpCc w))
  | 0x3b#6 => .ok (.cNglS (fRt w) (fRd w) (fCmpCc w))
  | 0x3c#6 => .ok (.cLtS (fRt w) (fRd w) (fCmpCc w))
  | 0x3d#6 => .ok (.cNgeS (fRt w) (fRd w) (fCmpCc w))
  | 0x3e#6 => .ok (.cLeS (fRt w) (fRd w) (fCmpCc w))
  | 0x3f#6 => .ok (.cNgtS (fRt w) (fRd w) (fCmpCc w))
  | _ => .bad .cop1

/-- COP1 with fmt D, by function (R382, R893) -/
def decodeFpD (w : Word) : Decoded :=
  match fFn w with
  | 0x0#6 => .ok (.addD (fRt w) (fRd w) (fSa w))
  | 0x1#6 => .ok (.subD (fRt w) (fRd w) (fSa w))
  | 0x2#6 => .ok (.mulD (fRt w) (fRd w) (fSa w))
  | 0x3#6 => .ok (.divD (fRt w) (fRd w) (fSa w))
  | 0x4#6 => .ok (.sqrtD (fRd w) (fSa w))
  | 0x5#6 => .ok (.absD (fRd w) (fSa w))
  | 0x6#6 => .ok (.movD (fRd w) (fSa w))
  | 0x7#6 => .ok (.negD (fRd w) (fSa w))
  | 0x8#6 => .ok (.roundLD (fRd w) (fSa w))
  | 0x9#6 => .ok (.truncLD (fRd w) (fSa w))
  | 0xa#6 => .ok (.ceilLD (fRd w) (fSa w))
  | 0xb#6 => .ok (.floorLD (fRd w) (fSa w))
  | 0xc#6 => .ok (.roundWD (fRd w) (fSa w))
  | 0xd#6 => .ok (.truncWD (fRd w) (fSa w))
  | 0xe#6 => .ok (.ceilWD (fRd w) (fSa w))
  | 0xf#6 => .ok (.floorWD (fRd w) (fSa w))
  | 0x11#6 => if fTf w = 1#1 then .ok (.movtD (fCc w) (fRd w) (fSa w)) else .ok (.movfD (fCc w) (fRd w) (fSa w))
  | 0x12#6 => .ok (.movzD (fRt w) (fRd w) (fSa w))
  | 0x13#6 => .ok (.movnD (fRt w) (fRd w) (fSa w))
  | 0x15#6 => .ok (.recipD (fRd w) (fSa w))
  | 0x16#6 => .ok (.rsqrtD (fRd w) (fSa w))
  | 0x20#6 => .ok (.cvtSD (fRd w) (fSa w))
  | 0x21#6 => .bad (.fpFormat .mips1)
  | 0x24#6 => .ok (.cvtWD (fRd w) (fSa w))
  | 0x25#6 => .ok (.cvtLD (fRd w) (fSa w))
  | 0x30#6 => .ok (.cFD (fRt w) (fRd w) (fCmpCc w))
  | 0x31#6 => .ok (.cUnD (fRt w) (fRd w) (fCmpCc w))
  | 0x32#6 => .ok (.cEqD (fRt w) (fRd w) (fCmpCc w))
  | 0x33#6 => .ok (.cUeqD (fRt w) (fRd w) (fCmpCc w))
  | 0x34#6 => .ok (.cOltD (fRt w) (fRd w) (fCmpCc w))
  | 0x35#6 => .ok (.cUltD (fRt w) (fRd w) (fCmpCc w))
  | 0x36#6 => .ok (.cOleD (fRt w) (fRd w) (fCmpCc w))
  | 0x37#6 => .ok (.cUleD (fRt w) (fRd w) (fCmpCc w))
  | 0x38#6 => .ok (.cSfD (fRt w) (fRd w) (fCmpCc w))
  | 0x39#6 => .ok (.cNgleD (fRt w) (fRd w) (fCmpCc w))
  | 0x3a#6 => .ok (.cSeqD (fRt w) (fRd w) (fCmpCc w))
  | 0x3b#6 => .ok (.cNglD (fRt w) (fRd w) (fCmpCc w))
  | 0x3c#6 => .ok (.cLtD (fRt w) (fRd w) (fCmpCc w))
  | 0x3d#6 => .ok (.cNgeD (fRt w) (fRd w) (fCmpCc w))
  | 0x3e#6 => .ok (.cLeD (fRt w) (fRd w) (fCmpCc w))
  | 0x3f#6 => .ok (.cNgtD (fRt w) (fRd w) (fCmpCc w))
  | _ => .bad .cop1

/-- The level at which a COP1 function appears (R382, R390), for the formats marked U; none for a function no
page defines -/
def fpFnLevel (fn : BitVec 6) : Option Isa :=
  match fn with
  | 0x0#6 | 0x1#6 | 0x2#6 | 0x3#6 | 0x5#6 | 0x6#6 | 0x7#6 | 0x24#6 => some .mips1
  | 0x30#6 | 0x31#6 | 0x32#6 | 0x33#6 | 0x34#6 | 0x35#6 | 0x36#6 | 0x37#6 => some .mips1
  | 0x38#6 | 0x39#6 | 0x3a#6 | 0x3b#6 | 0x3c#6 | 0x3d#6 | 0x3e#6 | 0x3f#6 => some .mips1
  | 0x4#6 | 0xc#6 | 0xd#6 | 0xe#6 | 0xf#6 => some .mips2
  | 0x8#6 | 0x9#6 | 0xa#6 | 0xb#6 | 0x25#6 => some .mips3
  | 0x11#6 | 0x12#6 | 0x13#6 | 0x15#6 | 0x16#6 => some .mips4
  | _ => none

/-- COP1 with fmt W, by function: only CVT.S and CVT.D take a word operand (R893) -/
def decodeFpW (w : Word) : Decoded :=
  match fFn w with
  | 0x20#6 => .ok (.cvtSW (fRd w) (fSa w))
  | 0x21#6 => .ok (.cvtDW (fRd w) (fSa w))
  | fn => match fpFnLevel fn with
    | some lvl => .bad (.fpFormat lvl)
    | none => .bad .cop1

/-- COP1 with fmt L, by function: only CVT.S and CVT.D take a long operand, and the format itself is MIPS-3
(R893) -/
def decodeFpL (w : Word) : Decoded :=
  match fFn w with
  | 0x20#6 => .ok (.cvtSL (fRd w) (fSa w))
  | 0x21#6 => .ok (.cvtDL (fRd w) (fSa w))
  | fn => match fpFnLevel fn with
    | some .mips4 => .bad (.fpFormat .mips4)
    | some _ => .bad (.fpFormat .mips3)
    | none => .bad .cop1

/-- COP1, by sub-opcode or fmt (R380, R381) -/
def decodeCop1 (w : Word) : Decoded :=
  match fRs w with
  | 0#5 => .ok (.mfc1 (fRt w) (fRd w))
  | 1#5 => .ok (.dmfc1 (fRt w) (fRd w))
  | 2#5 => .ok (.cfc1 (fRt w) (fRd w))
  | 4#5 => .ok (.mtc1 (fRt w) (fRd w))
  | 5#5 => .ok (.dmtc1 (fRt w) (fRd w))
  | 6#5 => .ok (.ctc1 (fRt w) (fRd w))
  | 8#5 => decodeBc1 w
  | 16#5 => decodeFpS w
  | 17#5 => decodeFpD w
  | 20#5 => decodeFpW w
  | 21#5 => decodeFpL w
  | _ => .bad .cop1

/-- COP1X, by function; a multiply-add with fmt3 W or L is a format marked U (R383, R893) -/
def decodeCop1x (w : Word) : Decoded :=
  match fFn w with
  | 0x0#6 => .ok (.lwxc1 (fRs w) (fRt w) (fSa w))
  | 0x1#6 => .ok (.ldxc1 (fRs w) (fRt w) (fSa w))
  | 0x8#6 => .ok (.swxc1 (fRs w) (fRt w) (fRd w))
  | 0x9#6 => .ok (.sdxc1 (fRs w) (fRt w) (fRd w))
  | 0xf#6 => .ok (.prefx (fRs w) (fRt w) (fRd w))
  | 0x20#6 => .ok (.maddS (fRs w) (fRt w) (fRd w) (fSa w))
  | 0x21#6 => .ok (.maddD (fRs w) (fRt w) (fRd w) (fSa w))
  | 0x24#6 => .bad (.fpFormat .mips4)
  | 0x25#6 => .bad (.fpFormat .mips4)
  | 0x28#6 => .ok (.msubS (fRs w) (fRt w) (fRd w) (fSa w))
  | 0x29#6 => .ok (.msubD (fRs w) (fRt w) (fRd w) (fSa w))
  | 0x2c#6 => .bad (.fpFormat .mips4)
  | 0x2d#6 => .bad (.fpFormat .mips4)
  | 0x30#6 => .ok (.nmaddS (fRs w) (fRt w) (fRd w) (fSa w))
  | 0x31#6 => .ok (.nmaddD (fRs w) (fRt w) (fRd w) (fSa w))
  | 0x34#6 => .bad (.fpFormat .mips4)
  | 0x35#6 => .bad (.fpFormat .mips4)
  | 0x38#6 => .ok (.nmsubS (fRs w) (fRt w) (fRd w) (fSa w))
  | 0x39#6 => .ok (.nmsubD (fRs w) (fRt w) (fRd w) (fSa w))
  | 0x3c#6 => .bad (.fpFormat .mips4)
  | 0x3d#6 => .bad (.fpFormat .mips4)
  | _ => .bad .cop1

/-- An instruction word at a member of level `isa` (R363 to R365). The level matters to two primary opcodes
only, 010011 and 110011, which name different instructions at different levels; every other word decodes
alike on every member, and a member that lacks the instruction takes Reserved Instruction when it runs. -/
def decode (isa : Isa) (w : Word) : Decoded :=
  match fOp w with
  | 0x0#6 => decodeSpecial w
  | 0x1#6 => decodeRegimm w
  | 0x2#6 => .ok (.j (fIdx w))
  | 0x3#6 => .ok (.jal (fIdx w))
  | 0x4#6 => .ok (.beq (fRs w) (fRt w) (fImm w))
  | 0x5#6 => .ok (.bne (fRs w) (fRt w) (fImm w))
  | 0x6#6 => .ok (.blez (fRs w) (fImm w))
  | 0x7#6 => .ok (.bgtz (fRs w) (fImm w))
  | 0x8#6 => .ok (.addi (fRs w) (fRt w) (fImm w))
  | 0x9#6 => .ok (.addiu (fRs w) (fRt w) (fImm w))
  | 0xa#6 => .ok (.slti (fRs w) (fRt w) (fImm w))
  | 0xb#6 => .ok (.sltiu (fRs w) (fRt w) (fImm w))
  | 0xc#6 => .ok (.andi (fRs w) (fRt w) (fImm w))
  | 0xd#6 => .ok (.ori (fRs w) (fRt w) (fImm w))
  | 0xe#6 => .ok (.xori (fRs w) (fRt w) (fImm w))
  | 0xf#6 => .ok (.lui (fRt w) (fImm w))
  | 0x10#6 => decodeCop0 w
  | 0x11#6 => decodeCop1 w
  | 0x12#6 => decodeCop2 w
  | 0x13#6 => match isa with
    | .mips1 | .mips2 => decodeCop3 w
    | .mips3 => .bad .reserved
    | .mips4 => decodeCop1x w
  | 0x14#6 => .ok (.beql (fRs w) (fRt w) (fImm w))
  | 0x15#6 => .ok (.bnel (fRs w) (fRt w) (fImm w))
  | 0x16#6 => .ok (.blezl (fRs w) (fImm w))
  | 0x17#6 => .ok (.bgtzl (fRs w) (fImm w))
  | 0x18#6 => .ok (.daddi (fRs w) (fRt w) (fImm w))
  | 0x19#6 => .ok (.daddiu (fRs w) (fRt w) (fImm w))
  | 0x1a#6 => .ok (.ldl (fRs w) (fRt w) (fImm w))
  | 0x1b#6 => .ok (.ldr (fRs w) (fRt w) (fImm w))
  | 0x1c#6 => decodeSpecial2 w
  | 0x20#6 => .ok (.lb (fRs w) (fRt w) (fImm w))
  | 0x21#6 => .ok (.lh (fRs w) (fRt w) (fImm w))
  | 0x22#6 => .ok (.lwl (fRs w) (fRt w) (fImm w))
  | 0x23#6 => .ok (.lw (fRs w) (fRt w) (fImm w))
  | 0x24#6 => .ok (.lbu (fRs w) (fRt w) (fImm w))
  | 0x25#6 => .ok (.lhu (fRs w) (fRt w) (fImm w))
  | 0x26#6 => .ok (.lwr (fRs w) (fRt w) (fImm w))
  | 0x27#6 => .ok (.lwu (fRs w) (fRt w) (fImm w))
  | 0x28#6 => .ok (.sb (fRs w) (fRt w) (fImm w))
  | 0x29#6 => .ok (.sh (fRs w) (fRt w) (fImm w))
  | 0x2a#6 => .ok (.swl (fRs w) (fRt w) (fImm w))
  | 0x2b#6 => .ok (.sw (fRs w) (fRt w) (fImm w))
  | 0x2c#6 => .ok (.sdl (fRs w) (fRt w) (fImm w))
  | 0x2d#6 => .ok (.sdr (fRs w) (fRt w) (fImm w))
  | 0x2e#6 => .ok (.swr (fRs w) (fRt w) (fImm w))
  | 0x2f#6 => .ok (.cache (fRs w) (fRt w) (fImm w))
  | 0x30#6 => .ok (.ll (fRs w) (fRt w) (fImm w))
  | 0x31#6 => .ok (.lwc1 (fRs w) (fRt w) (fImm w))
  | 0x32#6 => .ok (.lwc2 (fRs w) (fRt w) (fImm w))
  | 0x33#6 => match isa with
    | .mips1 | .mips2 => .ok (.lwc3 (fRs w) (fRt w) (fImm w))
    | .mips3 => .bad .reserved
    | .mips4 => .ok (.pref (fRs w) (fRt w) (fImm w))
  | 0x34#6 => .ok (.lld (fRs w) (fRt w) (fImm w))
  | 0x35#6 => .ok (.ldc1 (fRs w) (fRt w) (fImm w))
  | 0x36#6 => .ok (.ldc2 (fRs w) (fRt w) (fImm w))
  | 0x37#6 => .ok (.ld (fRs w) (fRt w) (fImm w))
  | 0x38#6 => .ok (.sc (fRs w) (fRt w) (fImm w))
  | 0x39#6 => .ok (.swc1 (fRs w) (fRt w) (fImm w))
  | 0x3a#6 => .ok (.swc2 (fRs w) (fRt w) (fImm w))
  | 0x3b#6 => .ok (.swc3 (fRs w) (fRt w) (fImm w))
  | 0x3c#6 => .ok (.scd (fRs w) (fRt w) (fImm w))
  | 0x3d#6 => .ok (.sdc1 (fRs w) (fRt w) (fImm w))
  | 0x3e#6 => .ok (.sdc2 (fRs w) (fRt w) (fImm w))
  | 0x3f#6 => .ok (.sd (fRs w) (fRt w) (fImm w))
  | _ => .bad .reserved

/-! ### The encoder (R361, R362, spec/opcode_table.json), every must-be-zero field zero -/

/-- R-type: opcode, rs, rt, rd, sa, function (R361) -/
def packR (op : BitVec 6) (rs rt rd sa : BitVec 5) (fn : BitVec 6) : Word :=
  op ++ rs ++ rt ++ rd ++ sa ++ fn
/-- I-type: opcode, rs, rt, immediate (R361) -/
def packI (op : BitVec 6) (rs rt : BitVec 5) (imm : BitVec 16) : Word :=
  op ++ rs ++ rt ++ imm
/-- J-type: opcode, index (R361) -/
def packJ (op : BitVec 6) (idx : BitVec 26) : Word := op ++ idx
/-- A coprocessor operation: opcode, CO = 1, function in bits 24:0 (R362) -/
def packCo (op : BitVec 6) (fn : BitVec 25) : Word := op ++ 1#1 ++ fn
/-- SYSCALL and BREAK: code in bits 25:6 (R361) -/
def packCode (code : BitVec 20) (fn : BitVec 6) : Word := 0#6 ++ code ++ fn
/-- A register trap: code in bits 15:6 (R361) -/
def packTrap (rs rt : BitVec 5) (code : BitVec 10) (fn : BitVec 6) : Word := 0#6 ++ rs ++ rt ++ code ++ fn
/-- A coprocessor branch: opcode, BC, cc, nd and tf, offset (R362) -/
def packBc (op : BitVec 6) (cc : BitVec 3) (ndTf : BitVec 2) (off : BitVec 16) : Word :=
  op ++ 8#5 ++ cc ++ ndTf ++ off
/-- A conditional move on a condition code: cc, 0 and tf in bits 20:16 (R366, R382) -/
def packMovc (op : BitVec 6) (rs : BitVec 5) (cc : BitVec 3) (tf : BitVec 1) (rd sa : BitVec 5)
    (fn : BitVec 6) : Word := op ++ rs ++ cc ++ 0#1 ++ tf ++ rd ++ sa ++ fn
/-- A compare: fmt, ft, fs, cc, 0, function (R382) -/
def packCmp (fmt ft fs : BitVec 5) (cc : BitVec 3) (fn : BitVec 6) : Word :=
  0x11#6 ++ fmt ++ ft ++ fs ++ cc ++ 0#2 ++ fn

/-- The word of an instruction. -/
def encode : Instr → Word
  | .add rs rt rd => packR 0x00#6 rs rt rd 0#5 0x20#6
  | .addu rs rt rd => packR 0x00#6 rs rt rd 0#5 0x21#6
  | .sub rs rt rd => packR 0x00#6 rs rt rd 0#5 0x22#6
  | .subu rs rt rd => packR 0x00#6 rs rt rd 0#5 0x23#6
  | .dadd rs rt rd => packR 0x00#6 rs rt rd 0#5 0x2c#6
  | .daddu rs rt rd => packR 0x00#6 rs rt rd 0#5 0x2d#6
  | .dsub rs rt rd => packR 0x00#6 rs rt rd 0#5 0x2e#6
  | .dsubu rs rt rd => packR 0x00#6 rs rt rd 0#5 0x2f#6
  | .and rs rt rd => packR 0x00#6 rs rt rd 0#5 0x24#6
  | .or rs rt rd => packR 0x00#6 rs rt rd 0#5 0x25#6
  | .xor rs rt rd => packR 0x00#6 rs rt rd 0#5 0x26#6
  | .nor rs rt rd => packR 0x00#6 rs rt rd 0#5 0x27#6
  | .slt rs rt rd => packR 0x00#6 rs rt rd 0#5 0x2a#6
  | .sltu rs rt rd => packR 0x00#6 rs rt rd 0#5 0x2b#6
  | .sllv rs rt rd => packR 0x00#6 rs rt rd 0#5 0x04#6
  | .srlv rs rt rd => packR 0x00#6 rs rt rd 0#5 0x06#6
  | .srav rs rt rd => packR 0x00#6 rs rt rd 0#5 0x07#6
  | .dsllv rs rt rd => packR 0x00#6 rs rt rd 0#5 0x14#6
  | .dsrlv rs rt rd => packR 0x00#6 rs rt rd 0#5 0x16#6
  | .dsrav rs rt rd => packR 0x00#6 rs rt rd 0#5 0x17#6
  | .movn rs rt rd => packR 0x00#6 rs rt rd 0#5 0x0b#6
  | .movz rs rt rd => packR 0x00#6 rs rt rd 0#5 0x0a#6
  | .sll rt rd sa => packR 0x00#6 0#5 rt rd sa 0x00#6
  | .srl rt rd sa => packR 0x00#6 0#5 rt rd sa 0x02#6
  | .sra rt rd sa => packR 0x00#6 0#5 rt rd sa 0x03#6
  | .dsll rt rd sa => packR 0x00#6 0#5 rt rd sa 0x38#6
  | .dsrl rt rd sa => packR 0x00#6 0#5 rt rd sa 0x3a#6
  | .dsra rt rd sa => packR 0x00#6 0#5 rt rd sa 0x3b#6
  | .dsll32 rt rd sa => packR 0x00#6 0#5 rt rd sa 0x3c#6
  | .dsrl32 rt rd sa => packR 0x00#6 0#5 rt rd sa 0x3e#6
  | .dsra32 rt rd sa => packR 0x00#6 0#5 rt rd sa 0x3f#6
  | .movf rs cc rd => packMovc 0x00#6 rs cc 0#1 rd 0#5 0x01#6
  | .movt rs cc rd => packMovc 0x00#6 rs cc 1#1 rd 0#5 0x01#6
  | .addi rs rt imm => packI 0x08#6 rs rt imm
  | .addiu rs rt imm => packI 0x09#6 rs rt imm
  | .slti rs rt imm => packI 0x0a#6 rs rt imm
  | .sltiu rs rt imm => packI 0x0b#6 rs rt imm
  | .andi rs rt imm => packI 0x0c#6 rs rt imm
  | .ori rs rt imm => packI 0x0d#6 rs rt imm
  | .xori rs rt imm => packI 0x0e#6 rs rt imm
  | .daddi rs rt imm => packI 0x18#6 rs rt imm
  | .daddiu rs rt imm => packI 0x19#6 rs rt imm
  | .lui rt imm => packI 0x0f#6 0#5 rt imm
  | .mfhi rd => packR 0x00#6 0#5 0#5 rd 0#5 0x10#6
  | .mflo rd => packR 0x00#6 0#5 0#5 rd 0#5 0x12#6
  | .mthi rs => packR 0x00#6 rs 0#5 0#5 0#5 0x11#6
  | .mtlo rs => packR 0x00#6 rs 0#5 0#5 0#5 0x13#6
  | .div rs rt => packR 0x00#6 rs rt 0#5 0#5 0x1a#6
  | .divu rs rt => packR 0x00#6 rs rt 0#5 0#5 0x1b#6
  | .ddiv rs rt => packR 0x00#6 rs rt 0#5 0#5 0x1e#6
  | .ddivu rs rt => packR 0x00#6 rs rt 0#5 0#5 0x1f#6
  | .mult rs rt => packR 0x00#6 rs rt 0#5 0#5 0x18#6
  | .multu rs rt => packR 0x00#6 rs rt 0#5 0#5 0x19#6
  | .dmult rs rt => packR 0x00#6 rs rt 0#5 0#5 0x1c#6
  | .dmultu rs rt => packR 0x00#6 rs rt 0#5 0#5 0x1d#6
  | .mad rs rt => packR 0x1c#6 rs rt 0#5 0#5 0x00#6
  | .madu rs rt => packR 0x1c#6 rs rt 0#5 0#5 0x01#6
  | .mul rs rt rd => packR 0x1c#6 rs rt rd 0#5 0x02#6
  | .j idx => packJ 0x02#6 idx
  | .jal idx => packJ 0x03#6 idx
  | .jr rs => packR 0x00#6 rs 0#5 0#5 0#5 0x08#6
  | .jalr rs rd => packR 0x00#6 rs 0#5 rd 0#5 0x09#6
  | .beq rs rt offset => packI 0x04#6 rs rt offset
  | .bne rs rt offset => packI 0x05#6 rs rt offset
  | .beql rs rt offset => packI 0x14#6 rs rt offset
  | .bnel rs rt offset => packI 0x15#6 rs rt offset
  | .blez rs offset => packI 0x06#6 rs 0#5 offset
  | .bgtz rs offset => packI 0x07#6 rs 0#5 offset
  | .blezl rs offset => packI 0x16#6 rs 0#5 offset
  | .bgtzl rs offset => packI 0x17#6 rs 0#5 offset
  | .bltz rs offset => packI 0x01#6 rs 0#5 offset
  | .bgez rs offset => packI 0x01#6 rs 1#5 offset
  | .bltzl rs offset => packI 0x01#6 rs 2#5 offset
  | .bgezl rs offset => packI 0x01#6 rs 3#5 offset
  | .bltzal rs offset => packI 0x01#6 rs 16#5 offset
  | .bgezal rs offset => packI 0x01#6 rs 17#5 offset
  | .bltzall rs offset => packI 0x01#6 rs 18#5 offset
  | .bgezall rs offset => packI 0x01#6 rs 19#5 offset
  | .bc0f offset => packBc 0x10#6 0#3 0#2 offset
  | .bc0t offset => packBc 0x10#6 0#3 1#2 offset
  | .bc0fl offset => packBc 0x10#6 0#3 2#2 offset
  | .bc0tl offset => packBc 0x10#6 0#3 3#2 offset
  | .bc2f offset => packBc 0x12#6 0#3 0#2 offset
  | .bc2t offset => packBc 0x12#6 0#3 1#2 offset
  | .bc2fl offset => packBc 0x12#6 0#3 2#2 offset
  | .bc2tl offset => packBc 0x12#6 0#3 3#2 offset
  | .bc3f offset => packBc 0x13#6 0#3 0#2 offset
  | .bc3t offset => packBc 0x13#6 0#3 1#2 offset
  | .bc3fl offset => packBc 0x13#6 0#3 2#2 offset
  | .bc3tl offset => packBc 0x13#6 0#3 3#2 offset
  | .lb base rt offset => packI 0x20#6 base rt offset
  | .lbu base rt offset => packI 0x24#6 base rt offset
  | .lh base rt offset => packI 0x21#6 base rt offset
  | .lhu base rt offset => packI 0x25#6 base rt offset
  | .lw base rt offset => packI 0x23#6 base rt offset
  | .lwu base rt offset => packI 0x27#6 base rt offset
  | .ld base rt offset => packI 0x37#6 base rt offset
  | .sb base rt offset => packI 0x28#6 base rt offset
  | .sh base rt offset => packI 0x29#6 base rt offset
  | .sw base rt offset => packI 0x2b#6 base rt offset
  | .sd base rt offset => packI 0x3f#6 base rt offset
  | .lwl base rt offset => packI 0x22#6 base rt offset
  | .lwr base rt offset => packI 0x26#6 base rt offset
  | .swl base rt offset => packI 0x2a#6 base rt offset
  | .swr base rt offset => packI 0x2e#6 base rt offset
  | .ldl base rt offset => packI 0x1a#6 base rt offset
  | .ldr base rt offset => packI 0x1b#6 base rt offset
  | .sdl base rt offset => packI 0x2c#6 base rt offset
  | .sdr base rt offset => packI 0x2d#6 base rt offset
  | .ll base rt offset => packI 0x30#6 base rt offset
  | .sc base rt offset => packI 0x38#6 base rt offset
  | .lld base rt offset => packI 0x34#6 base rt offset
  | .scd base rt offset => packI 0x3c#6 base rt offset
  | .lwc2 base rt offset => packI 0x32#6 base rt offset
  | .lwc3 base rt offset => packI 0x33#6 base rt offset
  | .swc2 base rt offset => packI 0x3a#6 base rt offset
  | .swc3 base rt offset => packI 0x3b#6 base rt offset
  | .ldc2 base rt offset => packI 0x36#6 base rt offset
  | .sdc2 base rt offset => packI 0x3e#6 base rt offset
  | .pref base hint offset => packI 0x33#6 base hint offset
  | .syscall code => packCode code 0x0c#6
  | .brk code => packCode code 0x0d#6
  | .sync stype => packR 0x00#6 0#5 0#5 0#5 stype 0x0f#6
  | .mfc0 rt rd => packR 0x10#6 0#5 rt rd 0#5 0x00#6
  | .mtc0 rt rd => packR 0x10#6 4#5 rt rd 0#5 0x00#6
  | .dmfc0 rt rd => packR 0x10#6 1#5 rt rd 0#5 0x00#6
  | .dmtc0 rt rd => packR 0x10#6 5#5 rt rd 0#5 0x00#6
  | .mfc2 rt rd => packR 0x12#6 0#5 rt rd 0#5 0x00#6
  | .mtc2 rt rd => packR 0x12#6 4#5 rt rd 0#5 0x00#6
  | .cfc2 rt rd => packR 0x12#6 2#5 rt rd 0#5 0x00#6
  | .ctc2 rt rd => packR 0x12#6 6#5 rt rd 0#5 0x00#6
  | .cop2 fn => packCo 0x12#6 fn
  | .mfc3 rt rd => packR 0x13#6 0#5 rt rd 0#5 0x00#6
  | .mtc3 rt rd => packR 0x13#6 4#5 rt rd 0#5 0x00#6
  | .cfc3 rt rd => packR 0x13#6 2#5 rt rd 0#5 0x00#6
  | .ctc3 rt rd => packR 0x13#6 6#5 rt rd 0#5 0x00#6
  | .cop3 fn => packCo 0x13#6 fn
  | .cache base op offset => packI 0x2f#6 base op offset
  | .tlbr => packCo 0x10#6 0x1#25
  | .tlbwi => packCo 0x10#6 0x2#25
  | .tlbwr => packCo 0x10#6 0x6#25
  | .tlbp => packCo 0x10#6 0x8#25
  | .rfe => packCo 0x10#6 0x10#25
  | .eret => packCo 0x10#6 0x18#25
  | .wait => packCo 0x10#6 0x20#25
  | .tge rs rt code => packTrap rs rt code 0x30#6
  | .tgeu rs rt code => packTrap rs rt code 0x31#6
  | .tlt rs rt code => packTrap rs rt code 0x32#6
  | .tltu rs rt code => packTrap rs rt code 0x33#6
  | .teq rs rt code => packTrap rs rt code 0x34#6
  | .tne rs rt code => packTrap rs rt code 0x36#6
  | .tgei rs imm => packI 0x01#6 rs 8#5 imm
  | .tgeiu rs imm => packI 0x01#6 rs 9#5 imm
  | .tlti rs imm => packI 0x01#6 rs 10#5 imm
  | .tltiu rs imm => packI 0x01#6 rs 11#5 imm
  | .teqi rs imm => packI 0x01#6 rs 12#5 imm
  | .tnei rs imm => packI 0x01#6 rs 14#5 imm
  | .mfc1 rt fs => packR 0x11#6 0#5 rt fs 0#5 0x00#6
  | .mtc1 rt fs => packR 0x11#6 4#5 rt fs 0#5 0x00#6
  | .cfc1 rt fs => packR 0x11#6 2#5 rt fs 0#5 0x00#6
  | .ctc1 rt fs => packR 0x11#6 6#5 rt fs 0#5 0x00#6
  | .dmfc1 rt fs => packR 0x11#6 1#5 rt fs 0#5 0x00#6
  | .dmtc1 rt fs => packR 0x11#6 5#5 rt fs 0#5 0x00#6
  | .lwc1 base ft offset => packI 0x31#6 base ft offset
  | .ldc1 base ft offset => packI 0x35#6 base ft offset
  | .swc1 base ft offset => packI 0x39#6 base ft offset
  | .sdc1 base ft offset => packI 0x3d#6 base ft offset
  | .lwxc1 base index fd => packR 0x13#6 base index 0#5 fd 0x00#6
  | .ldxc1 base index fd => packR 0x13#6 base index 0#5 fd 0x01#6
  | .swxc1 base index fs => packR 0x13#6 base index fs 0#5 0x08#6
  | .sdxc1 base index fs => packR 0x13#6 base index fs 0#5 0x09#6
  | .prefx base index hint => packR 0x13#6 base index hint 0#5 0x0f#6
  | .bc1f cc offset => packBc 0x11#6 cc 0#2 offset
  | .bc1fl cc offset => packBc 0x11#6 cc 2#2 offset
  | .bc1t cc offset => packBc 0x11#6 cc 1#2 offset
  | .bc1tl cc offset => packBc 0x11#6 cc 3#2 offset
  | .addS ft fs fd => packR 0x11#6 16#5 ft fs fd 0x00#6
  | .subS ft fs fd => packR 0x11#6 16#5 ft fs fd 0x01#6
  | .mulS ft fs fd => packR 0x11#6 16#5 ft fs fd 0x02#6
  | .divS ft fs fd => packR 0x11#6 16#5 ft fs fd 0x03#6
  | .sqrtS fs fd => packR 0x11#6 16#5 0#5 fs fd 0x04#6
  | .absS fs fd => packR 0x11#6 16#5 0#5 fs fd 0x05#6
  | .movS fs fd => packR 0x11#6 16#5 0#5 fs fd 0x06#6
  | .negS fs fd => packR 0x11#6 16#5 0#5 fs fd 0x07#6
  | .recipS fs fd => packR 0x11#6 16#5 0#5 fs fd 0x15#6
  | .rsqrtS fs fd => packR 0x11#6 16#5 0#5 fs fd 0x16#6
  | .roundLS fs fd => packR 0x11#6 16#5 0#5 fs fd 0x08#6
  | .truncLS fs fd => packR 0x11#6 16#5 0#5 fs fd 0x09#6
  | .ceilLS fs fd => packR 0x11#6 16#5 0#5 fs fd 0x0a#6
  | .floorLS fs fd => packR 0x11#6 16#5 0#5 fs fd 0x0b#6
  | .roundWS fs fd => packR 0x11#6 16#5 0#5 fs fd 0x0c#6
  | .truncWS fs fd => packR 0x11#6 16#5 0#5 fs fd 0x0d#6
  | .ceilWS fs fd => packR 0x11#6 16#5 0#5 fs fd 0x0e#6
  | .floorWS fs fd => packR 0x11#6 16#5 0#5 fs fd 0x0f#6
  | .cvtWS fs fd => packR 0x11#6 16#5 0#5 fs fd 0x24#6
  | .cvtLS fs fd => packR 0x11#6 16#5 0#5 fs fd 0x25#6
  | .movfS cc fs fd => packMovc 0x11#6 16#5 cc 0#1 fs fd 0x11#6
  | .movtS cc fs fd => packMovc 0x11#6 16#5 cc 1#1 fs fd 0x11#6
  | .movzS rt fs fd => packR 0x11#6 16#5 rt fs fd 0x12#6
  | .movnS rt fs fd => packR 0x11#6 16#5 rt fs fd 0x13#6
  | .cFS ft fs cc => packCmp 16#5 ft fs cc 0x30#6
  | .cUnS ft fs cc => packCmp 16#5 ft fs cc 0x31#6
  | .cEqS ft fs cc => packCmp 16#5 ft fs cc 0x32#6
  | .cUeqS ft fs cc => packCmp 16#5 ft fs cc 0x33#6
  | .cOltS ft fs cc => packCmp 16#5 ft fs cc 0x34#6
  | .cUltS ft fs cc => packCmp 16#5 ft fs cc 0x35#6
  | .cOleS ft fs cc => packCmp 16#5 ft fs cc 0x36#6
  | .cUleS ft fs cc => packCmp 16#5 ft fs cc 0x37#6
  | .cSfS ft fs cc => packCmp 16#5 ft fs cc 0x38#6
  | .cNgleS ft fs cc => packCmp 16#5 ft fs cc 0x39#6
  | .cSeqS ft fs cc => packCmp 16#5 ft fs cc 0x3a#6
  | .cNglS ft fs cc => packCmp 16#5 ft fs cc 0x3b#6
  | .cLtS ft fs cc => packCmp 16#5 ft fs cc 0x3c#6
  | .cNgeS ft fs cc => packCmp 16#5 ft fs cc 0x3d#6
  | .cLeS ft fs cc => packCmp 16#5 ft fs cc 0x3e#6
  | .cNgtS ft fs cc => packCmp 16#5 ft fs cc 0x3f#6
  | .addD ft fs fd => packR 0x11#6 17#5 ft fs fd 0x00#6
  | .subD ft fs fd => packR 0x11#6 17#5 ft fs fd 0x01#6
  | .mulD ft fs fd => packR 0x11#6 17#5 ft fs fd 0x02#6
  | .divD ft fs fd => packR 0x11#6 17#5 ft fs fd 0x03#6
  | .sqrtD fs fd => packR 0x11#6 17#5 0#5 fs fd 0x04#6
  | .absD fs fd => packR 0x11#6 17#5 0#5 fs fd 0x05#6
  | .movD fs fd => packR 0x11#6 17#5 0#5 fs fd 0x06#6
  | .negD fs fd => packR 0x11#6 17#5 0#5 fs fd 0x07#6
  | .recipD fs fd => packR 0x11#6 17#5 0#5 fs fd 0x15#6
  | .rsqrtD fs fd => packR 0x11#6 17#5 0#5 fs fd 0x16#6
  | .roundLD fs fd => packR 0x11#6 17#5 0#5 fs fd 0x08#6
  | .truncLD fs fd => packR 0x11#6 17#5 0#5 fs fd 0x09#6
  | .ceilLD fs fd => packR 0x11#6 17#5 0#5 fs fd 0x0a#6
  | .floorLD fs fd => packR 0x11#6 17#5 0#5 fs fd 0x0b#6
  | .roundWD fs fd => packR 0x11#6 17#5 0#5 fs fd 0x0c#6
  | .truncWD fs fd => packR 0x11#6 17#5 0#5 fs fd 0x0d#6
  | .ceilWD fs fd => packR 0x11#6 17#5 0#5 fs fd 0x0e#6
  | .floorWD fs fd => packR 0x11#6 17#5 0#5 fs fd 0x0f#6
  | .cvtWD fs fd => packR 0x11#6 17#5 0#5 fs fd 0x24#6
  | .cvtLD fs fd => packR 0x11#6 17#5 0#5 fs fd 0x25#6
  | .movfD cc fs fd => packMovc 0x11#6 17#5 cc 0#1 fs fd 0x11#6
  | .movtD cc fs fd => packMovc 0x11#6 17#5 cc 1#1 fs fd 0x11#6
  | .movzD rt fs fd => packR 0x11#6 17#5 rt fs fd 0x12#6
  | .movnD rt fs fd => packR 0x11#6 17#5 rt fs fd 0x13#6
  | .cFD ft fs cc => packCmp 17#5 ft fs cc 0x30#6
  | .cUnD ft fs cc => packCmp 17#5 ft fs cc 0x31#6
  | .cEqD ft fs cc => packCmp 17#5 ft fs cc 0x32#6
  | .cUeqD ft fs cc => packCmp 17#5 ft fs cc 0x33#6
  | .cOltD ft fs cc => packCmp 17#5 ft fs cc 0x34#6
  | .cUltD ft fs cc => packCmp 17#5 ft fs cc 0x35#6
  | .cOleD ft fs cc => packCmp 17#5 ft fs cc 0x36#6
  | .cUleD ft fs cc => packCmp 17#5 ft fs cc 0x37#6
  | .cSfD ft fs cc => packCmp 17#5 ft fs cc 0x38#6
  | .cNgleD ft fs cc => packCmp 17#5 ft fs cc 0x39#6
  | .cSeqD ft fs cc => packCmp 17#5 ft fs cc 0x3a#6
  | .cNglD ft fs cc => packCmp 17#5 ft fs cc 0x3b#6
  | .cLtD ft fs cc => packCmp 17#5 ft fs cc 0x3c#6
  | .cNgeD ft fs cc => packCmp 17#5 ft fs cc 0x3d#6
  | .cLeD ft fs cc => packCmp 17#5 ft fs cc 0x3e#6
  | .cNgtD ft fs cc => packCmp 17#5 ft fs cc 0x3f#6
  | .cvtSD fs fd => packR 0x11#6 17#5 0#5 fs fd 0x20#6
  | .cvtSW fs fd => packR 0x11#6 20#5 0#5 fs fd 0x20#6
  | .cvtSL fs fd => packR 0x11#6 21#5 0#5 fs fd 0x20#6
  | .cvtDS fs fd => packR 0x11#6 16#5 0#5 fs fd 0x21#6
  | .cvtDW fs fd => packR 0x11#6 20#5 0#5 fs fd 0x21#6
  | .cvtDL fs fd => packR 0x11#6 21#5 0#5 fs fd 0x21#6
  | .maddS fr ft fs fd => packR 0x13#6 fr ft fs fd 0x20#6
  | .maddD fr ft fs fd => packR 0x13#6 fr ft fs fd 0x21#6
  | .msubS fr ft fs fd => packR 0x13#6 fr ft fs fd 0x28#6
  | .msubD fr ft fs fd => packR 0x13#6 fr ft fs fd 0x29#6
  | .nmaddS fr ft fs fd => packR 0x13#6 fr ft fs fd 0x30#6
  | .nmaddD fr ft fs fd => packR 0x13#6 fr ft fs fd 0x31#6
  | .nmsubS fr ft fs fd => packR 0x13#6 fr ft fs fd 0x38#6
  | .nmsubD fr ft fs fd => packR 0x13#6 fr ft fs fd 0x39#6

/-- The host's view of the decoder: the instruction of the `nbits` bits of `w` (every instruction is one
32-bit word, R360, whose bits the table numbers as the register figures do), as the reset machine, an
R5000, decodes it. -/
def decodeTableWord (_nbits w : Nat) : Option Instr :=
  match decode .mips4 (BitVec.ofNat 32 w) with
  | .ok i => some i
  | .bad _ => none

end

end Sys2Proof
end

