-- ==== Sys2Proof/Machine/Bits.lean ====
section
/-! DEFINITION. Bit fields and sign extension (spec/00_scope.md R9, R11, R16), as the other files of the machine
use them. -/

namespace Sys2Proof.Machine

/-- `x` with the field `v` written at bit `lo`; its other bits kept (R9). -/
def setField {n w : Nat} (x : BitVec n) (lo : Nat) (v : BitVec w) : BitVec n :=
  (x &&& ~~~((BitVec.allOnes w).setWidth n <<< lo)) ||| (v.setWidth n <<< lo)

/-- `x` with bit `i` written (R9). -/
def setBit {n : Nat} (x : BitVec n) (i : Nat) (b : Bool) : BitVec n :=
  setField x i (BitVec.ofBool b)

/-- The bits of `new` where `mask` is 1, of `old` where it is 0: a write that reaches the bits of `mask` only
(R101). -/
def merge {n : Nat} (mask old new : BitVec n) : BitVec n :=
  (old &&& ~~~mask) ||| (new &&& mask)

/-- The low word of a doubleword. -/
def lo32 (x : DWord) : Word := x.setWidth 32

/-- `sext_64` of a word (R11, R43). -/
def sext (w : Word) : DWord := w.signExtend 64

/-- `zext_64` of a word (R11). -/
def zext (w : Word) : DWord := w.setWidth 64

/-- `sext_64(x[31:0])` (R43). -/
def sextLo (x : DWord) : DWord := sext (lo32 x)

/-- `NotWordValue(v)` is false: `v` is the sign extension of its low 32 bits (R16). -/
def isWord (x : DWord) : Bool := sextLo x == x

/-- `sext_64` of a 16-bit immediate or offset (R361). -/
def sextImm (i : BitVec 16) : DWord := i.signExtend 64

/-- `zext_64` of a 16-bit immediate (R361). -/
def zextImm (i : BitVec 16) : DWord := i.setWidth 64

/-- Bit `i` of a word as a one-bit condition. -/
def bit {n : Nat} (x : BitVec n) (i : Nat) : Bool := x.getLsbD i

end Sys2Proof.Machine
end

