-- ==== Sys2Proof/Machine/Memory.lean ====
section
/-! DEFINITION. Physical memory as a sorted list of cells (spec/20_memory.md R222), and the two byte orders in
which bytes make a value. An address that is not listed reads as zero (DESIGN CHOICE, log entry 6), and no
cell holds a zero, so that equal memories are equal lists. -/

namespace Sys2Proof.Machine

/-! ### Lists of keys and values, strictly rising -/

/-- The value at a key. -/
def assocGet {α : Type} (k : Nat) : List (Nat × α) → Option α
  | [] => none
  | (j, v) :: l => if j = k then some v else assocGet k l

/-- The list with `v` at key `k`, in its place. -/
def assocSet {α : Type} (k : Nat) (v : α) : List (Nat × α) → List (Nat × α)
  | [] => [(k, v)]
  | (j, w) :: l =>
    if k < j then (k, v) :: (j, w) :: l
    else if j = k then (k, v) :: l
    else (j, w) :: assocSet k v l

/-- The list without key `k`. -/
def assocErase {α : Type} (k : Nat) : List (Nat × α) → List (Nat × α)
  | [] => []
  | (j, w) :: l => if j = k then assocErase k l else (j, w) :: assocErase k l

/-- Every key is at least `lo` and the keys rise strictly. -/
def assocRising {α : Type} (lo : Nat) : List (Nat × α) → Bool
  | [] => true
  | (j, _) :: l => decide (lo ≤ j) && assocRising (j + 1) l

/-! ### Memory -/

/-- What an address that is not listed reads as. -/
def memDefault : Byte := 0

/-- The byte at a physical address (R222). -/
def memRead (m : List Host.Cell) (a : Nat) : Byte := (assocGet a m).getD memDefault

/-- Memory with one byte written. -/
def memWrite (m : List Host.Cell) (a : Nat) (b : Byte) : List Host.Cell :=
  if b = memDefault then assocErase a m else assocSet a b m

/-- The canonical form: addresses strictly rising, no cell equal to what an unlisted address reads as. -/
def memWf (m : List Host.Cell) : Bool := assocRising 0 m && m.all fun c => c.2 != memDefault

/-! ### Values and bytes (R222) -/

/-- The value of bytes given least significant first. -/
def ofBytesLE : List Byte → DWord
  | [] => 0
  | b :: bs => b.setWidth 64 ||| (ofBytesLE bs <<< 8)

/-- The `n` low bytes of a value, least significant first. -/
def toBytesLE (v : DWord) : Nat → List Byte
  | 0 => []
  | n + 1 => v.setWidth 8 :: toBytesLE (v >>> 8) n

/-- The value of bytes at rising addresses in a byte order: the lowest address holds the most significant byte
of a big-endian value, the least significant of a little-endian one (R222). -/
def ofBytes (big : Bool) (bs : List Byte) : DWord := ofBytesLE (if big then bs.reverse else bs)

/-- The `n` low bytes of a value at rising addresses (R222). -/
def toBytes (big : Bool) (n : Nat) (v : DWord) : List Byte :=
  if big then (toBytesLE v n).reverse else toBytesLE v n

/-- The addresses `a`, `a+1`, … of `n` bytes, each through `f`. -/
def byteAddrs (f : Nat → Nat) (a : Nat) : Nat → List Nat
  | 0 => []
  | n + 1 => f a :: byteAddrs f (a + 1) n

/-- The bytes at a list of addresses. -/
def memReadList (m : List Host.Cell) : List Nat → List Byte
  | [] => []
  | a :: as => memRead m a :: memReadList m as

/-- Memory with bytes written at a list of addresses. -/
def memWriteList (m : List Host.Cell) : List Nat → List Byte → List Host.Cell
  | a :: as, b :: bs => memWriteList (memWrite m a b) as bs
  | _, _ => m

end Sys2Proof.Machine
end

