-- ==== Sys2Proof/Machine/Member.lean ====
section
/-! DEFINITION. What each member of the family has: the tables of spec/00_scope.md R3 and R7 as functions of
the parameters. -/

namespace Sys2Proof

/-- The member's instruction-set level (R3, R364). -/
def Cpu.isa : Cpu → Isa
  | .r3041 | .r3051 | .r3052 | .r3071 | .r3081 | .r36100 => .mips1
  | .r4600 | .r4700 | .r4650 | .r4640 => .mips3
  | .r5000 => .mips4

/-- The order of the levels, each containing the one before (R364). -/
def Isa.rank : Isa → Nat
  | .mips1 => 1
  | .mips2 => 2
  | .mips3 => 3
  | .mips4 => 4

/-- The members the spec calls R30xx (R3). -/
def Cpu.is30xx : Cpu → Bool
  | .r3041 | .r3051 | .r3052 | .r3071 | .r3081 | .r36100 => true
  | _ => false

/-- The R4650 and the R4640, which the spec treats as one (R3). -/
def Cpu.is4650 : Cpu → Bool
  | .r4650 | .r4640 => true
  | _ => false

/-- The Orion TLB CPUs: R4600, R4700 and R5000 (R3). -/
def Cpu.isOrionTlb : Cpu → Bool
  | .r4600 | .r4700 | .r5000 => true
  | _ => false

/-- The members with the Config register of R150 (R102). -/
def Cpu.is3071 : Cpu → Bool
  | .r3071 | .r3081 => true
  | _ => false

/-- Coprocessor 1 present (R7, R820). -/
def Cpu.hasFpa : Cpu → Bool
  | .r3081 | .r4600 | .r4700 | .r4650 | .r4640 | .r5000 => true
  | _ => false

/-- The members that come with or without the 64-entry TLB (R8). -/
def Cpu.hasEVersion : Cpu → Bool
  | .r3051 | .r3052 | .r3071 | .r3081 => true
  | _ => false

/-- The translation schemes (R7, R300). -/
inductive Mmu where
  | fixed | tlb64 | tlb48 | basebounds
  deriving DecidableEq, Repr

/-- The member's translation scheme (R300). -/
def Params.mmu (p : Params) : Mmu :=
  if p.cpu.isOrionTlb then .tlb48
  else if p.cpu.is4650 then .basebounds
  else if p.cpu.hasEVersion && p.eVersion then .tlb64
  else .fixed

/-- General registers are 64 bits wide (GPRLEN, R7). -/
def Cpu.is64 (c : Cpu) : Bool := !c.is30xx

/-- PSIZE, the width of a physical address (R7, D4). -/
def Cpu.psize (c : Cpu) : Nat := if c.isOrionTlb then 36 else 32

/-- Bytes of a memory element, GPRLEN/8 (R222). -/
def Cpu.elemBytes (c : Cpu) : Nat := if c.is64 then 8 else 4

/-- Size of the instruction cache in bytes (R3; the R3071 and R3081 by Config.AC, R150). -/
def Cpu.icacheBytes (c : Cpu) (ac : Bool) : Nat :=
  match c with
  | .r3041 => 0x800
  | .r3051 => 0x1000
  | .r3052 => 0x2000
  | .r3071 | .r3081 => if ac then 0x2000 else 0x4000
  | .r36100 => 0x1000
  | .r4600 | .r4700 => 0x4000
  | .r4650 | .r4640 => 0x2000
  | .r5000 => 0x8000

/-- Size of the data cache in bytes (R3; the R3071 and R3081 by Config.AC, R150). -/
def Cpu.dcacheBytes (c : Cpu) (ac : Bool) : Nat :=
  match c with
  | .r3041 => 0x200
  | .r3051 | .r3052 => 0x800
  | .r3071 | .r3081 => if ac then 0x2000 else 0x1000
  | .r36100 => 0x400
  | .r4600 | .r4700 => 0x4000
  | .r4650 | .r4640 => 0x2000
  | .r5000 => 0x8000

/-- PRId.Imp (R104; the R4640's and the R5000's are parameters). -/
def Params.imp (p : Params) : BitVec 8 :=
  match p.cpu with
  | .r3051 | .r3052 | .r3071 | .r3081 => 3#8
  | .r3041 | .r36100 => 7#8
  | .r4600 => 0x20#8
  | .r4700 => 0x21#8
  | .r4650 => 0x22#8
  | .r4640 | .r5000 => p.prIdImp

/-- PRId.Rev (R104: 0 on the R3041, decimal 10 on the R36100, undefined elsewhere, a parameter). -/
def Params.rev (p : Params) : BitVec 8 :=
  match p.cpu with
  | .r3041 => 0#8
  | .r36100 => 10#8
  | _ => p.prIdRev

/-- FCR0.Imp (R826; the R4640 as the R4650; 0 where there is no FPA). -/
def Cpu.fpImp : Cpu → BitVec 8
  | .r3081 => 3#8
  | .r4600 => 0x20#8
  | .r4700 => 0x21#8
  | .r4650 | .r4640 => 0x22#8
  | .r5000 => 0x23#8
  | _ => 0#8

end Sys2Proof
end

