-- ==== Sys2Proof/Machine/State.lean ====
section
/-! DEFINITION. The machine's state as plain data: every piece of state the spec gives the family
(spec/10_state.md R40 to R57, spec/11_cp0_registers.md), the host's inputs, and the model's own bookkeeping;
the reasons a step stops; and the state after reset. INVENTORY.md lists every field with its rule and its
reset value. -/

namespace Sys2Proof.Machine

/-- Why the machine stands still for good. -/
inductive Fault where
  /-- Raised by `step` on an R30xx E version whose SR.TS is set: the fatal TLB shutdown that only a hardware
  reset ends (R318, D18). Safe: the machine does nothing where the spec says only a reset helps. -/
  | tlbShutdown
  deriving DecidableEq, Repr

/-- Why the model gives a step no meaning. Every one is safe: a claim about a run holds only of runs that do
not reach it. -/
inductive Refusal where
  /-- Raised by an arm of `exec` that has no meaning yet. -/
  | notModelled (mnemonic : String)
  /-- Raised where the mode is needed and SR.KSU = 11 with EXL = ERL = 0, which the spec does not define
  (R114, D6). -/
  | undefinedMode
  /-- Raised by a branch, jump or ERET in a branch delay slot (R625, R792, D23). -/
  | branchInDelaySlot
  /-- Raised by a translation or a TLBP on an Orion TLB CPU that matches more than one entry (R312, R318). -/
  | tlbMultipleMatch
  /-- Raised by TLBR, TLBWI or TLBWR with an entry number of 48 or more on an Orion TLB CPU (R171, R173,
  R313). -/
  | tlbIndexOutOfRange
  /-- Raised by TLBWI and TLBWR with a PageMask no row of Table 6.5 shows (R174, R311). -/
  | pageMaskUndefined
  /-- Raised by an access whose cache algorithm is a reserved value (R178, R184, R237, R312). -/
  | cacheAlgorithmReserved
  /-- Raised by SWXC1 and SDXC1 whose effective address leaves the base register's region: no address is
  given for the store (R853). -/
  | indexedStoreRegion
  /-- Raised by an MTC0 to CAlg that changes the field of the address space the program runs in (R1148). -/
  | cAlgActiveSpace
  /-- Raised by an MTC0 that changes a base or bounds register of the R4650 and runs in mapped space (R342, R1148). -/
  | boundsInMappedSpace
  /-- Raised by an access to the R4650's mapped space within five instructions after such a change (R342, R1148). -/
  | boundsUnsettled
  /-- Raised by a cached access of an R30xx with SR.SwC set and SR.IsC clear (R263). -/
  | cachesSwapped
  /-- Raised by a JALR with rs = rd and by an and-link branch on register 31 that runs again after an exception in its
  delay slot (R623). -/
  | linkNotRestartable
  /-- Raised by an MTC0 to Config, BusCtrl or PortSize of an R30xx that is not run from kseg1 (R1149). -/
  | configOutsideKseg1
  deriving DecidableEq, Repr

/-- One entry of the R30xx E-version TLB (R302). -/
structure Tlb64Entry where
  vpn : BitVec 20
  asid : BitVec 6
  pfn : BitVec 20
  /-- noncacheable -/
  n : Bool
  /-- writable -/
  d : Bool
  /-- valid -/
  v : Bool
  /-- global -/
  g : Bool
  deriving DecidableEq, Repr

/-- One page of an Orion TLB entry: an EntryLo image without G (R310). -/
structure TlbPage where
  pfn : BitVec 24
  c : BitVec 3
  d : Bool
  v : Bool
  deriving DecidableEq, Repr

/-- One entry of the Orion TLB, an even and an odd page (R310). -/
structure Tlb48Entry where
  /-- PageMask bits 24:13 -/
  mask : BitVec 12
  /-- EntryHi bits 63:62 -/
  r : BitVec 2
  /-- EntryHi bits 39:13, the masked bits clear -/
  vpn2 : BitVec 27
  g : Bool
  asid : BitVec 8
  even : TlbPage
  odd : TlbPage
  deriving DecidableEq, Repr

/-- The coprocessor 0 registers that hold state (R102, R190). A register is 64 bits wide here where some
member has it 64 bits wide; the 32-bit members keep such a register sign-extended (log entry 1). PRId is not
here: it is a function of the parameters (R104). -/
structure Cp0 where
  /-- 0: Index, E versions and Orion TLB CPUs (R170, R171) -/
  index : Word
  /-- 1: the Random field, E versions and Orion TLB CPUs (R172) -/
  random : BitVec 6
  /-- 2: EntryLo on E versions (R176), EntryLo0 on Orion TLB CPUs (R178) -/
  entryLo0 : DWord
  /-- 3: EntryLo1, Orion TLB CPUs (R178) -/
  entryLo1 : DWord
  /-- 4: Context (R160, R161) -/
  context : DWord
  /-- 5: PageMask, Orion TLB CPUs (R174) -/
  pageMask : Word
  /-- 6: the Wired field, Orion TLB CPUs (R173) -/
  wired : BitVec 6
  /-- 8: BadVaddr (R131, R132) -/
  badVAddr : DWord
  /-- 9: Count, R3041 and R4xxx/R5000 (R140, R141) -/
  count : Word
  /-- 10: EntryHi, E versions (R175) and Orion TLB CPUs (R177) -/
  entryHi : DWord
  /-- 11: Compare, R3041 and R4xxx/R5000 (R140, R142) -/
  compare : Word
  /-- 12: SR (R105, R113, R120) -/
  sr : Word
  /-- 13: Cause without the live bits IP[7:2] (R123, R125) -/
  cause : Word
  /-- 14: EPC (R130) -/
  epc : DWord
  /-- Config: 3 on the R3041, R3071, R3081; 16 on the R4xxx and R5000 (R103, R150 to R154) -/
  config : Word
  /-- 17: LLAddr, Orion TLB CPUs (R190) -/
  llAddr : Word
  /-- 18: WatchLo, Orion TLB CPUs (R190) -/
  watchLo : Word
  /-- 19: WatchHi, Orion TLB CPUs (R190) -/
  watchHi : Word
  /-- 20: XContext, Orion TLB CPUs (R162) -/
  xContext : DWord
  /-- 26: ECC, R4xxx/R5000 (R163) -/
  ecc : Word
  /-- 27: CacheErr, R4xxx/R5000 (R164) -/
  cacheErr : Word
  /-- 28: TagLo, R4xxx/R5000 (R190, R268) -/
  tagLo : Word
  /-- 29: TagHi, R4xxx/R5000 (R190, R268) -/
  tagHi : Word
  /-- 30: ErrorEPC, R4xxx/R5000 (R133) -/
  errorEpc : DWord
  /-- 0: IBase, R4650 (R180) -/
  iBase : Word
  /-- 1: IBound, R4650 (R181) -/
  iBound : Word
  /-- 2: DBase, R4650 (R182) -/
  dBase : Word
  /-- 3: DBound, R4650 (R183) -/
  dBound : Word
  /-- 17: CAlg, R4650 (R184) -/
  cAlg : Word
  /-- 18: IWatch, R4650 (R166) -/
  iWatch : Word
  /-- 19: DWatch, R4650 (R167) -/
  dWatch : Word
  /-- 2: BusCtrl, R3041 (R155) -/
  busCtrl : Word
  /-- 10: PortSize, R3041 (R156) -/
  portSize : Word
  deriving DecidableEq, Repr

/-- What the contents of a floating-point register were written as (R824): unformatted by a load or a move,
or in a format by a computational instruction. -/
inductive FprTag where
  | raw | s | d | w | l
  deriving DecidableEq, Repr

/-- Coprocessor 1 (R822). -/
structure Fpu where
  /-- the 32 physical registers; 32 bits of each on the R3081 and R4650 (R822) -/
  fgr : Vector DWord 32
  /-- the format each register holds (R824); after reset none: DESIGN CHOICE, log entry 26 -/
  tag : Vector FprTag 32
  /-- FCR31, with the condition codes FCC[0] = COC[1] in bit 23 and FCC[7:1] in bits 31:25 (R827, R829) -/
  fcr31 : Word
  deriving DecidableEq, Repr

/-- One of the two private arrays that answer data accesses while the R30xx D-cache is isolated (R262, D15): the
bytes by their place in the cache, and the tag of every valid line by its number. -/
structure CacheArray where
  data : List Host.Cell
  lines : List (Nat × Nat)
  deriving DecidableEq, Repr

/-- What the last LL or LLD linked (R271, R273): the bit LLbit stands beside it. -/
structure Link where
  va : DWord
  pa : Nat
  cca : BitVec 3
  double : Bool
  deriving DecidableEq, Repr

/-- An HI/LO read that a multiply, a divide or a move to HI or LO within two instructions spoils (R581). -/
structure HiloRead where
  /-- the register the MFHI or MFLO wrote; register 0 once it has been written again -/
  rd : RegNum
  /-- it read HI, not LO -/
  fromHi : Bool
  deriving DecidableEq, Repr

/-- The values the next instructions must not use (R673, R770, R831, R581, R598; D24): the model's record of
the pipeline hazards that the spec gives an undefined value. -/
structure Hazards where
  /-- the general register the instruction before loaded or moved from a coprocessor -/
  gpr : Option RegNum
  /-- that register was moved from a coprocessor, not loaded -/
  moved : Bool
  /-- the floating-point registers the instruction before loaded or moved to -/
  fgr : List RegNum
  /-- the floating-point control register the instruction before wrote with CTC1 -/
  fcr : Option RegNum
  /-- for how many further instructions the condition signal COC[1] is not settled -/
  cond : Nat
  /-- the HI/LO read of the instruction before -/
  hilo1 : Option HiloRead
  /-- the HI/LO read of the instruction before that -/
  hilo2 : Option HiloRead
  /-- a write of HI or LO came too close to a read since the last return from an exception: HI and LO are undefined
  after the next one (R1122) -/
  hiloBroken : Bool
  /-- for how many further instructions the R4650's mapped space must not be entered (R342) -/
  bounds : Nat
  /-- the instruction before wrote Wired or ended in an exception: Random does not count it (R315) -/
  uncounted : Bool
  /-- the instruction in the delay slot belongs to a jump or branch whose link write destroys its own operand (R623) -/
  linkSlot : Bool
  /-- the addresses of such jumps and branches whose delay slot took an exception: they are not restartable (R623) -/
  linkBroken : List DWord
  deriving DecidableEq, Repr

/-- No value is in flight. -/
def Hazards.none : Hazards :=
  { gpr := Option.none, moved := false, fgr := [], fcr := Option.none, cond := 0, hilo1 := Option.none,
    hilo2 := Option.none, hiloBroken := false, bounds := 0, uncounted := false, linkSlot := false,
    linkBroken := [] }

/-- What the world outside drives (R8, R1061, R1074, R240): the step reads it and never writes it, but for
the four requests, which it takes off. -/
structure Inputs where
  /-- Int5..Int0, 1 = asserted (R1061) -/
  int : BitVec 6
  /-- BrCond(3:0), R30xx (R1074) -/
  brCond : BitVec 4
  /-- a cold reset is requested (R1100) -/
  coldReset : Bool
  /-- a soft reset is requested, R4xxx/R5000 (R1036) -/
  softReset : Bool
  /-- a nonmaskable interrupt is requested, R4xxx/R5000 (R1035) -/
  nmi : Bool
  /-- a cache parity error, in the layout of CacheErr: what failed, bit 31 (ER) saying that a data access meets it and not a
  fetch; SIdx and PIdx count for an external reference (ES) only, those of an internal one come from the access that meets
  it (R164, R1002, R1034; R3071/R3081 set SR.PE instead, R269) -/
  cacheError : Option Word
  /-- the physical address ranges (first address, number of bytes) whose reads the board answers with a bus
  error (R240, R1024) -/
  busError : List (Nat × Nat)
  deriving DecidableEq, Repr

/-- The state of one machine. -/
structure State where
  /-- the chip's parameters, constant (R8) -/
  par : Params
  /-- the general registers; register 0 reads zero whatever is here (R40, R42) -/
  gpr : Vector DWord 32
  /-- HI (R44) -/
  hi : DWord
  /-- LO (R44) -/
  lo : DWord
  /-- the address of the instruction to execute (R46) -/
  pc : DWord
  /-- the address of the instruction after it (R46) -/
  nextPc : DWord
  /-- the instruction at pc is in a branch delay slot (R46, R1043) -/
  inDelay : Bool
  /-- LLbit (R50) -/
  llBit : Bool
  /-- what the last LL or LLD linked (R273) -/
  link : Link
  /-- coprocessor 0 -/
  cp0 : Cp0
  /-- the R30xx E-version TLB (R302) -/
  tlb64 : Vector Tlb64Entry 64
  /-- the Orion TLB (R310) -/
  tlb48 : Vector Tlb48Entry 48
  /-- coprocessor 1 -/
  fpu : Fpu
  /-- physical memory, in canonical form (Machine/Memory.lean) -/
  mem : List Host.Cell
  /-- the isolated, swapped instruction cache of the R30xx (R262, R263) -/
  icache : CacheArray
  /-- the isolated data cache of the R30xx (R261, R262) -/
  dcache : CacheArray
  /-- the timer's request: the R4xxx/R5000 timer interrupt (R143), the R3041's TC output (R140) -/
  timerIrq : Bool
  /-- a postponed IWatch match (R1032) -/
  watchI : Bool
  /-- a postponed DWatch match (R1032) -/
  watchD : Bool
  /-- the R3071/R3081 stands still after Config.Halt was set (R150) -/
  halted : Bool
  /-- a multiply or divide result has not been read (R598) -/
  hiloUnread : Bool
  /-- the hazards the next instruction meets -/
  haz : Hazards
  /-- the hazards the running instruction leaves for the ones after it -/
  hazNext : Hazards
  /-- the host's inputs -/
  inp : Inputs
  /-- the model's own counter: which free value comes next -/
  freeCtr : Nat
  deriving DecidableEq, Repr

/-- SR after reset (R109, R118, R1101, R1102): BEV and, on the R4xxx and R5000, ERL; TS on an R30xx without
TLB. Every other bit is given as zero (DESIGN CHOICE, log entry 5). -/
def resetSr (p : Params) : Word :=
  if p.cpu.is30xx then
    if p.mmu == .tlb64 then 0x00400000#32 else 0x00600000#32
  else 0x00400004#32

/-- Config after reset, at power-up and at every cold reset (R57, R150 to R154, D3): the fixed and boot-time bits. What R57
calls unspecified is zero: K0; Slow Bus, Halt and RF of the R3071 and R3081, and the R3071's DB Refill; DBR and FDM of the
R3041 (DESIGN CHOICE, log entry 5; for a running machine log entry 51). The boot-mode values R152 calls reserved (EC = 7, EP = 9 to 15) are no refused configuration: they
are taken and shown as they stand (DESIGN CHOICE, log entry 3). -/
def resetConfig (p : Params) : Word :=
  match p.cpu with
  | .r3041 => 0x40000000#32
  | .r3071 => 0x0C000000#32
  | .r3081 => if p.dbRefill then 0x2C000000#32 else 0x0C000000#32
  | .r4600 | .r4700 =>
    (p.bootMode &&& 0x7F000000#32) ||| 0x000264B0#32 ||| (if p.bigEndianMem then 0x8000#32 else 0#32)
  | .r5000 =>
    (p.bootMode &&& 0x7F000000#32) ||| 0x000266F0#32 ||| (if p.bigEndianMem then 0x8000#32 else 0#32)
  | .r4650 | .r4640 =>
    (p.bootMode &&& 0xFFFF6008#32) ||| 0x00000270#32 ||| (if p.bigEndianMem then 0x8000#32 else 0#32)
  | _ => 0#32

/-- The coprocessor 0 registers after a power-up reset (R57, R1101 to R1103). Those the spec gives no value
are zero (DESIGN CHOICE, log entry 5), the base and bounds registers of the R4650 among them: an access to mapped space
before software has set them is made with these values, where section 4 of spec/93 would refuse it (R342; DESIGN CHOICE, log
entry 5). BusCtrl's fixed fields whose digits are lost in print read 010 in bits 30:28
(R155 leaves 100, 010 or 110) and 101 in bits 18:16 (printed '1 1') (DESIGN CHOICE, log entry 5). -/
def Cp0.reset (p : Params) : Cp0 where
  index := 0
  random := if p.cpu.is30xx then 63#6 else 47#6
  entryLo0 := 0
  entryLo1 := 0
  context := 0
  pageMask := 0
  wired := 0
  badVAddr := 0
  count := 0
  entryHi := 0
  compare := if p.cpu == .r3041 then 0x00FFFFFF#32 else 0
  sr := resetSr p
  cause := 0
  epc := 0
  config := resetConfig p
  llAddr := 0
  watchLo := 0
  watchHi := 0
  xContext := 0
  ecc := 0
  cacheErr := 0
  tagLo := 0
  tagHi := 0
  errorEpc := 0
  iBase := 0
  iBound := 0
  dBase := 0
  dBound := 0
  cAlg := 0x22233333#32
  iWatch := 0
  dWatch := 0
  busCtrl := 0x20151B00#32
  portSize := 0

/-- The reset vector (R57, R1010), held sign-extended. -/
def resetVector : DWord := 0xFFFFFFFFBFC00000#64

/-- A machine of the given parameters right after its power-up reset (R57). The TLB holds the impossible kseg1
page of R316 in every entry (DESIGN CHOICE, log entry 5): no mapped address matches before software writes
an entry, and an access to one takes its refill exception, where section 4 of spec/93 would refuse it (R1104; DESIGN CHOICE, log
entry 5). The host's inputs, whose levels R8 leaves to the host, start inactive: no interrupt, BrCond low, no request,
no cache or bus error (DESIGN CHOICE, log entry 50). The timer's request, which the spec gives no value, starts clear,
although Count equals Compare on the R4xxx and R5000 (DESIGN CHOICE, log entry 5). So does the record of an unread HI/LO
result (R598), which the spec gives no value either (DESIGN CHOICE, log entry 5). Every FPR starts unformatted, as after a load
(R824), where R57 calls FGR[*] unspecified and gives its contents no format: a first read in any format is defined (DESIGN
CHOICE, log entry 26). -/
def State.resetOf (p : Params) : State where
  par := p
  gpr := Vector.replicate 32 0
  hi := 0
  lo := 0
  pc := resetVector
  nextPc := 0xFFFFFFFFBFC00004#64
  inDelay := false
  llBit := false
  link := { va := 0, pa := 0, cca := 0, double := false }
  cp0 := Cp0.reset p
  tlb64 := Vector.replicate 64
    { vpn := 0xA0000#20, asid := 0, pfn := 0, n := false, d := false, v := false, g := false }
  tlb48 := Vector.replicate 48
    { mask := 0, r := 3#2, vpn2 := 0x7FD0000#27, g := false, asid := 0,
      even := { pfn := 0, c := 0, d := false, v := false },
      odd := { pfn := 0, c := 0, d := false, v := false } }
  fpu := { fgr := Vector.replicate 32 0, tag := Vector.replicate 32 .raw, fcr31 := 0 }
  mem := []
  icache := { data := [], lines := [] }
  dcache := { data := [], lines := [] }
  timerIrq := false
  watchI := false
  watchD := false
  halted := false
  hiloUnread := false
  haz := Hazards.none
  hazNext := Hazards.none
  inp := { int := 0, brCond := 0, coldReset := false, softReset := false, nmi := false,
           cacheError := none, busError := [] }
  freeCtr := 0

/-- The chip State.reset is: an R5000, big-endian (DESIGN CHOICE, log entry 2: the member that has the most
rows of the opcode table). -/
def Params.default : Params where
  cpu := .r5000
  eVersion := false
  bigEndianMem := true
  lwrUpperSigned := true
  countTicksPerStep := 1
  prIdImp := 0x23#8
  prIdRev := 0
  fcr0Rev := 0
  bootMode := 0
  dbRefill := false
  causeWatchWritable := false
  contextUnderExl := true
  mfc0Interlocked := false
  fpDeclined := { denormOperand := false, nanOperand := false, longRange := false }

/-- The machine right after reset (R57). -/
def State.reset : State := State.resetOf Params.default

end Sys2Proof.Machine
end

