-- ==== Sys2Proof/Machine/Ops.lean ====
section
/-! DEFINITION. The named operations over registers, modes and control flow: what every meaning is made of.
Taking an exception and returning from one stand here once (spec/60_exceptions.md R1040, R1041, R1051,
spec/44_system.md R791, R792). -/

namespace Sys2Proof.Machine

/-! ### Operations -/

/-- The exceptions (R1020 to R1036), each with what its entry needs. -/
inductive Exc where
  /-- R1020 -/
  | interrupt
  /-- R1021: the address of the store -/
  | tlbModified (va : DWord)
  /-- R1022, R306, R314: no entry matches -/
  | tlbRefill (va : DWord) (store : Bool)
  /-- R1022, R307: the matching entry has V = 0 -/
  | tlbInvalid (va : DWord) (store : Bool)
  /-- R341: base-bounds violation -/
  | bounds (va : DWord) (store : Bool)
  /-- R1023 -/
  | addressError (va : DWord) (store : Bool)
  /-- R1024, on a fetch -/
  | busErrorFetch
  /-- R1024, on a load -/
  | busErrorData
  /-- R1025 -/
  | syscall
  /-- R1026 -/
  | breakpoint
  /-- R1027 -/
  | reservedInstruction
  /-- R1028 -/
  | coprocessorUnusable (z : BitVec 2)
  /-- R1029 -/
  | overflow
  /-- R1030 -/
  | trap
  /-- R1031 -/
  | floatingPoint
  /-- R1032: which of IWatch and DWatch matched -/
  | watch (iw dw : Bool)
  /-- R1034: cache error, with the CacheErr image of the access that met it (R164) -/
  | cacheError (info : Word)
  /-- R318: not an exception of the machine but the fatal TLB shutdown of the R30xx E versions -/
  | tlbShutdown
  deriving DecidableEq, Repr

/-- What ends an operation before its result: an exception in the state it is raised in, or a refusal. -/
inductive Stop where
  | exc (e : Exc) (s : State)
  | refused (r : Refusal)

/-- An operation of the machine: it reads and changes the state, and answers a result or stops. -/
abbrev Op (α : Type) := StateT State (Except Stop) α

/-- `raise e` (R13): the current instruction ends here. -/
def raise {α : Type} (e : Exc) : Op α := fun s => .error (.exc e s)

/-- The model gives no meaning. -/
def refuse {α : Type} (r : Refusal) : Op α := fun _ => .error (.refused r)

/-- `raise e` where a condition holds. -/
def raiseIf (c : Bool) (e : Exc) : Op Unit := fun s => if c then .error (.exc e s) else .ok ((), s)

/-- No meaning where a condition holds. -/
def refuseIf (c : Bool) (r : Refusal) : Op Unit := fun s => if c then .error (.refused r) else .ok ((), s)

/-- A value computed from the state. -/
def look {α : Type} (f : State → α) : Op α := fun s => .ok (f s, s)

/-- A change of the state. -/
def change (f : State → State) : Op Unit := fun s => .ok ((), f s)

/-- The free value that comes next (spec/93_implementation_defined.md section 1, `any value`). -/
def State.free (s : State) : DWord := Config.freeValue s.freeCtr

/-- The state with one free value used up. -/
def State.useFree (s : State) : State := { s with freeCtr := s.freeCtr + 1 }

/-- A value nothing constrains: the spec calls it undefined, unspecified or any value. -/
def fresh : Op DWord := fun s => .ok (s.free, s.useFree)

/-! ### General registers, HI and LO (R40 to R44) -/

/-- A value as a GPRLEN-bit register of the member holds it: on the 32-bit members the sign extension of its
low word (log entry 1). -/
def State.narrow (s : State) (v : DWord) : DWord := if s.par.cpu.is64 then v else sextLo v

/-- GPR[r]: register 0 reads zero (R10, R42). -/
def State.gprVal (s : State) (r : RegNum) : DWord :=
  if r = 0#5 then 0 else s.narrow (s.gpr[r.toNat]'r.isLt)

/-- GPR[r] <- v: a write to register 0 is discarded (R10, R42). -/
def State.setGpr (s : State) (r : RegNum) (v : DWord) : State :=
  if r = 0#5 then s else { s with gpr := s.gpr.set r.toNat (s.narrow v) r.isLt }

/-- Reading a source register: the value is free in the slot after a load or a coprocessor move into it
(R673, R770, R831; D24). -/
def readGpr (r : RegNum) : Op DWord := fun s =>
  if s.haz.gpr = some r ∧ r ≠ 0#5 then .ok (s.narrow s.free, s.useFree) else .ok (s.gprVal r, s)

/-- An HI/LO read whose register `r` has been written again: it has no register to spoil any more (R581), but a write of HI
or LO too close after it breaks the rule all the same (R1122). -/
def HiloRead.drop (q : HiloRead) (r : RegNum) : HiloRead := if q.rd = r then { q with rd := 0#5 } else q

/-- The HI/LO reads after register `r` has been written (R581). -/
def Hazards.dropHilo (h : Hazards) (r : RegNum) : Hazards :=
  { h with hilo1 := h.hilo1.map (·.drop r), hilo2 := h.hilo2.map (·.drop r) }

/-- GPR[r] <- v, and an HI/LO read into the register before has nothing to spoil any more. -/
def State.putGpr (s : State) (r : RegNum) (v : DWord) : State := { s.setGpr r v with haz := s.haz.dropHilo r }

/-- Writing a destination register. -/
def writeGpr (r : RegNum) (v : DWord) : Op Unit := change fun s => s.putGpr r v

/-- The register is not to be used by the next instruction on the members up to a level: after the loads and
the coprocessor moves that have the restriction (R673, R770, R831). -/
def State.delayGpr (s : State) (below : Isa) (moved : Bool) (r : RegNum) : State :=
  if s.par.cpu.isa.rank ≤ below.rank then { s with hazNext := { s.hazNext with gpr := some r, moved := moved } }
  else s

/-- The destination register of a load: MIPS I has the load delay (R673). -/
def writeGprLoaded (r : RegNum) (v : DWord) : Op Unit := do
  writeGpr r v
  change fun s => s.delayGpr .mips1 false r

/-- The destination register of a move from a coprocessor, which has a delay up to a level (R770, R831). -/
def writeGprMoved (below : Isa) (r : RegNum) (v : DWord) : Op Unit := do
  writeGpr r v
  change fun s => s.delayGpr below true r

/-- HI <- v -/
def State.setHi (s : State) (v : DWord) : State := { s with hi := s.narrow v }

/-- LO <- v -/
def State.setLo (s : State) (v : DWord) : State := { s with lo := s.narrow v }

/-- HI as the member holds it. -/
def State.hiVal (s : State) : DWord := s.narrow s.hi

/-- LO as the member holds it. -/
def State.loVal (s : State) : DWord := s.narrow s.lo

/-! ### The status register (R105, R113, R120) -/

/-- SR.EXL (R4xxx, R5000) -/
def State.exl (s : State) : Bool := bit s.cp0.sr 1
/-- SR.ERL (R4xxx, R5000) -/
def State.erl (s : State) : Bool := bit s.cp0.sr 2
/-- SR.BEV -/
def State.bev (s : State) : Bool := bit s.cp0.sr 22
/-- SR.CU[z] -/
def State.cu (s : State) (z : BitVec 2) : Bool := bit s.cp0.sr (28 + z.toNat)
/-- SR.FR (R821): the R30xx has none. -/
def State.fr (s : State) : Bool := !s.par.cpu.is30xx && bit s.cp0.sr 26
/-- SR.TS (R107) -/
def State.ts (s : State) : Bool := bit s.cp0.sr 21
/-- SR.IsC and SR.SwC (R261, R263): the R30xx only. -/
def State.isc (s : State) : Bool := s.par.cpu.is30xx && bit s.cp0.sr 16
/-- SR.SwC (R263) -/
def State.swc (s : State) : Bool := bit s.cp0.sr 17

/-- SR <- v -/
def State.setSr (s : State) (v : Word) : State := { s with cp0 := { s.cp0 with sr := v } }

/-- The privilege modes (R1055). -/
inductive Mode where
  | user | supervisor | kernel
  deriving DecidableEq, Repr

/-- The mode (R106, R114, R120); none for SR.KSU = 11, which the spec does not define. -/
def State.mode? (s : State) : Option Mode :=
  if s.par.cpu.is30xx then
    some (if bit s.cp0.sr 1 then .user else .kernel)
  else if s.exl || s.erl then some .kernel
  else if s.par.cpu.is4650 then
    some (if bit s.cp0.sr 4 then .user else .kernel)
  else match s.cp0.sr.extractLsb' 3 2 with
    | 0#2 => some .kernel
    | 1#2 => some .supervisor
    | 2#2 => some .user
    | 3#2 => none

/-- The mode, where the spec defines one (R114, D6). -/
def currentMode : Op Mode := fun s =>
  match s.mode? with
  | some m => .ok (m, s)
  | none => .error (.refused .undefinedMode)

/-- 64-bit operations are enabled: always in kernel mode, with SR.SX in supervisor mode, with SR.UX in user mode
(R116). -/
def State.ops64 (s : State) : Mode → Bool
  | .kernel => true
  | .supervisor => bit s.cp0.sr 6
  | .user => bit s.cp0.sr 5

/-- The mode's addresses are 64 bits wide: SR.KX, SX, UX on the Orion TLB CPUs (R235, R236; log entry 7). -/
def State.addr64 (s : State) (m : Mode) : Bool :=
  s.par.cpu.isOrionTlb && match m with
    | .kernel => bit s.cp0.sr 7
    | .supervisor => bit s.cp0.sr 6
    | .user => bit s.cp0.sr 5

/-- ReverseEndian (R15, R221): SR.RE in user mode. -/
def State.reverseEndian (s : State) : Bool := bit s.cp0.sr 25 && s.mode? == some .user

/-- BigEndianCPU (R15, R221). -/
def State.bigEndianCpu (s : State) : Bool := s.par.bigEndianMem != s.reverseEndian

/-! ### Availability (R364, R369) -/

/-- Reserved Instruction unless the member has the instructions of a level (R364, R1027). -/
def requireIsa (lvl : Isa) : Op Unit := fun s =>
  if lvl.rank ≤ s.par.cpu.isa.rank then .ok ((), s) else .error (.exc .reservedInstruction s)

/-- `Require64()` (R503): Reserved Instruction below MIPS-3 or where 64-bit operations are not enabled. -/
def require64 : Op Unit := do
  requireIsa .mips3
  let m ← currentMode
  let en ← look fun s => s.ops64 m
  raiseIf (!en) .reservedInstruction

/-- Coprocessor z must be usable (R369, R1028): coprocessor 0 always is in kernel mode. Coprocessor 3 is gone from
MIPS III on, its encodings are reserved there. -/
def requireCop (z : BitVec 2) : Op Unit := do
  let gone ← look fun s => z == 3#2 && decide (3 ≤ s.par.cpu.isa.rank)
  raiseIf gone .reservedInstruction
  let m ← if z = 0#2 then currentMode else pure .user
  let cu ← look fun s => s.cu z
  raiseIf (!(cu || (z == 0#2 && m == .kernel))) (.coprocessorUnusable z)

/-- A branch, jump or ERET has no meaning in a branch delay slot (R625, D23). -/
def refuseInDelaySlot : Op Unit := fun s =>
  if s.inDelay then .error (.refused .branchInDelaySlot) else .ok ((), s)

/-! ### Control flow (R46, R620) -/

/-- A program address as the member's VALEN bits hold it: modulo 2^32 and sign-extended where addresses are 32
bits wide (R46, D1). -/
def State.pcNorm (s : State) (a : DWord) : DWord :=
  match s.mode? with
  | some m => if s.addr64 m then a else sextLo a
  | none => a

/-- The hazards one instruction later. -/
def State.nextHaz (s : State) : Hazards :=
  { s.hazNext with
    cond := max s.hazNext.cond (s.haz.cond - 1)
    hilo2 := s.haz.hilo1
    hiloBroken := s.hazNext.hiloBroken || s.haz.hiloBroken
    bounds := max s.hazNext.bounds (s.haz.bounds - 1)
    linkBroken := s.haz.linkBroken }

/-- The address an exception reports: the instruction's, or the branch's where the instruction is in a delay
slot (R1043). -/
def State.restartPc (s : State) : DWord := if s.inDelay then s.pcNorm (s.pc - 4) else s.pc

/-- The hazards at the first instruction of a handler: the instruction that took the exception has not run. Its branch,
where it stood in a delay slot, must not run again if its link write destroyed its operand (R623). They are those of the
state that met the exception: its mode says how wide the branch's address is. -/
def State.trapHaz (s : State) : Hazards :=
  { Hazards.none with
    hilo1 := s.haz.hilo1
    hilo2 := s.haz.hilo2
    hiloBroken := s.haz.hiloBroken
    bounds := s.haz.bounds
    uncounted := true
    linkBroken := if s.inDelay && s.haz.linkSlot then s.haz.linkBroken.insert s.restartPc else s.haz.linkBroken }

/-- The hazards after an ERET, which is an instruction like another for them. -/
def State.returnHaz (s : State) : Hazards :=
  { Hazards.none with
    hilo2 := s.haz.hilo1
    hiloBroken := s.haz.hiloBroken
    bounds := s.haz.bounds - 1
    linkBroken := s.haz.linkBroken }

/-- An instruction is done: the next one is at nextPc (R46). -/
def State.advance (s : State) : State :=
  { s with
    pc := s.nextPc, nextPc := s.pcNorm (s.nextPc + 4), inDelay := false,
    haz := s.nextHaz, hazNext := Hazards.none }

/-- A branch or jump is done: its delay slot is next, and after it the target or, where the branch is not taken,
the instruction after the slot (R46, R620). -/
def State.advanceBranch (s : State) (taken : Bool) (target : DWord) : State :=
  { s with
    pc := s.nextPc, nextPc := if taken then target else s.pcNorm (s.nextPc + 4), inDelay := true,
    haz := s.nextHaz, hazNext := Hazards.none }

/-- A branch-likely is not taken: its delay slot is nullified (R13, R626). -/
def State.advanceNullify (s : State) : State :=
  { s with
    pc := s.pcNorm (s.nextPc + 4), nextPc := s.pcNorm (s.nextPc + 8), inDelay := false,
    haz := s.nextHaz, hazNext := Hazards.none }

/-- Control goes to `a` with no delay slot, with the hazards that the instruction there meets. -/
def State.gotoWith (s : State) (a : DWord) (h : Hazards) : State :=
  { s with pc := a, nextPc := s.pcNorm (a + 4), inDelay := false, haz := h, hazNext := Hazards.none }

/-! ### Interrupt requests (R1060 to R1065) -/

/-- The FPA's request on the R3081: UnImp, or a Cause bit that is enabled (R891 step 6). -/
def fpaRequest (fcr31 : Word) : Bool :=
  bit fcr31 17 || (fcr31.extractLsb' 12 5 &&& fcr31.extractLsb' 7 5) != 0#5

/-- Cause.IP[7:2]: the input pins, the FPA on the R3081's selected line (R1064), and on the R4xxx and R5000
the timer (R1065, D8). -/
def State.intLines (s : State) : BitVec 6 :=
  match s.par.cpu with
  | .r3081 =>
    let n := (s.cp0.config.extractLsb' 26 3).toNat
    if n < 6 then setBit s.inp.int n (fpaRequest s.fpu.fcr31) else s.inp.int
  | .r3041 | .r3051 | .r3052 | .r3071 | .r36100 => s.inp.int
  | .r4600 | .r4700 | .r4650 | .r4640 | .r5000 => setBit s.inp.int 5 (bit s.inp.int 5 || s.timerIrq)

/-- Cause as a program reads it: the stored bits with the live request lines (R124). -/
def State.causeVal (s : State) : Word := setField s.cp0.cause 10 s.intLines

/-- An interrupt is to be taken (R1060). -/
def State.interruptReady (s : State) : Bool :=
  let pending := s.causeVal.extractLsb' 8 8 &&& s.cp0.sr.extractLsb' 8 8
  (if s.par.cpu.is30xx then bit s.cp0.sr 0 else bit s.cp0.sr 0 && !s.exl && !s.erl) && pending != 0#8

/-! ### Taking an exception (R1040, R1041) -/

/-- ExcCode (R126; the Watch and bounds codes by D7); a cache error and a TLB shutdown write none. -/
def Exc.code : Exc → BitVec 5
  | .interrupt => 0#5
  | .tlbModified _ => 1#5
  | .tlbRefill _ st | .tlbInvalid _ st | .bounds _ st => if st then 3#5 else 2#5
  | .addressError _ st => if st then 5#5 else 4#5
  | .busErrorFetch => 6#5
  | .busErrorData => 7#5
  | .syscall => 8#5
  | .breakpoint => 9#5
  | .reservedInstruction => 10#5
  | .coprocessorUnusable _ => 11#5
  | .overflow => 12#5
  | .trap => 13#5
  | .floatingPoint => 15#5
  | .watch _ _ => 23#5
  | .cacheError _ | .tlbShutdown => 0#5

/-- The address an exception puts in BadVaddr (R131, R132). -/
def Exc.badVa : Exc → Option DWord
  | .tlbModified va | .tlbRefill va _ | .tlbInvalid va _ | .bounds va _ | .addressError va _ => some va
  | _ => none

/-- The address a TLB exception puts in Context, XContext and EntryHi (R160 to R162, R175, R177). -/
def Exc.tlbVa : Exc → Option DWord
  | .tlbModified va | .tlbRefill va _ | .tlbInvalid va _ => some va
  | _ => none

/-- The coprocessor number Cause.CE gets (R123): unspecified but for Coprocessor Unusable. -/
def Exc.ce (e : Exc) (free : DWord) : BitVec 2 :=
  match e with
  | .coprocessorUnusable z => z
  | _ => free.extractLsb' 0 2

/-- The extended-addressing bit that governs a refill on `va`: UX for user addresses, SX for supervisor
addresses, KX for kernel addresses (R314, R1011; log entry 8). -/
def State.refillExtended (s : State) (va : DWord) : Bool :=
  if va.extractLsb' 62 2 = 0#2 then bit s.cp0.sr 5
  else if va.extractLsb' 62 2 = 1#2 ∨ va.extractLsb' 29 35 = 0x7FFFFFFFE#35 then bit s.cp0.sr 6
  else bit s.cp0.sr 7

/-- The vector (R1010, R1011), held sign-extended. -/
def State.vector (s : State) (e : Exc) : DWord :=
  if s.par.cpu.is30xx then
    let utlb := match e with
      | .tlbRefill va _ => !bit va 31
      | _ => false
    if utlb then (if s.bev then 0xFFFFFFFFBFC00100#64 else 0xFFFFFFFF80000000#64)
    else (if s.bev then 0xFFFFFFFFBFC00180#64 else 0xFFFFFFFF80000080#64)
  else
    let general := if s.bev then 0xFFFFFFFFBFC00380#64 else 0xFFFFFFFF80000180#64
    match e with
    | .tlbRefill va _ =>
      if s.exl then general
      else if s.refillExtended va then
        (if s.bev then 0xFFFFFFFFBFC00280#64 else 0xFFFFFFFF80000080#64)
      else (if s.bev then 0xFFFFFFFFBFC00200#64 else 0xFFFFFFFF80000000#64)
    | .interrupt =>
      if s.par.cpu.is4650 && bit s.cp0.cause 23 then
        (if s.bev then 0xFFFFFFFFBFC00400#64 else 0xFFFFFFFF80000200#64)
      else general
    | _ => general

/-- Cause after an exception: BD and CE where they are written, ExcCode, and on the R4650 IW and DW, which
are free but for a Watch exception (R123, R125). -/
def State.causeAfter (s : State) (e : Exc) : Word :=
  let c := setField (setField s.cp0.cause 2 e.code) 28 (e.ce s.free)
  let c := if !s.par.cpu.is30xx && s.exl then c else setBit c 31 s.inDelay
  if s.par.cpu.is4650 then
    match e with
    | .watch iw dw => setBit (setBit c 24 iw) 25 dw
    | _ => setField c 24 (s.free.extractLsb' 2 2)
  else c

/-- EntryHi after a TLB exception on `va`: VPN on the R30xx (R175), R and VPN2 on the Orion TLB CPUs
(R177); ASID kept. -/
def State.entryHiAfter (s : State) (va : DWord) : DWord :=
  if s.par.cpu.is30xx then sext (setField (lo32 s.cp0.entryHi) 12 (va.extractLsb' 12 20))
  else setField (setField s.cp0.entryHi 13 (va.extractLsb' 13 27)) 62 (va.extractLsb' 62 2)

/-- Context after a TLB exception on `va` (R160, R161); whether it is written while EXL is set is a parameter (log
entry 44). -/
def State.contextAfter (s : State) (va : DWord) : DWord :=
  if s.par.cpu.is30xx then sext (setField (lo32 s.cp0.context) 2 (va.extractLsb' 12 19))
  else if s.exl && !s.par.contextUnderExl then s.cp0.context
  else setField s.cp0.context 4 (va.extractLsb' 13 19)

/-- XContext after a TLB exception on `va` (R162); the R30xx has none. -/
def State.xContextAfter (s : State) (va : DWord) : DWord :=
  if s.par.cpu.is30xx then s.cp0.xContext
  else setField (setField s.cp0.xContext 4 (va.extractLsb' 13 27)) 31 (va.extractLsb' 62 2)

/-- BadVaddr after an exception: the address of an addressing exception; otherwise undefined on the R30xx
(R131) and kept on the others, which keep it under EXL too (R132). -/
def State.badVAddrAfter (s : State) (e : Exc) : DWord :=
  if s.par.cpu.is30xx then
    match e.badVa with
    | some va => va
    | none => sextLo (s.free >>> 32)
  else
    match e.badVa with
    | some va => if s.exl then s.cp0.badVAddr else va
    | none => s.cp0.badVAddr

/-- SR after an exception: the KU/IE stack pushed (R108), or EXL set (R1041). -/
def State.srAfter (s : State) : Word :=
  if s.par.cpu.is30xx then setField s.cp0.sr 0 (s.cp0.sr.extractLsb' 0 4 ++ 0#2) else setBit s.cp0.sr 1 true

/-- Coprocessor 0 after an exception (R1040, R1041). -/
def State.cp0After (s : State) (e : Exc) : Cp0 :=
  { s.cp0 with
    epc := if !s.par.cpu.is30xx && s.exl then s.cp0.epc else s.restartPc
    cause := s.causeAfter e
    badVAddr := s.badVAddrAfter e
    context := match e.tlbVa with
      | some va => s.contextAfter va
      | none => s.cp0.context
    xContext := match e.tlbVa with
      | some va => s.xContextAfter va
      | none => s.cp0.xContext
    entryHi := match e.tlbVa with
      | some va => s.entryHiAfter va
      | none => s.cp0.entryHi
    sr := s.srAfter }

/-- Cache Error (R1034): ErrorEPC, ERL and CacheErr, and the cache error vector. The bits of CacheErr drawn as zero stay
zero whatever the image holds (R164). -/
def cacheErrorEntry (info : Word) (s : State) : State :=
  let v := if s.bev then 0xFFFFFFFFBFC00300#64 else 0xFFFFFFFFA0000100#64
  { s with cp0 := { s.cp0 with
      errorEpc := s.restartPc, sr := setBit s.cp0.sr 2 true, cacheErr := info &&& 0xFE3FFFFB#32 } }.gotoWith v s.trapHaz

/-- The exceptions whose entry is the common one of R1040 and R1041. -/
def Exc.common : Exc → Bool
  | .cacheError _ | .tlbShutdown => false
  | _ => true

/-- TAKING AN EXCEPTION (R1040, R1041): EPC and the cause are saved, the old mode is saved in SR, the machine
enters kernel mode with interrupts disabled and goes to the vector. A cache error has its own entry (R1034). TLB shutdown
is no exception: it sets SR.TS, and `step` finds the machine stuck (R318, D18). -/
def takeException (e : Exc) (s : State) : State :=
  match e with
  | .tlbShutdown => s.setSr (setBit s.cp0.sr 21 true)
  | .cacheError info => cacheErrorEntry info s
  | e =>
    let v := s.vector e
    let c := s.cp0After e
    { s.useFree with cp0 := c }.gotoWith v s.trapHaz

/-! ### Returning from an exception (R791, R792, R1050, R1051) -/

/-- After an exception return HI and LO are undefined where a write of them came too close to a read (R1122). -/
def State.returnHilo (s : State) : State :=
  if s.haz.hiloBroken then
    { s.useFree.useFree with
      hi := s.narrow s.free, lo := s.narrow s.useFree.free, haz := { s.haz with hiloBroken := false } }
  else s

/-- RFE pops the KU/IE stack and does nothing else (R108, R791), but for R1122. -/
def State.popMode (s : State) : State :=
  let s := s.returnHilo
  s.setSr (setField s.cp0.sr 0 (s.cp0.sr.extractLsb' 2 4))

/-- ERET: to ErrorEPC with ERL cleared, or to EPC with EXL cleared; LLbit is cleared (R792, R1051). -/
def State.exceptionReturn (s : State) : State :=
  let s := s.returnHilo
  if s.erl then
    { s.setSr (setBit s.cp0.sr 2 false) with llBit := false }.gotoWith s.cp0.errorEpc s.returnHaz
  else
    { s.setSr (setBit s.cp0.sr 1 false) with llBit := false }.gotoWith s.cp0.epc s.returnHaz

/-! ### Reset and NMI (R1035, R1036, R1100 to R1107) -/

/-- Reset of a running machine: what R1101 to R1103 name is set, and other registers stay (R1100). Config, BusCtrl and PortSize
are set whole, to their values at power-up, the fields that R57 calls unspecified with them: K0, Slow Bus, Halt, RF, the
R3071's DB Refill, DBR and FDM of the R3041 are cleared (R57, R150, R151; DESIGN CHOICE, log entry 51). A standstill ends, and
postponed watches are forgotten (DEDUCED from R1100, log entries 51 and 43). On an R30xx EPC gets PC,
the address of the instruction being executed, as R1101 writes it: the rule for exceptions that names the branch before
a delay slot (R1043) is not applied, and Cause.BD stays (DESIGN CHOICE, log entry 51). -/
def coldReset (s : State) : State :=
  let r := Cp0.reset s.par
  let c := s.cp0
  let c := match s.par.cpu with
    | .r3041 => { c with compare := r.compare, config := r.config, busCtrl := r.busCtrl, portSize := r.portSize }
    | .r3071 | .r3081 => { c with config := r.config, random := r.random }
    | .r3051 | .r3052 | .r36100 => { c with random := r.random }
    | .r4600 | .r4700 | .r5000 => { c with config := r.config, random := r.random, wired := 0 }
    | .r4650 | .r4640 => { c with
        config := r.config, cAlg := r.cAlg, iWatch := setBit c.iWatch 0 false, dWatch := setField c.dWatch 1 0#2 }
  let c := if s.par.cpu.is30xx then
      { c with epc := s.pc, sr := merge 0x00600003#32 c.sr r.sr }
    else if s.par.cpu.is4650 then
      { c with errorEpc := s.restartPc, sr := merge 0x01D00004#32 c.sr r.sr }
    else
      { c with errorEpc := s.restartPc, sr := merge 0x00500004#32 c.sr r.sr }
  { s with
    cp0 := c, halted := false, watchI := false, watchD := false,
    inp := { s.inp with coldReset := false } }.gotoWith resetVector s.trapHaz

/-- Soft reset and NMI (R1035, R1036, R1107): ErrorEPC, ERL, SR.SR and BEV, and the reset vector. -/
def softReset (s : State) : State :=
  { s with cp0 := { s.cp0 with
      errorEpc := s.restartPc, sr := s.cp0.sr ||| 0x00500004#32 } }.gotoWith resetVector s.trapHaz

/-! ### Running a meaning -/

/-- What a meaning answers. -/
abbrev Result := Host.Outcome State Fault Refusal

/-- The outcome of an instruction whose effect is `x`: the state after it, or the state after the exception it
takes (R1001). -/
def runOp (x : Op Unit) (s : State) : Result :=
  match x s with
  | .ok (_, s') => .next s'
  | .error (.exc e s') => .next (takeException e s')
  | .error (.refused r) => .refused r

/-- The outcome of an instruction that ends by going on to the next one. -/
def runSeq (x : Op Unit) (s : State) : Result :=
  runOp (do x; change State.advance) s

end Sys2Proof.Machine
end

