-- ==== Sys2Proof/Machine/Operands.lean ====
section
/-! DEFINITION. Operands in memory: the effective address, the address spaces and translation of every member
(spec/20_memory.md, spec/21_mmu.md), byte lanes, and the one read and one write of memory that loads, stores and
the fetch are made of. -/

namespace Sys2Proof.Machine

/-- Why memory is accessed (R226). -/
inductive Access where
  | fetch | load | store
  deriving DecidableEq, Repr

/-- The access is a store, for the exception code (R126). -/
def Access.isStore : Access → Bool
  | .store => true
  | _ => false

/-! ### Effective addresses (R670) -/

/-- A virtual address as the member uses it: the members with 32-bit addresses ignore the upper half of a
register (R239) and hold an address sign-extended. -/
def State.normVa (s : State) (a : DWord) : DWord := if s.par.cpu.isOrionTlb then a else sextLo a

/-- `sext(offset) + GPR[base]` (R670). -/
def effAddr (base : RegNum) (offset : BitVec 16) : Op DWord := do
  let b ← readGpr base
  look fun s => s.normVa (b + sextImm offset)

/-- `v`, or a free value where the spec says it is undefined. -/
def freeIf (c : Bool) (v : DWord) : Op DWord := fun s => if c then fresh s else .ok (v, s)

/-- The offset field of an aligned access breaks the MIPS-4 restriction (R674). -/
def State.offsetUndefined (s : State) (offset : BitVec 16) (n : Nat) : Bool :=
  s.par.cpu.isa == .mips4 && offset.toNat % n != 0

/-! ### Address spaces (R231 to R239) -/

/-- Where a virtual address lies: nowhere the mode may go, in a mapped segment, or in an unmapped one with its
physical address and cache algorithm (coded as EntryLo.C: 2 uncached, 3 cached; R178). -/
inductive Segment where
  | addressError
  | mapped
  | direct (pa : Nat) (cca : BitVec 3)
  deriving DecidableEq, Repr

/-- The R30xx segments (R232, R233). -/
def segment30xx (tlb : Bool) (m : Mode) (va : DWord) : Segment :=
  let a := (lo32 va).toNat
  if m = .user ∧ 0x80000000 ≤ a then .addressError
  else if a < 0x80000000 then if tlb then .mapped else .direct (a + 0x40000000) 3#3
  else if a < 0xA0000000 then .direct (a - 0x80000000) 3#3
  else if a < 0xC0000000 then .direct (a - 0xA0000000) 2#3
  else if tlb then .mapped else .direct a 3#3

/-- The R4650 segments (R239): kuseg goes through base-bounds, the rest is relocated; the cache algorithm is
CAlg's (R344). With ERL set kuseg is the unmapped, uncached window of R238, which R1034 names for the R4650 too and
R239, R340 and R344 do not mention (DESIGN CHOICE, log entry 41). -/
def segment4650 (cAlg : Word) (erl : Bool) (m : Mode) (va : DWord) : Segment :=
  let a := (lo32 va).toNat
  let cca := cAlg.extractLsb' (4 * (a / 0x20000000)) 3
  if m = .user ∧ 0x80000000 ≤ a then .addressError
  else if a < 0x80000000 then if erl then .direct a 2#3 else .mapped
  else if a < 0xA0000000 then .direct (a - 0x80000000) cca
  else if a < 0xC0000000 then .direct (a - 0xA0000000) cca
  else .direct (a - 0xC0000000) cca

/-- The 32-bit compatible kernel and supervisor segments at the top of the address space, by the low word of a
sign-extended address (R235, R236): kseg0, kseg1, ksseg (sseg), kseg3. -/
def segmentCompat (k0 : BitVec 3) (m : Mode) (a : Nat) : Segment :=
  match m with
  | .user => .addressError
  | .supervisor => if 0xC0000000 ≤ a ∧ a < 0xE0000000 then .mapped else .addressError
  | .kernel =>
    if a < 0xA0000000 then .direct (a - 0x80000000) k0
    else if a < 0xC0000000 then .direct (a - 0xA0000000) 2#3
    else .mapped

/-- The Orion segments where the mode's addresses are 32 bits wide (R235, R238). -/
def segmentOrion32 (k0 : BitVec 3) (erl : Bool) (m : Mode) (va : DWord) : Segment :=
  let a := (lo32 va).toNat
  if !isWord va then .addressError
  else if a < 0x80000000 then if erl then .direct a 2#3 else .mapped
  else segmentCompat k0 m a

/-- The Orion segments where the mode's addresses are 64 bits wide (R236 to R238). -/
def segmentOrion64 (k0 : BitVec 3) (erl : Bool) (m : Mode) (va : DWord) : Segment :=
  let a := va.toNat
  if a ≤ 0xFFFFFFFFFF then if erl ∧ a < 0x80000000 then .direct a 2#3 else .mapped
  else if 0x4000000000000000 ≤ a ∧ a ≤ 0x400000FFFFFFFFFF then
    if m = .user then .addressError else .mapped
  else if 0x8000000000000000 ≤ a ∧ a < 0xC000000000000000 then
    if m = .kernel ∧ va.extractLsb' 36 23 = 0#23 then .direct (a % 0x1000000000) (va.extractLsb' 59 3)
    else .addressError
  else if 0xC000000000000000 ≤ a ∧ a ≤ 0xC00000FF7FFFFFFF then
    if m = .kernel then .mapped else .addressError
  else if 0xFFFFFFFF80000000 ≤ a then segmentCompat k0 m (lo32 va).toNat
  else .addressError

/-- The segment of an address in a mode. -/
def State.segment (s : State) (m : Mode) (va : DWord) : Segment :=
  if s.par.cpu.is30xx then segment30xx (s.par.mmu == .tlb64) m va
  else if s.par.cpu.is4650 then segment4650 s.cp0.cAlg s.erl m va
  else if s.addr64 m then segmentOrion64 (s.cp0.config.extractLsb' 0 3) s.erl m va
  else segmentOrion32 (s.cp0.config.extractLsb' 0 3) s.erl m va

/-! ### Translation (R303, R312, R340) -/

/-- An entry of the R30xx TLB matches a page and an ASID (R303). -/
def Tlb64Entry.hits (e : Tlb64Entry) (vpn : BitVec 20) (asid : BitVec 6) : Bool :=
  e.vpn == vpn && (e.g || e.asid == asid)

/-- The entries of the R30xx TLB that match, with their numbers (R303). -/
def State.tlb64Hits (s : State) (vpn : BitVec 20) (asid : BitVec 6) : List (Tlb64Entry × Nat) :=
  s.tlb64.toList.zipIdx.filter fun e => e.1.hits vpn asid

/-- An entry of the Orion TLB matches a region, a page pair and an ASID (R312; R is compared, C24). -/
def Tlb48Entry.hits (e : Tlb48Entry) (r : BitVec 2) (vpn2 : BitVec 27) (asid : BitVec 8) : Bool :=
  let keep := ~~~(e.mask.setWidth 27)
  (e.vpn2 &&& keep) == (vpn2 &&& keep) && e.r == r && (e.g || e.asid == asid)

/-- The entries of the Orion TLB that match, with their numbers (R312). -/
def State.tlb48Hits (s : State) (r : BitVec 2) (vpn2 : BitVec 27) (asid : BitVec 8) : List (Tlb48Entry × Nat) :=
  s.tlb48.toList.zipIdx.filter fun e => e.1.hits r vpn2 asid

/-- The PageMask values Table 6.5 shows (R174, R311). -/
def pageMaskLegal (m : BitVec 12) : Bool :=
  m == 0#12 || m == 3#12 || m == 0xF#12 || m == 0x3F#12 || m == 0xFF#12 || m == 0x3FF#12 || m == 0xFFF#12

/-- Bytes of a page with a mask (R311). -/
def pageBytes (m : BitVec 12) : Nat := 4096 * (m.toNat + 1)

/-- Translation through the R30xx TLB (R303). -/
def translate64 (va : DWord) (k : Access) : Op (Nat × BitVec 3) := fun s =>
  match s.tlb64Hits (va.extractLsb' 12 20) (s.cp0.entryHi.extractLsb' 6 6) with
  | [] => .error (.exc (.tlbRefill va k.isStore) s)
  | [(e, _)] =>
    if !e.v then .error (.exc (.tlbInvalid va k.isStore) s)
    else if k.isStore && !e.d then .error (.exc (.tlbModified va) s)
    else .ok ((e.pfn.toNat * 4096 + va.toNat % 4096, if e.n then 2#3 else 3#3), s)
  | _ => .error (.exc .tlbShutdown s)

/-- Translation through the Orion TLB (R312). -/
def translate48 (va : DWord) (k : Access) : Op (Nat × BitVec 3) := fun s =>
  match s.tlb48Hits (va.extractLsb' 62 2) (va.extractLsb' 13 27) (s.cp0.entryHi.extractLsb' 0 8) with
  | [] => .error (.exc (.tlbRefill va k.isStore) s)
  | [(e, _)] =>
    let size := pageBytes e.mask
    let lo := if va.toNat / size % 2 = 0 then e.even else e.odd
    if !lo.v then .error (.exc (.tlbInvalid va k.isStore) s)
    else if k.isStore && !lo.d then .error (.exc (.tlbModified va) s)
    else .ok ((lo.pfn.toNat * 4096 / size * size + va.toNat % size, lo.c), s)
  | _ => .error (.refused .tlbMultipleMatch)

/-- The address is in the space that goes through base-bounds: the R4650's kuseg with ERL clear (R239, R340, R1034). -/
def State.boundsMapped (s : State) (va : DWord) : Bool := s.par.cpu.is4650 && !s.erl && !bit va 31

/-- The address is above the bound of its space (R340). -/
def State.outOfBounds (s : State) (va : DWord) (k : Access) : Bool :=
  let bound := if k = .fetch then s.cp0.iBound else s.cp0.dBound
  s.boundsMapped va && (bound.extractLsb' 12 19).ult (va.extractLsb' 12 19)

/-- The access comes within five instructions after a change of a base or bounds register (R342, R1148). -/
def State.boundsUnsettled (s : State) (va : DWord) : Bool := s.boundsMapped va && s.haz.bounds != 0

/-- Base-bounds relocation (R340). -/
def State.relocate (s : State) (va : DWord) (k : Access) : Nat :=
  let base := if k = .fetch then s.cp0.iBase else s.cp0.dBase
  (va.extractLsb' 12 20 + base.extractLsb' 12 20).toNat * 4096 + va.toNat % 4096

/-- Translation of a mapped address by the member's unit (R300). -/
def translateMapped (va : DWord) (k : Access) : Op (Nat × BitVec 3) := fun s =>
  match s.par.mmu with
  | .tlb64 => translate64 va k s
  | .tlb48 => translate48 va k s
  | .basebounds => .ok ((s.relocate va k, s.cp0.cAlg.extractLsb' (4 * ((lo32 va).toNat / 0x20000000)) 3), s)
  | .fixed => .ok (((lo32 va).toNat, 3#3), s)

/-- The segment of an access of `n` bytes, with the checks that come before translation in the order of R1002: the
R4650's bounds, alignment and segment (Address Error). -/
def locate (va : DWord) (k : Access) (n : Nat) : Op Segment := do
  let m ← currentMode
  let open5 ← look fun s => s.boundsUnsettled va
  refuseIf open5 .boundsUnsettled
  let out ← look fun s => s.outOfBounds va k
  raiseIf out (.bounds va k.isStore)
  raiseIf (va.toNat % n != 0) (.addressError va k.isStore)
  let seg ← look fun s => s.segment m va
  raiseIf (seg == .addressError) (.addressError va k.isStore)
  pure seg

/-- The caches of an R30xx are swapped and not isolated (R263). -/
def State.swapped (s : State) : Bool := s.par.cpu.is30xx && s.swc && !s.isc

/-- The physical address and cache algorithm that a segment gives an address. -/
def segmentPhys (va : DWord) (k : Access) (seg : Segment) : Op (Nat × BitVec 3) :=
  match seg with
  | .addressError => raise (.addressError va k.isStore)
  | .mapped => translateMapped va k
  | .direct pa cca => pure (pa, cca)

/-- The same, for an access: one through a reserved cache algorithm has no meaning (R178), nor has a cached one while the
caches are swapped and not isolated (R263). -/
def resolve (va : DWord) (k : Access) (seg : Segment) : Op (Nat × BitVec 3) := do
  let r ← segmentPhys va k seg
  refuseIf (bit r.2 2) .cacheAlgorithmReserved
  let sw ← look State.swapped
  refuseIf (sw && r.2 == 3#3) .cachesSwapped
  pure r

/-- AddressTranslation for an access of `n` bytes (R226), with the checks before it. -/
def translate (va : DWord) (k : Access) (n : Nat) : Op (Nat × BitVec 3) := do
  let seg ← locate va k n
  resolve va k seg

/-! ### Cache errors (R1002, R1034) -/

/-- The state with a cache parity error taken off the inputs. -/
def State.dropCacheError (s : State) : State := { s with inp := { s.inp with cacheError := none } }

/-- The cache error that a fetch (`data` false) or a data access meets: the R4xxx and R5000 with SR.DE clear (R269, R1034);
bit 31 of the CacheErr image says which of the two it is for (R164). -/
def State.cacheErrorDue (s : State) (data : Bool) : Option Word :=
  match s.inp.cacheError with
  | some info => if !s.par.cpu.is30xx && !bit s.cp0.sr 16 && bit info 31 == data then some info else none
  | none => none

/-- What CacheErr is loaded with (R164) by an error that the access to virtual address `va` and physical address `pa` meets.
For an internal reference (ES, bit 27, clear) SIdx, bits 21:3, is the physical address 21:3 of that access, and PIdx, bits
2:0, its virtual address 13:12 below a zero; an external reference is none of the core's, and the host's image has its own.
The other fields say what failed, which the host knows. -/
def cacheErrImage (info : Word) (va : DWord) (pa : Nat) : Word :=
  if bit info 27 then info
  else setField (setField info 3 (BitVec.ofNat 19 (pa / 8))) 0 ((va.extractLsb' 12 2).setWidth 3)

/-- The Cache Error exception, which takes the host's request off. `pa` is the physical address of the access; where there
is none, because the access has no translation, SIdx shows the address's own offset in the page below bits any value
(DESIGN CHOICE, log entry 42). -/
def cacheCheck (data : Bool) (va : DWord) (pa : Option Nat) : Op Unit := fun s =>
  match s.cacheErrorDue data with
  | none => .ok ((), s)
  | some info =>
    match pa with
    | some a => .error (.exc (.cacheError (cacheErrImage info va a)) s.dropCacheError)
    | none =>
      let a := s.free.toNat * 4096 + va.toNat % 4096
      .error (.exc (.cacheError (cacheErrImage info va a)) s.dropCacheError.useFree)

/-- The physical address of a fetch in a segment, where it has one: an instruction cache error, which R1002 puts before the
instruction TLB's exceptions, names it in SIdx (R164). -/
def State.fetchPhys (s : State) (va : DWord) (seg : Segment) : Option Nat :=
  match segmentPhys va .fetch seg s with
  | .ok (r, _) => some r.1
  | .error _ => none

/-! ### Watch (R1032) -/

/-- A match takes a Watch exception, or is postponed while EXL or ERL is set. -/
def watchMatch (iw dw : Bool) : Op Unit := fun s =>
  if s.exl || s.erl then .ok ((), { s with watchI := s.watchI || iw, watchD := s.watchD || dw })
  else .error (.exc (.watch iw dw) s)

/-- IWatch matches a fetch (R166). -/
def State.iWatchHit (s : State) (va : DWord) : Bool :=
  s.par.cpu.is4650 && bit s.cp0.iWatch 0 && s.cp0.iWatch.extractLsb' 2 30 == va.extractLsb' 2 30

/-- DWatch matches a load or a store (R167). -/
def State.dWatchHit (s : State) (va : DWord) (k : Access) : Bool :=
  s.par.cpu.is4650 && bit s.cp0.dWatch (if k.isStore then 1 else 2) &&
    s.cp0.dWatch.extractLsb' 3 29 == va.extractLsb' 3 29

/-- The watch of a fetch. -/
def watchFetch (va : DWord) : Op Unit := fun s => if s.iWatchHit va then watchMatch true false s else .ok ((), s)

/-- What comes between the translation of a load or store to physical address `pa` and its access (R1002): the data cache
error, then DWatch. -/
def checkData (va : DWord) (k : Access) (pa : Nat) : Op Unit := do
  cacheCheck true va (some pa)
  fun s => if s.dWatchHit va k then watchMatch false true s else .ok ((), s)

/-! ### Reading and writing memory (R222, R227, R228, R672) -/

/-- The physical address of the byte a program sees at `a`: ReverseEndian inverts the address inside the memory
element (R222 point 3). An access of `s` bytes at `a` then touches the bytes at `a xor (N - s)`, which in
BigEndianCPU order of rising `a` is BigEndianMem order of rising physical address. -/
def State.byteLane (s : State) (a : Nat) : Nat :=
  if s.reverseEndian then a ^^^ (s.par.cpu.elemBytes - 1) else a

/-- The physical addresses of the `n` bytes a program sees from `a` on. -/
def State.lanes (s : State) (a n : Nat) : List Nat := byteAddrs s.byteLane a n

/-- The board answers a read of some of these bytes with a bus error (R240, R1024). -/
def State.busErrorAt (s : State) (as : List Nat) : Bool :=
  as.any fun a => s.inp.busError.any fun r => decide (r.1 ≤ a) && decide (a < r.1 + r.2)

/-- The value of the `n` bytes at `a` in the CPU's byte order (R672: LoadField). -/
def State.memVal (s : State) (a n : Nat) : DWord := ofBytes s.bigEndianCpu (memReadList s.mem (s.lanes a n))

/-- Memory with the low `n` bytes of `v` stored at `a` (R672: StoreField). -/
def State.setMem (s : State) (a n : Nat) (v : DWord) : State :=
  { s with mem := memWriteList s.mem (s.lanes a n) (toBytes s.bigEndianCpu n v) }

/-! ### The isolated caches of the R30xx (R261 to R263, D15) -/

/-- The array the isolated accesses reach: the data cache, or the instruction cache while swapped. -/
def State.isolated (s : State) : CacheArray := if s.swc then s.icache else s.dcache

/-- The array with a new content. -/
def State.setIsolated (s : State) (c : CacheArray) : State :=
  if s.swc then { s with icache := c } else { s with dcache := c }

/-- Its size in bytes (R3, R150). -/
def State.isolatedBytes (s : State) : Nat :=
  let ac := s.par.cpu.is3071 && bit s.cp0.config 23
  if s.swc then s.par.cpu.icacheBytes ac else s.par.cpu.dcacheBytes ac

/-- The bytes of one line: one word, or four in the instruction cache (R252). -/
def State.isolatedLine (s : State) : Nat := if s.swc then 16 else 4

/-- The places in the array of the `n` bytes at `a`. -/
def State.isolatedPlaces (s : State) (a n : Nat) : List Nat :=
  byteAddrs (fun x => s.byteLane x % s.isolatedBytes) a n

/-- An isolated load: the word in the array whatever its tag; SR.CM says whether the line is there (R261,
R262). -/
def State.isolatedLoad (s : State) (a n : Nat) : DWord × State :=
  let c := s.isolated
  let hit := assocGet (a % s.isolatedBytes / s.isolatedLine) c.lines == some (a / s.isolatedBytes)
  (ofBytes s.bigEndianCpu (memReadList c.data (s.isolatedPlaces a n)), s.setSr (setBit s.cp0.sr 19 (!hit)))

/-- An isolated store: a word enters the array and makes its line valid, a part of a word makes the line
invalid (R261). -/
def State.isolatedStore (s : State) (a n : Nat) (v : DWord) : State :=
  let c := s.isolated
  let line := a % s.isolatedBytes / s.isolatedLine
  if n = 4 then
    s.setIsolated
      { data := memWriteList c.data (s.isolatedPlaces a n) (toBytes s.bigEndianCpu n v)
        lines := assocSet line (a / s.isolatedBytes) c.lines }
  else s.setIsolated { c with lines := assocErase line c.lines }

/-- Reading `n` bytes of data at a physical address: the isolated cache, a bus error, or memory. -/
def readMem (a n : Nat) : Op DWord := fun s =>
  if s.isc then .ok (s.isolatedLoad a n)
  else if s.busErrorAt (s.lanes a n) then .error (.exc .busErrorData s)
  else .ok (s.memVal a n, s)

/-- The low `n` bytes of `v` at a physical address: the isolated cache, or memory. -/
def State.putMem (s : State) (a n : Nat) (v : DWord) : State :=
  if s.isc then s.isolatedStore a n v else s.setMem a n v

/-- Writing the low `n` bytes of `v` at a physical address; a store takes no bus error (R1024, C51). -/
def writeMem (a n : Nat) (v : DWord) : Op Unit := change fun s => s.putMem a n v

/-! ### One load, one store, one fetch (R671) -/

/-- Load `n` bytes at a virtual address. -/
def loadAt (va : DWord) (n : Nat) : Op DWord := do
  let r ← translate va .load n
  checkData va .load r.1
  readMem r.1 n

/-- Store the low `n` bytes of `v` at a virtual address. -/
def storeAt (va : DWord) (n : Nat) (v : DWord) : Op Unit := do
  let r ← translate va .store n
  checkData va .store r.1
  writeMem r.1 n v

/-- An aligned load of `n` bytes at base plus offset, extended by `f`; the whole result is undefined where the offset
breaks the restriction (R671, R674). -/
def loadField (base : RegNum) (offset : BitVec 16) (n : Nat) (f : DWord → DWord) : Op DWord := do
  let va ← effAddr base offset
  let v ← loadAt va n
  let u ← look fun s => s.offsetUndefined offset n
  freeIf u (f v)

/-- An aligned store of `n` bytes at base plus offset (R671, R674). -/
def storeField (base : RegNum) (offset : BitVec 16) (n : Nat) (v : DWord) : Op Unit := do
  let va ← effAddr base offset
  let u ← look fun s => s.offsetUndefined offset n
  let v ← freeIf u v
  storeAt va n v

/-- The instruction word at pc, in the memory's byte order whatever SR.RE is (R223, R360, D11); IWatch and the
instruction cache error come between the address checks and the translation (R1002). -/
def fetchWord : Op Word := do
  let va ← look fun s => s.pc
  let seg ← locate va .fetch 4
  watchFetch va
  let pa ← look fun s => s.fetchPhys va seg
  cacheCheck false va pa
  let r ← resolve va .fetch seg
  let err ← look fun s => s.busErrorAt (byteAddrs id r.1 4)
  raiseIf err .busErrorFetch
  look fun s => lo32 (ofBytes s.par.bigEndianMem (memReadList s.mem (byteAddrs id r.1 4)))

end Sys2Proof.Machine
end

