-- ==== Sys2Proof/Machine/Cp0.lean ====
section
/-! DEFINITION. The coprocessor 0 register file (spec/11_cp0_registers.md): which number names which register on
which member, what a read gives, what a write changes. -/

namespace Sys2Proof.Machine

/-- The coprocessor 0 registers by name (R102, R190). -/
inductive Cp0Name where
  | index | random | entryLo | entryLo0 | entryLo1 | context | pageMask | wired | badVAddr | count | entryHi
  | compare | sr | cause | epc | prId | config | llAddr | watchLo | watchHi | xContext | ecc | cacheErr
  | tagLo | tagHi | errorEpc | iBase | iBound | dBase | dBound | cAlg | iWatch | dWatch | busCtrl | portSize
  deriving DecidableEq, Repr

/-- The registers every R30xx has (R102). -/
def cp0Name30xx (n : RegNum) : Option Cp0Name :=
  match n with
  | 8#5 => some .badVAddr
  | 12#5 => some .sr
  | 13#5 => some .cause
  | 14#5 => some .epc
  | 15#5 => some .prId
  | _ => none

/-- The registers the R3041 adds (R102). -/
def cp0Name3041 (n : RegNum) : Option Cp0Name :=
  match n with
  | 2#5 => some .busCtrl
  | 3#5 => some .config
  | 9#5 => some .count
  | 10#5 => some .portSize
  | 11#5 => some .compare
  | n => cp0Name30xx n

/-- The registers an E version adds (R102). -/
def cp0NameTlb64 (n : RegNum) : Option Cp0Name :=
  match n with
  | 0#5 => some .index
  | 1#5 => some .random
  | 2#5 => some .entryLo
  | 4#5 => some .context
  | 10#5 => some .entryHi
  | n => cp0Name30xx n

/-- The registers the R4xxx and the R5000 share (R102, R103, R190). -/
def cp0Name4xxx (n : RegNum) : Option Cp0Name :=
  match n with
  | 8#5 => some .badVAddr
  | 9#5 => some .count
  | 11#5 => some .compare
  | 12#5 => some .sr
  | 13#5 => some .cause
  | 14#5 => some .epc
  | 15#5 => some .prId
  | 16#5 => some .config
  | 26#5 => some .ecc
  | 27#5 => some .cacheErr
  | 28#5 => some .tagLo
  | 29#5 => some .tagHi
  | 30#5 => some .errorEpc
  | _ => none

/-- The registers the Orion TLB CPUs add (R102, R190, R195). -/
def cp0NameOrion (n : RegNum) : Option Cp0Name :=
  match n with
  | 0#5 => some .index
  | 1#5 => some .random
  | 2#5 => some .entryLo0
  | 3#5 => some .entryLo1
  | 4#5 => some .context
  | 5#5 => some .pageMask
  | 6#5 => some .wired
  | 10#5 => some .entryHi
  | 17#5 => some .llAddr
  | 18#5 => some .watchLo
  | 19#5 => some .watchHi
  | 20#5 => some .xContext
  | n => cp0Name4xxx n

/-- The registers the R4650 adds (R102, R184). -/
def cp0Name4650 (n : RegNum) : Option Cp0Name :=
  match n with
  | 0#5 => some .iBase
  | 1#5 => some .iBound
  | 2#5 => some .dBase
  | 3#5 => some .dBound
  | 17#5 => some .cAlg
  | 18#5 => some .iWatch
  | 19#5 => some .dWatch
  | n => cp0Name4xxx n

/-- The register a number names on a member; none where the member has none (R102, R196). -/
def cp0NameOf (p : Params) (n : RegNum) : Option Cp0Name :=
  if p.cpu.isOrionTlb then cp0NameOrion n
  else if p.cpu.is4650 then cp0Name4650 n
  else if p.cpu == .r3041 then cp0Name3041 n
  else
    let base := if p.mmu == .tlb64 then cp0NameTlb64 n else cp0Name30xx n
    if p.cpu.is3071 && n == 3#5 then some .config else base

/-- The register is 64 bits wide on the member (R197): the Orion TLB CPUs only. -/
def cp0Wide (p : Params) (r : Cp0Name) : Bool :=
  p.cpu.isOrionTlb && match r with
    | .entryLo0 | .entryLo1 | .context | .badVAddr | .entryHi | .epc | .xContext | .errorEpc => true
    | _ => false

/-! ### Reading -/

/-- The value of a register, its reserved bits as they happen to be stored. -/
def State.cp0Val (s : State) (r : Cp0Name) : DWord :=
  match r with
  | .index => sext s.cp0.index
  | .random => if s.par.cpu.is30xx then zext (s.cp0.random.setWidth 32 <<< 8) else s.cp0.random.setWidth 64
  | .entryLo | .entryLo0 => s.cp0.entryLo0
  | .entryLo1 => s.cp0.entryLo1
  | .context => s.cp0.context
  | .pageMask => sext s.cp0.pageMask
  | .wired => s.cp0.wired.setWidth 64
  | .badVAddr => s.cp0.badVAddr
  | .count => sext s.cp0.count
  | .entryHi => s.cp0.entryHi
  | .compare => sext s.cp0.compare
  | .sr => sext s.cp0.sr
  | .cause => sext s.causeVal
  | .epc => s.cp0.epc
  | .prId => (s.par.imp ++ s.par.rev).setWidth 64
  | .config => sext s.cp0.config
  | .llAddr => sext s.cp0.llAddr
  | .watchLo => sext s.cp0.watchLo
  | .watchHi => sext s.cp0.watchHi
  | .xContext => s.cp0.xContext
  | .ecc => sext s.cp0.ecc
  | .cacheErr => sext s.cp0.cacheErr
  | .tagLo => sext s.cp0.tagLo
  | .tagHi => sext s.cp0.tagHi
  | .errorEpc => s.cp0.errorEpc
  | .iBase => sext s.cp0.iBase
  | .iBound => sext s.cp0.iBound
  | .dBase => sext s.cp0.dBase
  | .dBound => sext s.cp0.dBound
  | .cAlg => sext s.cp0.cAlg
  | .iWatch => sext s.cp0.iWatch
  | .dWatch => sext s.cp0.dWatch
  | .busCtrl => sext s.cp0.busCtrl
  | .portSize => sext s.cp0.portSize

/-- The bits of a register the spec calls reserved or x: they read an unspecified value (R101, R104, R150, R166,
R167, R170, R172; FPInt is reserved on the R3071); the R3041's start code finds PRId to be 0x00000700 as a whole
(R1106). Bits drawn as 0 read zero and are not here. -/
def cp0Reserved (p : Params) (r : Cp0Name) : Word :=
  match r with
  | .prId => if p.cpu == .r3041 then 0#32 else 0xFFFF0000#32
  | .index => if p.cpu.is30xx then 0x7FFFC0FF#32 else 0#32
  | .random => if p.cpu.is30xx then 0xFFFFC0FF#32 else 0#32
  | .config => match p.cpu with
    | .r3071 => 0x1C7FFFFF#32
    | .r3081 => 0x007FFFFF#32
    | _ => 0#32
  | .iWatch => 2#32
  | .dWatch => 1#32
  | _ => 0#32

/-- What MFC0 reads (R197, R770): the low word, sign-extended, its reserved bits free; a number that names no
register reads a free value (R196, D10). -/
def readCp0Word (n : RegNum) : Op DWord := fun s =>
  match cp0NameOf s.par n with
  | none => .ok (sextLo s.free, s.useFree)
  | some r => .ok (sext (merge (cp0Reserved s.par r) (lo32 (s.cp0Val r)) (lo32 s.free)), s.useFree)

/-- What DMFC0 reads (R772): 64 bits of a 64-bit register; a free value from a 32-bit one and from none. -/
def readCp0Dword (n : RegNum) : Op DWord := fun s =>
  match cp0NameOf s.par n with
  | none => .ok (s.free, s.useFree)
  | some r => if cp0Wide s.par r then .ok (s.cp0Val r, s) else .ok (s.free, s.useFree)

/-! ### Writing -/

/-- The writable bits of SR (R105, R113, R120): TS and CM are the hardware's, PE is cleared by writing it. -/
def srMask (p : Params) : Word :=
  if p.cpu.is30xx then 0xF247FF3F#32 else if p.cpu.is4650 then 0xF7D7FF37#32 else 0xF657FFFF#32

/-- SR after a write of `v`: the writable bits; and on the R30xx a 1 written to PE clears it (R105). -/
def State.srWritten (s : State) (v : Word) : Word :=
  let w := merge (srMask s.par) s.cp0.sr v
  if s.par.cpu.is30xx && bit v 20 then setBit w 20 false else w

/-- The writable bits of Config: none once Lock is set (R150, R151), and on the R3071 not the reserved FPInt; K0 on the
R4xxx and R5000 (R153), which the R4650 lacks (R154). -/
def State.configMask (s : State) : Word :=
  match s.par.cpu with
  | .r3041 => if bit s.cp0.config 31 then 0#32 else 0xA0080000#32
  | .r3071 => if bit s.cp0.config 31 then 0#32 else 0xE3800000#32
  | .r3081 => if bit s.cp0.config 31 then 0#32 else 0xFF800000#32
  | .r4600 | .r4700 | .r5000 => 7#32
  | _ => 0#32

/-- The writable bits of the registers 64 bits wide on some member (R160 to R162, R175 to R178). -/
def wideMask (p : Params) (r : Cp0Name) : DWord :=
  match r with
  | .entryLo => 0xFFFFFFFFFFFFFF00#64
  | .entryLo0 | .entryLo1 => 0x3FFFFFFF#64
  | .context => if p.cpu.is30xx then 0xFFFFFFFFFFE00000#64 else 0xFFFFFFFFFFFFFFF0#64
  | .entryHi => if p.cpu.is30xx then 0xFFFFFFFFFFFFFFC0#64 else 0xC00000FFFFFFE0FF#64
  | .xContext => 0xFFFFFFFFFFFFFFF0#64
  | _ => 0xFFFFFFFFFFFFFFFF#64

/-- The writable bits of Cause (R123, R125, R771): IP[1:0], on the R4650 IV, and IW and DW where the parameter says so
(log entry 61). -/
def causeMask (p : Params) : Word :=
  if p.cpu.is4650 then (if p.causeWatchWritable then 0x03800300#32 else 0x00800300#32) else 0x300#32

/-- A register after a write of `v` (R101, R771): its writable bits take the value, the others keep theirs. A
write to Wired sets Random to its upper bound (R173); a write to Compare clears the timer's request
(R143, R140; even where it makes Compare equal to Count: DESIGN CHOICE, log entry 36), a write to Count that makes it
equal to Compare raises it on the R4xxx and R5000 (R143, R1065); PRId, Random, BadVaddr and CacheErr are read-only
(R104, R131, R164, R172). LLAddr, WatchLo, WatchHi, TagLo and TagHi, for which R190 gives no fields, and PortSize take all
32 bits (DESIGN CHOICE, log entry 62). A write of Config.AC, which changes the sizes of the caches, leaves the private arrays
their bytes and line tags, read with the new sizes from then on (R260 only tells software to initialize them again: DESIGN
CHOICE, log entry 12). -/
def State.setCp0 (s : State) (r : Cp0Name) (v : DWord) : State :=
  let c := s.cp0
  let w := lo32 v
  let m24 := s.par.cpu == .r3041
  match r with
  | .index => { s with cp0 := { c with
      index := merge (if s.par.cpu.is30xx then 0x80003F00#32 else 0x8000003F#32) c.index w } }
  | .random | .badVAddr | .prId | .cacheErr => s
  | .entryLo | .entryLo0 => { s with cp0 := { c with entryLo0 := merge (wideMask s.par r) c.entryLo0 v } }
  | .entryLo1 => { s with cp0 := { c with entryLo1 := merge (wideMask s.par r) c.entryLo1 v } }
  | .context => { s with cp0 := { c with context := merge (wideMask s.par r) c.context v } }
  | .pageMask => { s with cp0 := { c with pageMask := merge 0x01FFE000#32 c.pageMask w } }
  | .wired => { s with cp0 := { c with wired := w.extractLsb' 0 6, random := 47#6 } }
  | .count => { s with
      cp0 := { c with count := if m24 then w &&& 0x00FFFFFF#32 else w }
      timerIrq := s.timerIrq || (!s.par.cpu.is30xx && w == c.compare) }
  | .entryHi => { s with cp0 := { c with entryHi := merge (wideMask s.par r) c.entryHi v } }
  | .compare => { s with
      cp0 := { c with compare := if m24 then w &&& 0x00FFFFFF#32 else w }, timerIrq := false }
  | .sr => s.setSr (s.srWritten w)
  | .cause => { s with cp0 := { c with cause := merge (causeMask s.par) c.cause w } }
  | .epc => { s with cp0 := { c with epc := v } }
  | .config => { s with
      cp0 := { c with config := merge s.configMask c.config w }
      halted := s.par.cpu.is3071 && bit (merge s.configMask 0#32 w) 25 }
  | .llAddr => { s with cp0 := { c with llAddr := w } }
  | .watchLo => { s with cp0 := { c with watchLo := w } }
  | .watchHi => { s with cp0 := { c with watchHi := w } }
  | .xContext => { s with cp0 := { c with xContext := merge (wideMask s.par r) c.xContext v } }
  | .ecc => { s with cp0 := { c with ecc := w &&& 0xFF#32 } }
  | .tagLo => { s with cp0 := { c with tagLo := w } }
  | .tagHi => { s with cp0 := { c with tagHi := w } }
  | .errorEpc => { s with cp0 := { c with errorEpc := v } }
  | .iBase => { s with cp0 := { c with iBase := w &&& 0xFFFFF000#32 } }
  | .iBound => { s with cp0 := { c with iBound := w &&& 0x7FFFF000#32 } }
  | .dBase => { s with cp0 := { c with dBase := w &&& 0xFFFFF000#32 } }
  | .dBound => { s with cp0 := { c with dBound := w &&& 0x7FFFF000#32 } }
  | .cAlg => { s with cp0 := { c with cAlg := w &&& 0x77777777#32 } }
  | .iWatch => { s with cp0 := { c with iWatch := w &&& 0xFFFFFFFD#32 } }
  | .dWatch => { s with cp0 := { c with dWatch := w &&& 0xFFFFFFFE#32 } }
  | .busCtrl => { s with cp0 := { c with
      busCtrl := merge (if bit c.busCtrl 31 then 0#32 else 0x8FE8F800#32) c.busCtrl w } }
  | .portSize => { s with cp0 := { c with portSize := w } }

/-- The write changes the cache algorithm of the address space the program runs in (R1148). -/
def State.cAlgActive (s : State) (r : Cp0Name) (v : DWord) : Bool :=
  let i := 4 * ((lo32 s.pc).toNat / 0x20000000)
  r == .cAlg && (lo32 v).extractLsb' i 3 != s.cp0.cAlg.extractLsb' i 3

/-- The write changes a base or bounds register of the R4650 (R342). -/
def State.boundsChange (s : State) (r : Cp0Name) (v : DWord) : Bool :=
  let c := (s.setCp0 r v).cp0
  c.iBase != s.cp0.iBase || c.iBound != s.cp0.iBound || c.dBase != s.cp0.dBase || c.dBound != s.cp0.dBound

/-- Such a change is made from mapped space (R342, R1148). -/
def State.boundsActive (s : State) (r : Cp0Name) (v : DWord) : Bool := s.boundsMapped s.pc && s.boundsChange r v

/-- The write sets up an R30xx (Config, BusCtrl, PortSize) from outside kseg1 (R1149). -/
def State.configOutside (s : State) (r : Cp0Name) : Bool :=
  s.par.cpu.is30xx && (r == .config || r == .busCtrl || r == .portSize) && (lo32 s.pc).extractLsb' 29 3 != 5#3

/-- The hazards a write leaves: Random is not counted in the step that writes Wired (R315), mapped space is closed for
five instructions after a change of a base or bounds register (R342). -/
def State.noteCp0Write (s : State) (r : Cp0Name) (v : DWord) : State :=
  { s with hazNext := { s.hazNext with
      uncounted := r == .wired
      bounds := if s.boundsChange r v then 5 else s.hazNext.bounds } }

/-- A write of a register that is there: the two that the R4650 leaves undefined have no meaning (R1148), nor has a set-up
write of an R30xx from outside kseg1 (R1149). -/
def writeCp0 (r : Cp0Name) (v : DWord) : Op Unit := fun s =>
  if s.cAlgActive r v then .error (.refused .cAlgActiveSpace)
  else if s.boundsActive r v then .error (.refused .boundsInMappedSpace)
  else if s.configOutside r then .error (.refused .configOutsideKseg1)
  else .ok ((), (s.noteCp0Write r v).setCp0 r v)

/-- What MTC0 writes (R771): the low word of the register, sign-extended where a 32-bit member holds it in 64
bits; the upper half of a 64-bit register becomes free (D26); a number that names no register takes the
write and drops it (R196, D10). The load or store immediately before one that alters translation, which R771 calls undefined as
it does the one after, is made as ever under the old registers, and the one after under the new (DESIGN CHOICE, log entry
13). -/
def writeCp0Word (n : RegNum) (v : DWord) : Op Unit := fun s =>
  match cp0NameOf s.par n with
  | none => .ok ((), s)
  | some r =>
    if cp0Wide s.par r then writeCp0 r ((s.free.extractLsb' 32 32 : Word) ++ lo32 v) s.useFree
    else writeCp0 r (sextLo v) s

/-- What DMTC0 writes (R773): 64 bits of a 64-bit register; a 32-bit register gets a free value. R773 calls the operation of
the load or store immediately before and after it undefined, because translation may change: the one before is made as ever
under the old registers, the one after under the new (DESIGN CHOICE, log entry 13). -/
def writeCp0Dword (n : RegNum) (v : DWord) : Op Unit := fun s =>
  match cp0NameOf s.par n with
  | none => .ok ((), s)
  | some r => if cp0Wide s.par r then writeCp0 r v s else writeCp0 r (sextLo s.free) s.useFree

/-! ### The free-running registers (R140 to R143, R172, R315) -/

/-- Random one step later. On the Orion TLB CPUs it counts down with every instruction from 47 to Wired and
goes back to 47 (R315; a Wired above 47 is not described, and Random is then free); an instruction that ends in an
exception is not counted, and a write of Wired leaves 47. On the R30xx it counts clock periods,
which the model does not know: any value from 8 to 63 (R172). -/
def State.tickRandom (s : State) : State :=
  match s.par.mmu with
  | .tlb48 =>
    if s.haz.uncounted then s
    else if 47 < s.cp0.wired.toNat then
      { s.useFree with cp0 := { s.cp0 with random := s.free.extractLsb' 0 6 } }
    else
      { s with cp0 := { s.cp0 with
          random := if s.cp0.random.toNat ≤ s.cp0.wired.toNat ∨ 47 < s.cp0.random.toNat then 47#6
            else s.cp0.random - 1 } }
  | .tlb64 =>
    { s.useFree with cp0 := { s.cp0 with random := BitVec.ofNat 6 (8 + s.free.toNat % 56) } }
  | _ => s

/-- One tick of Count. R4xxx, R5000: up by one, and the timer's request when it reaches Compare (R141, R143). R3041:
up by one, back to zero once it has reached Compare, with the TC output (R140): a Count that equals Compare has. One that a
write of Count or Compare has put above Compare, of which R140 does not speak, counts on, through 0xFFFFFF to zero without
the output, until it equals Compare (DESIGN CHOICE, log entry 35). -/
def State.tickCount (s : State) : State :=
  if s.par.cpu == .r3041 then
    if s.cp0.count = s.cp0.compare then { s with cp0 := { s.cp0 with count := 0 }, timerIrq := true }
    else { s with
      cp0 := { s.cp0 with count := (s.cp0.count + 1) &&& 0x00FFFFFF#32 }
      timerIrq := s.timerIrq && bit s.cp0.busCtrl 12 }
  else if s.par.cpu.is30xx then s
  else
    let c := s.cp0.count + 1
    { s with cp0 := { s.cp0 with count := c }, timerIrq := s.timerIrq || c == s.cp0.compare }

/-- `n` ticks of Count. -/
def State.tickCounts (s : State) : Nat → State
  | 0 => s
  | n + 1 => s.tickCount.tickCounts n

/-- What time does in one step (R141, R172; the number of Count ticks is a parameter, D8). -/
def State.tick (s : State) : State := s.tickRandom.tickCounts s.par.countTicksPerStep

end Sys2Proof.Machine
end

