-- ==== Sys2Proof/Machine/Flags.lean ====
section
/-! DEFINITION. The flags of the machine: FCR31 with the condition codes, the rounding mode, Cause, Enables and
Flags (spec/45_fpu_state_moves.md R827 to R829, R843), the coprocessor condition signals (R830, R1074), and the
hazards that leave a flag unsettled (R831). The integer instructions have no flags (R651). -/

namespace Sys2Proof.Machine

/-- The writable bits of FCR31 (R827): FS from the R4xxx on, FCC[7:1] on the R5000. -/
def fcr31Mask (c : Cpu) : Word :=
  if c.is30xx then 0x0083FFFF#32 else if c.isa == .mips4 then 0xFF83FFFF#32 else 0x0183FFFF#32

/-- FCR31 <- v. -/
def State.setFcr31 (s : State) (v : Word) : State := { s with fpu := { s.fpu with fcr31 := v } }

/-- The condition code number an instruction uses: code 0 below MIPS IV (R829, D21). -/
def State.ccOf (s : State) (cc : BitVec 3) : BitVec 3 := if s.par.cpu.isa == .mips4 then cc else 0#3

/-- The bit of FCR31 that holds a condition code (R827): 23 for code 0, 25 to 31 for codes 1 to 7. -/
def fccBit (cc : BitVec 3) : Nat := if cc = 0#3 then 23 else 24 + cc.toNat

/-- FCC[cc] (R828, R829). -/
def State.fcc (s : State) (cc : BitVec 3) : Bool := bit s.fpu.fcr31 (fccBit (s.ccOf cc))

/-- FCC[cc] <- b (R920). -/
def State.setFcc (s : State) (cc : BitVec 3) (b : Bool) : State :=
  s.setFcr31 (setBit s.fpu.fcr31 (fccBit (s.ccOf cc)) b)

/-- Cause <- e and UnImp <- u (R891). -/
def setCauseBits (v : Word) (e : BitVec 5) (u : Bool) : Word := setBit (setField v 12 e) 17 u

/-- Flags <- Flags or e (R891 step 5). -/
def addFlags (v : Word) (e : BitVec 5) : Word := setField v 2 (v.extractLsb' 2 5 ||| e)

/-- The rounding modes (R827, Table 8.2). -/
inductive Rm where
  | nearest | zero | up | down
  deriving DecidableEq, Repr

/-- RM of FCR31 (R827). -/
def rmOf (v : Word) : Rm :=
  match v.extractLsb' 0 2 with
  | 0#2 => .nearest
  | 1#2 => .zero
  | 2#2 => .up
  | 3#2 => .down

/-- Enables of FCR31 (R827). -/
def enablesOf (v : Word) : BitVec 5 := v.extractLsb' 7 5

/-- FS of FCR31 (R827). -/
def fsOf (v : Word) : Bool := bit v 24

/-- FCR31 as an instruction reads it: free in the slot after a CTC1 to it (R831 item 2). -/
def readFcr31 : Op Word := fun s =>
  if s.haz.fcr = some 31#5 then .ok (lo32 s.free, s.useFree) else .ok (s.fpu.fcr31, s)

/-- The line BrCond(z) (R1074). On the R3041 BrCond(3:2) are outputs where BusCtrl.BR is clear, and what a branch
then reads is any value. -/
def brCondLine (z : BitVec 2) : Op Bool := fun s =>
  if s.par.cpu == .r3041 ∧ bit z 1 ∧ !bit s.cp0.busCtrl 11 then .ok (bit s.free 0, s.useFree)
  else .ok (bit s.inp.brCond z.toNat, s)

/-- COC[z] of a coprocessor other than the FPA (R650): the pin on the R30xx, any value elsewhere (R386). -/
def copCond (z : BitVec 2) : Op Bool := fun s =>
  if s.par.cpu.is30xx then brCondLine z s else .ok (bit s.free 0, s.useFree)

/-- The condition a branch on coprocessor 1 tests (R828, R830, R860): FCC[cc] where there is an FPA, unsettled after
a compare or a CTC1 below MIPS IV (R831 item 3); the pin BrCond(1) where there is none. -/
def fpCond (cc : BitVec 3) : Op Bool := fun s =>
  if !s.par.cpu.hasFpa then copCond 1#2 s
  else if s.haz.cond = 0 then .ok (s.fcc cc, s)
  else .ok (bit s.free 0, s.useFree)

/-- The condition signal is unsettled for `n` further instructions (R831). -/
def State.delayCond (s : State) (n : Nat) : State :=
  if s.par.cpu.isa == .mips4 then s else { s with hazNext := { s.hazNext with cond := n } }

end Sys2Proof.Machine
end

