-- ==== Sys2Proof/Machine/Float.lean ====
section
/-! DEFINITION. Floating-point values and arithmetic (spec/46_fpu_arith.md R890 to R898, R900 to R941,
spec/45_fpu_state_moves.md R825), as pure functions: the exact result in natural numbers and integers, rounded
once. What an instruction then does with the conditions stands in Machine/FpuOps.lean. -/

namespace Sys2Proof.Machine

/-! ### Formats and values (R825) -/

/-- The operand formats of the fmt field (R825). -/
inductive Fmt where
  | s | d | w | l
  deriving DecidableEq, Repr

/-- The floating-point formats. -/
inductive FFmt where
  | s | d
  deriving DecidableEq, Repr

/-- The format as an operand format. -/
def FFmt.fmt : FFmt → Fmt
  | .s => .s
  | .d => .d

/-- Bits of the mantissa field. -/
def FFmt.mbits : FFmt → Nat
  | .s => 23
  | .d => 52

/-- Bits of the exponent field. -/
def FFmt.ebits : FFmt → Nat
  | .s => 8
  | .d => 11

/-- The exponent bias. -/
def FFmt.bias : FFmt → Nat
  | .s => 127
  | .d => 1023

/-- The exponent field of all ones. -/
def FFmt.emax (f : FFmt) : Nat := 2 ^ f.ebits - 1

/-- The place of the sign bit. -/
def FFmt.signBit (f : FFmt) : Nat := f.mbits + f.ebits

/-- A floating-point number as R825 reads it: a finite number is `(-1)^neg * mant * 2^exp`. -/
inductive FVal where
  | nan (signalling : Bool)
  | inf (neg : Bool)
  | fin (neg : Bool) (mant : Nat) (exp : Int)
  deriving DecidableEq, Repr

/-- The sign bit of an encoding. -/
def fSign (f : FFmt) (x : DWord) : Bool := bit x f.signBit

/-- The exponent field of an encoding. -/
def fExp (f : FFmt) (x : DWord) : Nat := x.toNat / 2 ^ f.mbits % 2 ^ f.ebits

/-- The mantissa field of an encoding. -/
def fMant (f : FFmt) (x : DWord) : Nat := x.toNat % 2 ^ f.mbits

/-- The number an encoding stands for (R825): a NaN signals where the most significant mantissa bit is set. -/
def unpackF (f : FFmt) (x : DWord) : FVal :=
  let m := fMant f x
  if fExp f x = f.emax then
    if m = 0 then .inf (fSign f x) else .nan (bit x (f.mbits - 1))
  else if fExp f x = 0 then .fin (fSign f x) m (1 - f.bias - f.mbits)
  else .fin (fSign f x) (m + 2 ^ f.mbits) (fExp f x - f.bias - f.mbits)

/-- The encoding is a denormalized number (R825). -/
def isDenorm (f : FFmt) (x : DWord) : Bool := fExp f x == 0 && fMant f x != 0

/-- The encoding is a NaN. -/
def isNan (f : FFmt) (x : DWord) : Bool := fExp f x == f.emax && fMant f x != 0

/-- The encoding is a signalling NaN. -/
def isSNan (f : FFmt) (x : DWord) : Bool := isNan f x && bit x (f.mbits - 1)

/-- The encoding of a sign, an exponent field and a mantissa field. -/
def packF (f : FFmt) (neg : Bool) (e m : Nat) : DWord :=
  BitVec.ofNat 64 ((if neg then 2 ^ f.signBit else 0) + e * 2 ^ f.mbits + m)

/-- A signed zero. -/
def fZero (f : FFmt) (neg : Bool) : DWord := packF f neg 0 0

/-- A signed infinity. -/
def fInf (f : FFmt) (neg : Bool) : DWord := packF f neg f.emax 0

/-- The finite number of the largest magnitude, with a sign. -/
def fHuge (f : FFmt) (neg : Bool) : DWord := packF f neg (f.emax - 1) (2 ^ f.mbits - 1)

/-- The default quiet NaN (R894, D27). -/
def defaultNan (f : FFmt) : DWord := packF f false f.emax (2 ^ (f.mbits - 1) - 1)

/-- Some quiet NaN made of free bits (R894: the source does not say which). -/
def someQuietNan (f : FFmt) (free : DWord) : DWord :=
  let m := free.toNat % 2 ^ (f.mbits - 1)
  packF f (bit free 63) f.emax (if m = 0 then 1 else m)

/-! ### Conditions and results -/

/-- The IEEE conditions in the bit order of FCR31 (R827): V Z O U I. -/
def condV : BitVec 5 := 16#5
/-- division by zero -/
def condZ : BitVec 5 := 8#5
/-- overflow -/
def condO : BitVec 5 := 4#5
/-- underflow -/
def condU : BitVec 5 := 2#5
/-- inexact -/
def condI : BitVec 5 := 1#5

/-- The result of an operation before FCR31 is looked at. -/
structure FpOut where
  /-- the default result -/
  bits : DWord
  /-- the conditions met -/
  e : BitVec 5
  /-- the result is a quiet NaN because an operand is one, and may be any quiet NaN (R894) -/
  anyNan : Bool
  /-- the result is nonzero and below the smallest normal number (R895); `bits` is then the zero it is flushed to -/
  tiny : Bool
  deriving DecidableEq, Repr

/-- An exact result. -/
def FpOut.exact (v : DWord) : FpOut := { bits := v, e := 0, anyNan := false, tiny := false }

/-- A result with conditions. -/
def FpOut.cond (v : DWord) (e : BitVec 5) : FpOut := { bits := v, e := e, anyNan := false, tiny := false }

/-- An invalid operation (R894). -/
def FpOut.invalid (f : FFmt) : FpOut := .cond (defaultNan f) condV

/-- A quiet NaN operand goes into the result (R894). -/
def FpOut.quiet (f : FFmt) : FpOut := { bits := defaultNan f, e := 0, anyNan := true, tiny := false }

/-! ### Rounding (R890, R898) -/

/-- Whether the magnitude is rounded up to the next representable one: `odd` is the last bit kept, `half` compares
what is cut off with half a unit, `rest` says that something is cut off (R890, Table 8.2). -/
def roundsUp (rm : Rm) (neg odd : Bool) (half : Ordering) (rest : Bool) : Bool :=
  match rm with
  | .nearest => half == .gt || (half == .eq && odd)
  | .zero => false
  | .up => rest && !neg
  | .down => rest && neg

/-- `m * 2^(-k)`, plus less than a unit in the last place of `m` where `sticky`, rounded to an integer: the integer, and
whether it differs. -/
def roundNat (rm : Rm) (neg : Bool) (m k : Nat) (sticky : Bool) : Nat × Bool :=
  let q := m / 2 ^ k
  let r := 2 * (m % 2 ^ k)
  let half : Ordering :=
    if r < 2 ^ k then .lt
    else if r = 2 ^ k ∧ !sticky then .eq
    else .gt
  let rest := r != 0 || sticky
  (if roundsUp rm neg (q % 2 == 1) half rest then q + 1 else q, rest)

/-- The overflow result by rounding mode (R898). -/
def overflowResult (f : FFmt) (rm : Rm) (neg : Bool) : DWord :=
  match rm with
  | .nearest => fInf f neg
  | .zero => fHuge f neg
  | .up => if neg then fHuge f neg else fInf f neg
  | .down => if neg then fInf f neg else fHuge f neg

/-- The number `m * 2^e`, plus less than `2^e` where `sticky`, in a format: rounded once to the format's precision;
overflow and underflow are judged on the rounded number (R898, log entry 20). `m` is not zero; where `sticky` it
has more bits than the format. -/
def roundF (f : FFmt) (rm : Rm) (neg : Bool) (m : Nat) (e : Int) (sticky : Bool) : FpOut :=
  let p := f.mbits + 1
  let n := m.log2 + 1
  let up := n - p
  let down := p - n
  let r := roundNat rm neg m up sticky
  let carry := r.1 == 2 ^ p
  let mant := if carry then 2 ^ f.mbits else r.1 * 2 ^ down
  let top : Int := e + up - down + f.mbits + (if carry then 1 else 0)
  let field : Int := top + f.bias
  if field ≥ f.emax then .cond (overflowResult f rm neg) (condO ||| condI)
  else if field ≤ 0 then { bits := fZero f neg, e := condU ||| condI, anyNan := false, tiny := true }
  else .cond (packF f neg field.toNat (mant - 2 ^ f.mbits)) (if r.2 then condI else 0)

/-- An exact finite number in a format; an exact zero gets the sign given. -/
def roundFin (f : FFmt) (rm : Rm) (neg : Bool) (m : Nat) (e : Int) : FpOut :=
  if m = 0 then .exact (fZero f neg) else roundF f rm neg m e false

/-! ### NaN operands (R894) -/

/-- An operation on two operands: a signalling NaN is invalid, a quiet NaN goes through (R894). -/
def withNan2 (f : FFmt) (a b : DWord) (k : FVal → FVal → FpOut) : FpOut :=
  match unpackF f a, unpackF f b with
  | .nan s, .nan t => if s || t then .invalid f else .quiet f
  | .nan s, _ => if s then .invalid f else .quiet f
  | _, .nan t => if t then .invalid f else .quiet f
  | x, y => k x y

/-- An operation on one operand in format `f` with a result in format `g`. -/
def withNan1 (f g : FFmt) (a : DWord) (k : FVal → FpOut) : FpOut :=
  match unpackF f a with
  | .nan s => if s then .invalid g else .quiet g
  | x => k x

/-! ### Arithmetic (R900 to R908) -/

/-- The sign of an exact zero sum of operands with the given signs (R890). -/
def zeroSign (rm : Rm) (na nb : Bool) : Bool := if na == nb then na else rm == .down

/-- The sum of two numbers. -/
def addVal (f : FFmt) (rm : Rm) : FVal → FVal → FpOut
  | .inf na, .inf nb => if na == nb then .exact (fInf f na) else .invalid f
  | .inf na, _ => .exact (fInf f na)
  | _, .inf nb => .exact (fInf f nb)
  | .fin na ma ea, .fin nb mb eb =>
    let e := min ea eb
    let a : Int := (ma * 2 ^ (ea - e).toNat : Nat)
    let b : Int := (mb * 2 ^ (eb - e).toNat : Nat)
    let t := (if na then -a else a) + (if nb then -b else b)
    if t = 0 then .exact (fZero f (zeroSign rm na nb))
    else roundFin f rm (t < 0) t.natAbs e
  | _, _ => .quiet f

/-- An encoding with its sign bit inverted (R905). -/
def flipSign (f : FFmt) (x : DWord) : DWord := x ^^^ (1#64 <<< f.signBit)

/-- An encoding with its sign bit cleared (R904). -/
def clearSign (f : FFmt) (x : DWord) : DWord := x &&& ~~~(1#64 <<< f.signBit)

/-- The opposite number. -/
def FVal.negate : FVal → FVal
  | .nan s => .nan s
  | .inf n => .inf (!n)
  | .fin n m e => .fin (!n) m e

/-- ADD.fmt (R900). -/
def fAdd (f : FFmt) (rm : Rm) (a b : DWord) : FpOut := withNan2 f a b (addVal f rm)

/-- SUB.fmt (R901): the sum with the opposite of the second operand. -/
def fSub (f : FFmt) (rm : Rm) (a b : DWord) : FpOut := withNan2 f a b fun x y => addVal f rm x y.negate

/-- The product of two numbers (R902). -/
def mulVal (f : FFmt) (rm : Rm) : FVal → FVal → FpOut
  | .inf na, .inf nb => .exact (fInf f (na != nb))
  | .inf na, .fin nb mb _ => if mb = 0 then .invalid f else .exact (fInf f (na != nb))
  | .fin na ma _, .inf nb => if ma = 0 then .invalid f else .exact (fInf f (na != nb))
  | .fin na ma ea, .fin nb mb eb => roundFin f rm (na != nb) (ma * mb) (ea + eb)
  | _, _ => .quiet f

/-- MUL.fmt (R902). -/
def fMul (f : FFmt) (rm : Rm) (a b : DWord) : FpOut := withNan2 f a b (mulVal f rm)

/-- The quotient `ma/mb * 2^e`, rounded: 130 further bits of the dividend give the integer quotient more bits than a
format has. -/
def divFin (f : FFmt) (rm : Rm) (neg : Bool) (ma mb : Nat) (e : Int) : FpOut :=
  roundF f rm neg (ma * 2 ^ 130 / mb) (e - 130) (ma * 2 ^ 130 % mb != 0)

/-- The quotient of two numbers (R903, R898). -/
def divVal (f : FFmt) (rm : Rm) : FVal → FVal → FpOut
  | .inf _, .inf _ => .invalid f
  | .inf na, .fin nb _ _ => .exact (fInf f (na != nb))
  | .fin na _ _, .inf nb => .exact (fZero f (na != nb))
  | .fin na ma ea, .fin nb mb eb =>
    if mb = 0 then if ma = 0 then .invalid f else .cond (fInf f (na != nb)) condZ
    else if ma = 0 then .exact (fZero f (na != nb))
    else divFin f rm (na != nb) ma mb (ea - eb)
  | _, _ => .quiet f

/-- DIV.fmt (R903). -/
def fDiv (f : FFmt) (rm : Rm) (a b : DWord) : FpOut := withNan2 f a b (divVal f rm)

/-- The largest `r + k` with `k < 2^i` whose square is not above `n`. -/
def isqrtFrom (n : Nat) : Nat → Nat → Nat
  | r, 0 => r
  | r, i + 1 => isqrtFrom n (if (r + 2 ^ i) * (r + 2 ^ i) ≤ n then r + 2 ^ i else r) i

/-- The integer square root of a number below `2^248`. -/
def isqrt (n : Nat) : Nat := isqrtFrom n 0 124

/-- A finite number with an even exponent and 120 or 121 further bits, for a square root. -/
def sqrtArg (m : Nat) (e : Int) : Nat × Int :=
  if e % 2 = 0 then (m * 2 ^ 120, e - 120) else (m * 2 ^ 121, e - 121)

/-- SQRT.fmt (R906). -/
def fSqrt (f : FFmt) (rm : Rm) (a : DWord) : FpOut :=
  withNan1 f f a fun
    | .inf neg => if neg then .invalid f else .exact (fInf f false)
    | .fin neg m e =>
      if m = 0 then .exact (fZero f neg)
      else if neg then .invalid f
      else
        let x := sqrtArg m e
        let r := isqrt x.1
        roundF f rm false r (x.2 / 2) (r * r != x.1)
    | _ => .quiet f

/-- The operand with another sign; a denormalized number gives a denormalized result, which FS flushes (R895). -/
def FpOut.signed (f : FFmt) (a v : DWord) : FpOut :=
  if isDenorm f a then { bits := fZero f (fSign f v), e := condU ||| condI, anyNan := false, tiny := true } else .exact v

/-- ABS.fmt (R904): a signalling NaN is invalid, otherwise only the sign changes. -/
def fAbs (f : FFmt) (a : DWord) : FpOut := withNan1 f f a fun _ => .signed f a (clearSign f a)

/-- NEG.fmt (R905). -/
def fNeg (f : FFmt) (a : DWord) : FpOut := withNan1 f f a fun _ => .signed f a (flipSign f a)

/-! ### The approximations of the R5000 (R907, R908) -/

/-- `m * 2^e` compared with 1. -/
def cmpOne (m : Nat) (e : Int) : Ordering := compare (m * 2 ^ e.toNat) (2 ^ (-e).toNat)

/-- The exponent of a unit in the last place of the format for a number whose leading bit is worth `2^top`: never below that
of the format's smallest numbers. -/
def unitExp (f : FFmt) (top : Int) : Int := max (top - f.mbits) (1 - f.bias - f.mbits)

/-- The format's precision holds `m`. -/
def fitsF (f : FFmt) (m : Nat) : Bool := decide (m.log2 ≤ f.mbits) || m % 2 ^ (m.log2 - f.mbits) == 0

/-- An approximation within `k` units `2^u` in the last place of a number whose integer part, in half units, is `base`: any
number of the format's precision that near, by the free value, where it is too large or too small with the outcome of
R895 and R898; `cmp c` compares `c` half units with the exact number. Inexact is met where the two differ. Where the free
value names no such number, the outcome is `out`, the correctly rounded one (log entry 27). -/
def approximate (f : FFmt) (rm : Rm) (neg : Bool) (k base : Nat) (u : Int) (out : FpOut) (free : DWord)
    (cmp : Nat → Ordering) : FpOut :=
  let c := base - 2 * k + free.toNat % (4 * k + 1)
  if c ≠ 0 ∧ fitsF f c ∧ cmp (c - 2 * k) ≠ .gt ∧ cmp (c + 2 * k) ≠ .lt then
    let o := roundF f rm neg c (u - 1) false
    { o with e := o.e ||| if cmp c = .eq then 0 else condI }
  else out

/-- RECIP.fmt (R907): any number within one unit in the last place of the reciprocal. -/
def fRecip (f : FFmt) (rm : Rm) (free a : DWord) : FpOut :=
  withNan1 f f a fun
    | .inf neg => .exact (fZero f neg)
    | .fin neg m e =>
      if m = 0 then .cond (fInf f neg) condZ
      else
        let u := unitExp f ((2 ^ 130 / m).log2 - 130 - e)
        approximate f rm neg 1 (2 ^ (1 - u - e).toNat / m) u (divFin f rm neg 1 m (-e)) free
          fun c => cmpOne (c * m) (u - 1 + e)
    | _ => .quiet f

/-- RSQRT.fmt (R908): any number within two units in the last place of the reciprocal of the square root. -/
def fRsqrt (f : FFmt) (rm : Rm) (free a : DWord) : FpOut :=
  withNan1 f f a fun
    | .inf neg => if neg then .invalid f else .exact (fZero f false)
    | .fin neg m e =>
      if m = 0 then .cond (fInf f neg) condZ
      else if neg then .invalid f
      else
        let x := sqrtArg 1 (-e)
        let n := x.1 * 2 ^ 120 / m
        let r := isqrt n
        let inexact := r * r != n || x.1 * 2 ^ 120 % m != 0
        let u := unitExp f (r.log2 + x.2 / 2 - 60)
        approximate f rm false 2 (isqrt (2 ^ (2 - 2 * u - e).toNat / m)) u (roundF f rm false r (x.2 / 2 - 60) inexact) free
          fun c => cmpOne (c * c * m) (2 * (u - 1) + e)
    | _ => .quiet f

/-! ### The multiply-accumulate forms (R910 to R913) -/

/-- The sign of a result inverted after rounding (R912); a NaN stays as it is. -/
def FpOut.negated (f : FFmt) (o : FpOut) : FpOut :=
  if isNan f o.bits then o else { o with bits := flipSign f o.bits }

/-! ### Compare (R920) -/

/-- `a < b` on numbers. -/
def ltVal : FVal → FVal → Bool
  | .inf na, .inf nb => na && !nb
  | .inf na, .fin _ _ _ => na
  | .fin _ _ _, .inf nb => !nb
  | .fin na ma ea, .fin nb mb eb =>
    let e := min ea eb
    let a : Int := (ma * 2 ^ (ea - e).toNat : Nat)
    let b : Int := (mb * 2 ^ (eb - e).toNat : Nat)
    decide ((if na then -a else a) < (if nb then -b else b))
  | _, _ => false

/-- Unordered, less, equal: the relation of two operands (R920). -/
def fUnordered (f : FFmt) (a b : DWord) : Bool := isNan f a || isNan f b

/-- less (R920) -/
def fLess (f : FFmt) (a b : DWord) : Bool := ltVal (unpackF f a) (unpackF f b)

/-- equal (R920): neither less; +0 equals -0 -/
def fEqual (f : FFmt) (a b : DWord) : Bool :=
  !fUnordered f a b && !fLess f a b && !fLess f b a

/-- The condition of C.cond.fmt (R920). -/
def fCompare (f : FFmt) (cond : BitVec 4) (a b : DWord) : Bool :=
  (bit cond 2 && fLess f a b) || (bit cond 1 && fEqual f a b) || (bit cond 0 && fUnordered f a b)

/-- The conditions of C.cond.fmt: Invalid for a signalling NaN, and for any NaN where cond bit 3 is set (R920). -/
def fCompareCond (f : FFmt) (cond : BitVec 4) (a b : DWord) : BitVec 5 :=
  if isSNan f a || isSNan f b || (bit cond 3 && fUnordered f a b) then condV else 0

/-! ### Conversions (R930 to R941) -/

/-- Between the floating-point formats (R930, R931). -/
def fConvert (f g : FFmt) (rm : Rm) (a : DWord) : FpOut :=
  withNan1 f g a fun
    | .inf neg => .exact (fInf g neg)
    | .fin neg m e => roundFin g rm neg m e
    | _ => .quiet g

/-- From an integer (R930, R931). -/
def fFromInt (g : FFmt) (rm : Rm) (n : Int) : FpOut := roundFin g rm (n < 0) n.natAbs 0

/-- The integer `m * 2^e` rounds to, and whether it differs. -/
def roundInt (rm : Rm) (neg : Bool) (m : Nat) (e : Int) : Nat × Bool :=
  if 0 ≤ e then (m * 2 ^ e.toNat, false) else roundNat rm neg m (-e).toNat false

/-- To an integer of `n` bits (R932, R933): out of range, infinite or NaN is Invalid with the default result
`2^(n-1) - 1`. -/
def fToInt (f : FFmt) (n : Nat) (rm : Rm) (a : DWord) : FpOut :=
  let bad := FpOut.cond (BitVec.ofNat 64 (2 ^ (n - 1) - 1)) condV
  match unpackF f a with
  | .fin neg m e =>
    let r := roundInt rm neg m e
    if r.1 ≥ 2 ^ (n - 1) ∧ ¬(neg ∧ r.1 = 2 ^ (n - 1)) then bad
    else .cond (BitVec.ofInt 64 (if neg then -(r.1 : Int) else r.1)) (if r.2 then condI else 0)
  | _ => bad

/-- Bits of significance: from the highest to the lowest bit set of a number below `2^2100`. -/
def sigBits (n : Nat) : Nat := if n = 0 then 0 else n.log2 + 1 - (n &&& (2 ^ 2200 - n)).log2

/-- The integer part of an operand has more than `k` bits of significance (R892). -/
def wideInt (f : FFmt) (k : Nat) (a : DWord) : Bool :=
  match unpackF f a with
  | .fin _ m e => decide (k < sigBits (roundInt .zero false m e).1)
  | _ => false

end Sys2Proof.Machine
end

