-- ==== Sys2Proof/Machine/Fpr.lean ====
section
/-! DEFINITION. The floating-point registers: the register models FR selects, ValueFPR and StoreFPR, the formats
registers hold, and the reads a hazard spoils (spec/45_fpu_state_moves.md R821 to R824, R831). -/

namespace Sys2Proof.Machine

/-! ### The register models (R821) -/

/-- SizeFGR() = 64 (R821): the R4600, R4700 and R5000 with FR = 1. -/
def State.wideFgr (s : State) : Bool := s.par.cpu.isOrionTlb && s.fr

/-- Every FGR is a register of its own: SizeFGR() = 64, and the R4650 with FR = 1 (R821, R824). -/
def State.singleFgr (s : State) : Bool := s.wideFgr || (s.par.cpu.is4650 && s.fr)

/-- A number names an FPR (R823, R896): any where every FGR stands alone, the even ones where pairs make one FPR. -/
def State.validFpr (s : State) (r : RegNum) : Bool := s.singleFgr || !bit r 0

/-- The FPR an FGR belongs to. -/
def State.fprOf (s : State) (r : RegNum) : RegNum := if s.singleFgr then r else r &&& 30#5

/-- The odd register of a pair: the high-order word (R822, C42). -/
def partner (r : RegNum) : RegNum := r ||| 1#5

/-- FGR[r]. -/
def State.fgr (s : State) (r : RegNum) : DWord := s.fpu.fgr[r.toNat]'r.isLt

/-- FGR[r] <- v. -/
def State.setFgr (s : State) (r : RegNum) (v : DWord) : State :=
  { s with fpu := { s.fpu with fgr := s.fpu.fgr.set r.toNat v r.isLt } }

/-- FGR[r][31:0] <- v: where SizeFGR() = 32 the upper half is out of reach and keeps its bits (R821). -/
def State.setFgrLo (s : State) (r : RegNum) (v : DWord) : State :=
  s.setFgr r ((s.fgr r).extractLsb' 32 32 ++ lo32 v)

/-- The format an FPR holds (R824). -/
def State.fprTag (s : State) (r : RegNum) : FprTag := s.fpu.tag[r.toNat]'r.isLt

/-- The FPR holds contents of a format. -/
def State.setTag (s : State) (r : RegNum) (t : FprTag) : State :=
  { s with fpu := { s.fpu with tag := s.fpu.tag.set r.toNat t r.isLt } }

/-- The tag of a format. -/
def Fmt.tag : Fmt → FprTag
  | .s => .s
  | .d => .d
  | .w => .w
  | .l => .l

/-- The format takes 64 bits. -/
def Fmt.wide : Fmt → Bool
  | .s | .w => false
  | .d | .l => true

/-! ### Words and doublewords of registers (R840 to R857) -/

/-- The doubleword a register or a pair holds: FGR[r], or FGR[r+1] || FGR[r]. -/
def State.fgrDouble (s : State) (r : RegNum) : DWord :=
  if s.wideFgr then s.fgr r else lo32 (s.fgr (partner r)) ++ lo32 (s.fgr r)

/-- FGR[r] and the FPR it belongs to hold unformatted contents (R824): FGR[r] keeps them where it becomes an FPR of its
own by a change of FR. -/
def State.setRaw (s : State) (r : RegNum) : State := (s.setTag (s.fprOf r) .raw).setTag r .raw

/-- A word into FGR[r]: bits 63:32 become undefined where SizeFGR() = 64 (R841). -/
def State.setFgrWord (s : State) (r : RegNum) (v : DWord) : State :=
  let s := if s.wideFgr then s.useFree.setFgr r (s.free.extractLsb' 32 32 ++ lo32 v) else s.setFgrLo r v
  s.setRaw r

/-- A doubleword into FGR[r] or the pair (R845): unformatted contents of every FGR and FPR it reaches (R824). -/
def State.setFgrDouble (s : State) (r : RegNum) (v : DWord) : State :=
  let s := if s.wideFgr then s.setFgr r v
    else ((s.setFgrLo (partner r) (v >>> 32)).setFgrLo r v).setRaw (partner r)
  s.setRaw r

/-- The instruction before loaded or moved to one of these registers, below the level that interlocks (R831). -/
def State.fgrHazard (s : State) (rs : List RegNum) : Bool := rs.any fun r => s.haz.fgr.contains r

/-- The registers an instruction of a level at most `below` may not be followed by a use of (R831). -/
def State.delayFgr (s : State) (below : Isa) (rs : List RegNum) : State :=
  if s.par.cpu.isa.rank ≤ below.rank then { s with hazNext := { s.hazNext with fgr := rs } } else s

/-- The registers a doubleword is in. -/
def State.doubleRegs (s : State) (r : RegNum) : List RegNum := if s.wideFgr then [r] else [r, partner r]

/-- FGR[r][31:0], as the word moves and stores read it; any value without an FPA (R830). -/
def readFgrWord (r : RegNum) : Op DWord := fun s =>
  if !s.par.cpu.hasFpa || s.fgrHazard [r] then fresh s else .ok (zext (lo32 (s.fgr r)), s)

/-- The doubleword moves and stores read: any value from an odd register of a pair (R844, R853). -/
def readFgrDouble (r : RegNum) : Op DWord := fun s =>
  if !s.par.cpu.hasFpa || (!s.wideFgr && bit r 0) || s.fgrHazard (s.doubleRegs r) then fresh s
  else .ok (s.fgrDouble r, s)

/-- FGR[r] <- a word that the next instruction may not use up to a level (R841, R850); without an FPA it goes
nowhere (R830). -/
def writeFgrWord (below : Isa) (r : RegNum) (v : DWord) : Op Unit := change fun s =>
  if s.par.cpu.hasFpa then (s.setFgrWord r v).delayFgr below [r] else s

/-- The doubleword form: an odd register of a pair gets any value, the whole pair does (R845, R851, R896). -/
def writeFgrDouble (below : Isa) (r : RegNum) (v : DWord) : Op Unit := fun s =>
  if !s.par.cpu.hasFpa then .ok ((), s)
  else if !s.wideFgr && bit r 0 then
    .ok ((), (s.useFree.setFgrDouble (r &&& 30#5) s.free).delayFgr below [r &&& 30#5, r])
  else .ok ((), (s.setFgrDouble r v).delayFgr below (s.doubleRegs r))

/-! ### Formatted operands (R823, R824) -/

/-- ValueFPR(r, f) of a valid register. -/
def State.fprVal (s : State) (r : RegNum) (f : Fmt) : DWord :=
  if f.wide then s.fgrDouble r else zext (lo32 (s.fgr r))

/-- The FGRs a formatted operand is in. -/
def State.fprRegs (s : State) (r : RegNum) (f : Fmt) : List RegNum := if f.wide then s.doubleRegs r else [r]

/-- The contents may be read in a format: unformatted, or written in that format (R824). -/
def State.tagFits (s : State) (r : RegNum) (f : Fmt) : Bool := s.fprTag r == .raw || s.fprTag r == f.tag

/-- A formatted operand: free where the instruction before moved to it too late (R831); contents from a load are
from now on of this format (R871: `previously unused data`). -/
def readFpr (r : RegNum) (f : Fmt) : Op DWord := fun s =>
  if s.fgrHazard (s.fprRegs r f) then fresh (s.setTag r f.tag) else .ok (s.fprVal r f, s.setTag r f.tag)

/-- The FPR of a valid register holds a format, both of its FGRs where pairs make one FPR (R824). -/
def State.setFormat (s : State) (r : RegNum) (f : Fmt) : State :=
  let s := s.setTag r f.tag
  if s.singleFgr then s else s.setTag (partner r) f.tag

/-- StoreFPR(r, f, v) of a valid register (R824): after a word the other half is undefined. -/
def State.setFpr (s : State) (r : RegNum) (f : Fmt) (v : DWord) : State :=
  let s :=
    if f.wide then s.setFgrDouble r v
    else if s.wideFgr then s.setFgrWord r v
    else if s.singleFgr then s.setFgrLo r v
    else (s.useFree.setFgrLo (partner r) s.free).setFgrLo r v
  s.setFormat r f

/-- StoreFPR. -/
def writeFpr (r : RegNum) (f : Fmt) (v : DWord) : Op Unit := change fun s => s.setFpr r f v

/-- The FPR a number belongs to becomes undefined, an odd number's pair included (R824, R896, D22). -/
def State.freeFpr (s : State) (r : RegNum) : State :=
  let q := s.fprOf r
  if s.singleFgr && !s.wideFgr then (s.useFree.setFgrLo q s.free).setTag q .raw
  else s.useFree.setFgrDouble q s.free

end Sys2Proof.Machine
end

