-- ==== Sys2Proof/Machine/FpuOps.lean ====
section
/-! DEFINITION. How one computational floating-point instruction runs: the register and format checks, the
Unimplemented Operation, the conditions in FCR31 and the trap (spec/46_fpu_arith.md R891 to R897). -/

namespace Sys2Proof.Machine

/-! ### Signalling (R891 step 6) -/

/-- The R3081's FPA line is unmasked: Config.FPInt names a line, its SR.IM bit and SR.IEc are set (R150, R891). -/
def State.fpaUnmasked (s : State) : Bool :=
  let n := (s.cp0.config.extractLsb' 26 3).toNat
  n < 6 && bit s.cp0.sr 0 && bit s.cp0.sr (10 + n)

/-- The FP exception, after FCR31 has been written. R4xxx, R5000: the Floating Point exception. R3081: the
interrupt, taken at this instruction where it is unmasked; where it is masked `masked` follows. -/
def signalFp (masked : Op Unit) : Op Unit := fun s =>
  if !s.par.cpu.is30xx then .error (.exc .floatingPoint s)
  else if s.fpaUnmasked then .error (.exc .interrupt s)
  else masked s

/-- A masked trap of a computational instruction on the R3081: Cause is undefined, execution goes on (R891). -/
def fpMasked : Op Unit := fun s =>
  .ok ((), s.useFree.setFcr31 (setField s.fpu.fcr31 12 (s.free.extractLsb' 0 5)))

/-- Unimplemented Operation (R891 step 3): the other Cause bits are unspecified. -/
def fpUnimplemented : Op Unit := do
  change fun s => s.useFree.setFcr31 (setCauseBits s.fpu.fcr31 (s.free.extractLsb' 0 5) true)
  signalFp fpMasked

/-! ### Finishing (R891 steps 3 to 5) -/

/-- `FPUnimplemented` (R892) on operands some of which are denormalized or NaN; `cmp` is a compare, and `extra` says
what the instruction adds. On the R4xxx and R5000 the parameter adds its cases. -/
def fpDeclines (p : Params) (fcr : Word) (denorm nan cmp extra : Bool) (o : FpOut) : Bool :=
  extra ||
  if p.cpu.is30xx then
    denorm || o.tiny || o.e &&& condZ != 0 || (o.e &&& condV != 0 && !bit fcr 11) ||
      (nan && !(cmp && bit fcr 11))
  else (o.tiny && !fsOf fcr) || (denorm && p.fpDeclined.denormOperand) || (nan && p.fpDeclined.nanOperand)

/-- Steps 3 to 5: decline, trap, or write the flags and the result. `fcr` is FCR31 as the instruction reads it. -/
def fpFinish (fcr : Word) (declines : Bool) (o : FpOut) (nan : DWord → DWord) (result : DWord → Op Unit) :
    Op Unit := fun s =>
  if declines then fpUnimplemented s
  else if o.e &&& enablesOf fcr != 0 then
    signalFp fpMasked (s.setFcr31 (setCauseBits s.fpu.fcr31 o.e false))
  else
    let s' := s.setFcr31 (addFlags (setCauseBits s.fpu.fcr31 o.e false) o.e)
    if o.anyNan then result (nan s.free) s'.useFree else result o.bits s'

/-- An instruction whose result is undefined, without a trap (R824, R896): any result, and nothing else changes
(D22). -/
def fpUndefined (result : DWord → Op Unit) : Op Unit := fun s => result s.free s.useFree

/-- An FPR that becomes undefined. -/
def freeFprOp (r : RegNum) : Op Unit := change fun s => s.freeFpr r

/-- The member does not compute in a format: D and L on the R4650 and R4640 (R897). -/
def fmtAbsent (c : Cpu) (f : Fmt) : Bool := c.is4650 && f.wide

/-- The checks of an instruction with operands `srcs` in format `f`, a result in format `g` and the FPRs `dst`
named besides: nothing happens without an FPA (R830); a format the member lacks, and an odd register on the
R3081, are Unimplemented (R896, R897); a number that names no FPR makes the result undefined (R896), contents of
another format the operands as well (R824); otherwise the instruction runs. -/
def fpChecked (f g : Fmt) (srcs dst : List RegNum) (undef run : Op Unit) : Op Unit := fun s =>
  let odd := (srcs ++ dst).any fun r => !s.validFpr r
  if !s.par.cpu.hasFpa then .ok ((), s)
  else if fmtAbsent s.par.cpu f || fmtAbsent s.par.cpu g || (s.par.cpu.is30xx && odd) then fpUnimplemented s
  else if odd then undef s
  else if srcs.any fun r => !s.tagFits r f then undef (srcs.foldl State.freeFpr s)
  else run s

/-- Coprocessor 1 usable, and the member has the instruction's level (R830, R820). -/
def fpGate (lvl : Isa) : Op Unit := do
  requireCop 1#2
  requireIsa lvl

/-- The operand is denormalized (integers never are). -/
def denormIn (f : Fmt) (x : DWord) : Bool :=
  match f with
  | .s => isDenorm .s x
  | .d => isDenorm .d x
  | .w | .l => false

/-- The operand is a NaN. -/
def nanIn (f : Fmt) (x : DWord) : Bool :=
  match f with
  | .s => isNan .s x
  | .d => isNan .d x
  | .w | .l => false

/-- The quiet NaN of a result format. -/
def nanOut (g : Fmt) (free : DWord) : DWord :=
  match g with
  | .s | .w => someQuietNan .s free
  | .d | .l => someQuietNan .d free

/-- An instruction on one operand: `k` gives the result from FCR31, a free value and the operand; `extra` says where the
member declines besides (R892). -/
def fpUnary (lvl : Isa) (f g : Fmt) (fs fd : RegNum) (extra : Params → DWord → FpOut → Bool)
    (k : Word → DWord → FpOut) : Op Unit := do
  fpGate lvl
  fpChecked f g [fs] [fd] (fpUndefined fun _ => freeFprOp fd) do
    let fcr ← readFcr31
    let a ← readFpr fs f
    let o := k fcr a
    let c ← look State.par
    fpFinish fcr (fpDeclines c fcr (denormIn f a) (nanIn f a) false (extra c a o) o) o (nanOut g) (writeFpr fd g)

/-- The member declines nothing besides. -/
def noExtra : Params → DWord → FpOut → Bool := fun _ _ _ => false

/-- An approximation: `k` also takes a free value, within whose bounds the result lies (R907, R908). -/
def fpApprox (f : FFmt) (fs fd : RegNum) (k : Word → DWord → DWord → FpOut) : Op Unit := do
  fpGate .mips4
  fpChecked f.fmt f.fmt [fs] [fd] (fpUndefined fun _ => freeFprOp fd) do
    let fcr ← readFcr31
    let x ← fresh
    let a ← readFpr fs f.fmt
    let o := k fcr x a
    let c ← look State.par
    fpFinish fcr (fpDeclines c fcr (isDenorm f a) (isNan f a) false false o) o (someQuietNan f) (writeFpr fd f.fmt)

/-- An instruction on two operands. -/
def fpBinary (lvl : Isa) (f : FFmt) (ft fs fd : RegNum) (k : Word → DWord → DWord → FpOut) : Op Unit := do
  fpGate lvl
  fpChecked f.fmt f.fmt [fs, ft] [fd] (fpUndefined fun _ => freeFprOp fd) do
    let fcr ← readFcr31
    let a ← readFpr fs f.fmt
    let b ← readFpr ft f.fmt
    let o := k fcr a b
    let c ← look State.par
    fpFinish fcr (fpDeclines c fcr (isDenorm f a || isDenorm f b) (isNan f a || isNan f b) false false o) o
      (someQuietNan f) (writeFpr fd f.fmt)

/-- The conditions of both steps of a multiply-accumulate (R910). -/
def FpOut.after (o p : FpOut) : FpOut := { o with e := o.e ||| p.e }

/-- A multiply-accumulate (R910 to R913): the product rounded, then `k` of it and the third operand; a product that
traps or is declined ends the instruction. -/
def fpTernary (f : FFmt) (fr ft fs fd : RegNum) (k : Rm → DWord → DWord → FpOut) : Op Unit := do
  requireIsa .mips4
  requireCop 1#2
  fpChecked f.fmt f.fmt [fr, fs, ft] [fd] (fpUndefined fun _ => freeFprOp fd) do
    let fcr ← readFcr31
    let r ← readFpr fr f.fmt
    let a ← readFpr fs f.fmt
    let b ← readFpr ft f.fmt
    let p := fMul f (rmOf fcr) a b
    let o := (k (rmOf fcr) p.bits r).after p
    let c ← look State.par
    let d := fpDeclines c fcr (isDenorm f a || isDenorm f b) (isNan f a || isNan f b) false false p
    let d' := fpDeclines c fcr (isDenorm f r) (isNan f r || isNan f p.bits) false false o
    if d || p.e &&& enablesOf fcr != 0 then fpFinish fcr d p (someQuietNan f) (writeFpr fd f.fmt)
    else fpFinish fcr d' o (someQuietNan f) (writeFpr fd f.fmt)

/-- C.cond.fmt (R920): the conditions are those of rule R894, the result goes to a condition code. -/
def fpCompare (f : FFmt) (cond : BitVec 4) (ft fs : RegNum) (cc : BitVec 3) : Op Unit := do
  fpGate .mips1
  let write : Bool → Op Unit := fun b => change fun s => (s.setFcc cc b).delayCond 1
  fpChecked f.fmt f.fmt [fs, ft] [] (fpUndefined fun v => write (bit v 0)) do
    let fcr ← readFcr31
    let a ← readFpr fs f.fmt
    let b ← readFpr ft f.fmt
    let o := FpOut.cond 0 (fCompareCond f cond a b)
    let c ← look State.par
    fpFinish fcr (fpDeclines c fcr (isDenorm f a || isDenorm f b) (isNan f a || isNan f b) true false o) o id
      (fun _ => write (fCompare f cond a b))

/-- Steps 1 to 3 of R891 for a formatted move, and its effect (R870 to R874): the contents of `src`, one of `fs` and
`fd`, in a format; Cause and UnImp are cleared. -/
def fpMove (f : FFmt) (src fs fd : RegNum) : Op Unit := do
  let clear : Op Unit := change fun s => s.setFcr31 (setCauseBits s.fpu.fcr31 0 false)
  fpChecked f.fmt f.fmt [src] [fs, fd] (fpUndefined fun _ => freeFprOp fd) do
    clear
    let v ← readFpr src f.fmt
    writeFpr fd f.fmt v

end Sys2Proof.Machine
end

