-- ==== Sys2Proof/Machine/Cycle.lean ====
section
/-! DEFINITION. What a step does around the meaning of an instruction: the requests of the world outside, postponed
watches, interrupts, the fetch, and the words that are no instruction of the member (spec/60_exceptions.md R1002,
R1034 to R1036, R1060, spec/30_encoding.md R368, R369). -/

namespace Sys2Proof.Machine

/-! ### Words that decode to no instruction (R369) -/

/-- A word that is no instruction of the member: Reserved Instruction, after Coprocessor Unusable where it lies in a
coprocessor's encodings; an FP operation with a format that is not valid is Unimplemented (R893, D32); an
operation of an absent coprocessor does nothing (R776). Nor does an unlisted sub-opcode of coprocessor 2 or 3 with its CU bit
set: R380 calls it reserved by R369 point 5, which names an outcome for coprocessors 0 and 1 only, and the model takes what
R386 and R776 give the encodings of an absent coprocessor (DESIGN CHOICE, log entry 30). -/
def execReject (r : Reject) (s : State) : Result :=
  match r with
  | .reserved => runOp (raise .reservedInstruction) s
  | .cop0 => runOp (do requireCop 0#2; raise .reservedInstruction) s
  | .cop1 => runOp (do requireCop 1#2; raise .reservedInstruction) s
  | .fpFormat lvl => runSeq (do
      fpGate lvl
      let fpa ← look fun s => s.par.cpu.hasFpa
      if fpa then fpUnimplemented) s
  | .copAbsent z => runSeq (requireCop z) s

/-! ### Requests from outside (R1034 to R1036, R1100) -/

/-- The request that takes this step, if there is one: a cold reset; on the R4xxx and R5000 a soft reset or an NMI
(R1035, R1036). -/
def State.request (s : State) : Option State :=
  if s.inp.coldReset then some (coldReset s)
  else if s.par.cpu.is30xx then none
  else if s.inp.softReset then some (softReset { s with inp := { s.inp with softReset := false } })
  else if s.inp.nmi then some (softReset { s with inp := { s.inp with nmi := false } })
  else none

/-- A cache parity error that is no exception: the R3071 and R3081 note it in SR.PE (R269, R1000), but with SR.PZ set,
under which parity is not checked (R105); the R4xxx and R5000 with SR.DE set ignore it. With SR.DE clear it waits for
the access that meets it (R1002). -/
def State.noteCacheError (s : State) : State :=
  if s.inp.cacheError.isNone then s
  else if s.par.cpu.is3071 && !bit s.cp0.sr 18 then s.dropCacheError.setSr (setBit s.cp0.sr 20 true)
  else if s.par.cpu.is30xx || bit s.cp0.sr 16 then s.dropCacheError
  else s

/-- The machine is stuck after a TLB shutdown (R318). -/
def State.isShutDown (s : State) : Bool := s.par.mmu == .tlb64 && s.ts

/-- The machine stands still after Config.Halt until an interrupt input is asserted (R150): of the pin that FPInt gives to
the FPA the FPA's line counts, not the pin, which is ignored. -/
def State.standsStill (s : State) : Bool := s.halted && s.intLines == 0#6

/-- A watch postponed by EXL or ERL is due (R1032). -/
def State.watchDue (s : State) : Bool := (s.watchI || s.watchD) && !s.exl && !s.erl

/-- What time does in a step that runs no instruction. -/
def State.tickTime (s : State) : State := s.tickCounts s.par.countTicksPerStep

/-- The postponed watch is taken (R1032). -/
def State.takeWatch (s : State) : State :=
  takeException (.watch s.watchI s.watchD) { s with watchI := false, watchD := false }

/-- The state in which the instruction at pc runs, or an interrupt is taken: no longer at a standstill (R150). -/
def State.ready (s : State) : State := { s.noteCacheError with halted := false }

/-- The step of a state whose instruction does not run: a request, a TLB shutdown, a halt, a watch, an interrupt; none
where the instruction at pc runs (R1002). -/
def State.beforeFetch (s : State) : Option Result :=
  match s.request with
  | some s' => some (.next s'.tickTime)
  | none =>
    let r := s.ready
    let s := s.noteCacheError
    if s.isShutDown then some (.fault .tlbShutdown)
    else if s.standsStill then some (.next s.tick)
    else if s.watchDue then some (.next s.takeWatch.tickTime)
    else if s.interruptReady then some (.next (takeException .interrupt r).tickTime)
    else none

/-- The state after an instruction, one step of time later. -/
def afterTick (r : Result) : Result :=
  match r with
  | .next s => .next s.tick
  | .fault f => .fault f
  | .refused x => .refused x

/-! ### The fetched word (R360) -/

noncomputable section

/-- The word of a fetch, decoded for the member, or what the fetch ends in. -/
def State.fetch (s : State) : Except Stop (Decoded × State) :=
  match fetchWord s with
  | .ok (w, s') => .ok (decode s.par.cpu.isa w, s')
  | .error e => .error e

end

/-- What a fetch that ends in an exception answers. -/
def stopResult (e : Stop) : Result :=
  match e with
  | .exc e s => .next (takeException e s)
  | .refused r => .refused r

end Sys2Proof.Machine
end

