-- ==== Sys2Proof/Machine/Branch.lean ====
section
/-! DEFINITION. Jumps and branches (spec/42_branch_jump.md R620 to R650, spec/45_fpu_state_moves.md R860 to
R863). A branch in a delay slot has no meaning (R625). -/

namespace Sys2Proof.Machine

/-! ### Targets and links -/

/-- The target of a PC-relative branch: the delay slot's address plus the offset in words, modulo 2^VALEN (R621). -/
def State.branchTarget (s : State) (offset : BitVec 16) : DWord := s.pcNorm (s.nextPc + (sextImm offset <<< 2))

/-- The target of J and JAL: in the 256 MB region of the delay slot (R630). -/
def State.jumpTarget (s : State) (idx : BitVec 26) : DWord := s.nextPc.extractLsb' 28 36 ++ idx ++ 0#2

/-- The link value: the address after the delay slot (R620). -/
def State.linkValue (s : State) : DWord := s.pcNorm (s.nextPc + 4)

/-- The link register is written whether or not the branch is taken (R623). -/
def writeLink (rd : RegNum) : Op Unit := do
  let v ← look State.linkValue
  writeGpr rd v

/-- The slot that follows belongs to a jump or branch whose link write destroys its operand. -/
def State.noteLinkSlot (s : State) : State := { s with hazNext := { s.hazNext with linkSlot := true } }

/-- A jump or branch that links in register `rd` and reads register `rs` has no meaning where the two are one register and
its delay slot has taken an exception: it is not restartable (R623, log entry 52). -/
def restartable (rs rd : RegNum) : Op Unit := fun s =>
  if rs = rd then
    if s.pc ∈ s.haz.linkBroken then .error (.refused .linkNotRestartable) else .ok ((), s.noteLinkSlot)
  else .ok ((), s)

/-! ### The ways a branch ends -/

/-- A branch with a delay slot (R620). -/
def branchIf (taken : Bool) (offset : BitVec 16) : Op Unit :=
  change fun s => s.advanceBranch taken (s.branchTarget offset)

/-- A branch-likely: not taken, its delay slot is nullified (R622). -/
def branchLikelyIf (taken : Bool) (offset : BitVec 16) : Op Unit := change fun s =>
  if taken then s.advanceBranch true (s.branchTarget offset) else s.advanceNullify

/-- A jump to an address with a delay slot. -/
def jumpTo (target : DWord) : Op Unit := change fun s => s.advanceBranch true target

/-- A jump to the address in a register: the members with 32-bit addresses use its low word (R46, R632). -/
def jumpReg (a : DWord) : Op Unit := change fun s => s.advanceBranch true (s.normVa a)

/-- A branch on a register (R636 to R641). -/
def branchReg (rs : RegNum) (test : DWord → Bool) (offset : BitVec 16) : Op Unit := do
  refuseInDelaySlot
  let a ← readGpr rs
  branchIf (test a) offset

/-- The same with a link in register 31 (R640, R641). -/
def branchRegLink (rs : RegNum) (test : DWord → Bool) (offset : BitVec 16) : Op Unit := do
  refuseInDelaySlot
  restartable rs 31#5
  let a ← readGpr rs
  writeLink 31#5
  branchIf (test a) offset

/-- A branch-likely on a register: MIPS II (R622). -/
def likelyReg (rs : RegNum) (test : DWord → Bool) (offset : BitVec 16) : Op Unit := do
  requireIsa .mips2
  refuseInDelaySlot
  let a ← readGpr rs
  branchLikelyIf (test a) offset

/-- The same with a link in register 31 (R648, R649). -/
def likelyRegLink (rs : RegNum) (test : DWord → Bool) (offset : BitVec 16) : Op Unit := do
  requireIsa .mips2
  refuseInDelaySlot
  restartable rs 31#5
  let a ← readGpr rs
  writeLink 31#5
  branchLikelyIf (test a) offset

/-- A branch on two registers (R634, R635). -/
def branchRegs (rs rt : RegNum) (test : DWord → DWord → Bool) (offset : BitVec 16) : Op Unit := do
  refuseInDelaySlot
  let a ← readGpr rs
  let b ← readGpr rt
  branchIf (test a b) offset

/-- A branch-likely on two registers (R642, R643). -/
def likelyRegs (rs rt : RegNum) (test : DWord → DWord → Bool) (offset : BitVec 16) : Op Unit := do
  requireIsa .mips2
  refuseInDelaySlot
  let a ← readGpr rs
  let b ← readGpr rt
  branchLikelyIf (test a b) offset

/-- A branch on the condition of coprocessor 0, 2 or 3 (R650). -/
def branchCop (z : BitVec 2) (tf : Bool) (offset : BitVec 16) : Op Unit := do
  requireCop z
  refuseInDelaySlot
  let c ← copCond z
  branchIf (c == tf) offset

/-- Its likely form: MIPS II. -/
def likelyCop (z : BitVec 2) (tf : Bool) (offset : BitVec 16) : Op Unit := do
  requireCop z
  requireIsa .mips2
  refuseInDelaySlot
  let c ← copCond z
  branchLikelyIf (c == tf) offset

/-- A branch on a floating-point condition code (R860, R862). -/
def branchFp (cc : BitVec 3) (tf : Bool) (offset : BitVec 16) : Op Unit := do
  requireCop 1#2
  refuseInDelaySlot
  let c ← fpCond cc
  branchIf (c == tf) offset

/-- Its likely form: MIPS II (R861, R863). -/
def likelyFp (cc : BitVec 3) (tf : Bool) (offset : BitVec 16) : Op Unit := do
  requireCop 1#2
  requireIsa .mips2
  refuseInDelaySlot
  let c ← fpCond cc
  branchLikelyIf (c == tf) offset

/-! ### The tests against zero: signed tests of the whole register (R626) -/

/-- `GPR[rs] < 0` -/
def isNegative (a : DWord) : Bool := a.slt 0
/-- `GPR[rs] <= 0` -/
def isNotPositive (a : DWord) : Bool := a.slt 0 || a == 0

/-! ### Jumps -/

/-- J (R630). -/
def execJ (idx : BitVec 26) (s : State) : Result :=
  runOp (do
    refuseInDelaySlot
    let t ← look fun s => s.jumpTarget idx
    jumpTo t) s

/-- JAL (R631). -/
def execJal (idx : BitVec 26) (s : State) : Result :=
  runOp (do
    refuseInDelaySlot
    let t ← look fun s => s.jumpTarget idx
    writeLink 31#5
    jumpTo t) s

/-- JR (R632): a misaligned target faults at its fetch (R624). -/
def execJr (rs : RegNum) (s : State) : Result :=
  runOp (do
    refuseInDelaySlot
    let t ← readGpr rs
    jumpReg t) s

/-- JALR (R633): the register is read before the link is written (R623; with rs = rd by the pseudocode, DESIGN CHOICE, log
entry 52). -/
def execJalr (rs rd : RegNum) (s : State) : Result :=
  runOp (do
    refuseInDelaySlot
    restartable rs rd
    let t ← readGpr rs
    writeLink rd
    jumpReg t) s

/-! ### Conditional branches -/

/-- BEQ (R634). -/
def execBeq (rs rt : RegNum) (offset : BitVec 16) (s : State) : Result :=
  runOp (branchRegs rs rt (· == ·) offset) s

/-- BNE (R635). -/
def execBne (rs rt : RegNum) (offset : BitVec 16) (s : State) : Result :=
  runOp (branchRegs rs rt (· != ·) offset) s

/-- BLEZ (R636). -/
def execBlez (rs : RegNum) (offset : BitVec 16) (s : State) : Result :=
  runOp (branchReg rs isNotPositive offset) s

/-- BGTZ (R637). -/
def execBgtz (rs : RegNum) (offset : BitVec 16) (s : State) : Result :=
  runOp (branchReg rs (!isNotPositive ·) offset) s

/-- BLTZ (R638). -/
def execBltz (rs : RegNum) (offset : BitVec 16) (s : State) : Result :=
  runOp (branchReg rs isNegative offset) s

/-- BGEZ (R639). -/
def execBgez (rs : RegNum) (offset : BitVec 16) (s : State) : Result :=
  runOp (branchReg rs (!isNegative ·) offset) s

/-- BLTZAL (R640). -/
def execBltzal (rs : RegNum) (offset : BitVec 16) (s : State) : Result :=
  runOp (branchRegLink rs isNegative offset) s

/-- BGEZAL (R641). -/
def execBgezal (rs : RegNum) (offset : BitVec 16) (s : State) : Result :=
  runOp (branchRegLink rs (!isNegative ·) offset) s

/-- BEQL (R642). -/
def execBeql (rs rt : RegNum) (offset : BitVec 16) (s : State) : Result :=
  runOp (likelyRegs rs rt (· == ·) offset) s

/-- BNEL (R643). -/
def execBnel (rs rt : RegNum) (offset : BitVec 16) (s : State) : Result :=
  runOp (likelyRegs rs rt (· != ·) offset) s

/-- BLEZL (R644). -/
def execBlezl (rs : RegNum) (offset : BitVec 16) (s : State) : Result :=
  runOp (likelyReg rs isNotPositive offset) s

/-- BGTZL (R645). -/
def execBgtzl (rs : RegNum) (offset : BitVec 16) (s : State) : Result :=
  runOp (likelyReg rs (!isNotPositive ·) offset) s

/-- BLTZL (R646). -/
def execBltzl (rs : RegNum) (offset : BitVec 16) (s : State) : Result :=
  runOp (likelyReg rs isNegative offset) s

/-- BGEZL (R647). -/
def execBgezl (rs : RegNum) (offset : BitVec 16) (s : State) : Result :=
  runOp (likelyReg rs (!isNegative ·) offset) s

/-- BLTZALL (R648). -/
def execBltzall (rs : RegNum) (offset : BitVec 16) (s : State) : Result :=
  runOp (likelyRegLink rs isNegative offset) s

/-- BGEZALL (R649). -/
def execBgezall (rs : RegNum) (offset : BitVec 16) (s : State) : Result :=
  runOp (likelyRegLink rs (!isNegative ·) offset) s

/-! ### Coprocessor conditions (R650) -/

/-- BC0F (R650). -/
def execBc0f (offset : BitVec 16) (s : State) : Result :=
  runOp (branchCop 0#2 false offset) s

/-- BC0T (R650). -/
def execBc0t (offset : BitVec 16) (s : State) : Result :=
  runOp (branchCop 0#2 true offset) s

/-- BC0FL (R650). -/
def execBc0fl (offset : BitVec 16) (s : State) : Result :=
  runOp (likelyCop 0#2 false offset) s

/-- BC0TL (R650). -/
def execBc0tl (offset : BitVec 16) (s : State) : Result :=
  runOp (likelyCop 0#2 true offset) s

/-- BC2F (R650). -/
def execBc2f (offset : BitVec 16) (s : State) : Result :=
  runOp (branchCop 2#2 false offset) s

/-- BC2T (R650). -/
def execBc2t (offset : BitVec 16) (s : State) : Result :=
  runOp (branchCop 2#2 true offset) s

/-- BC2FL (R650). -/
def execBc2fl (offset : BitVec 16) (s : State) : Result :=
  runOp (likelyCop 2#2 false offset) s

/-- BC2TL (R650). -/
def execBc2tl (offset : BitVec 16) (s : State) : Result :=
  runOp (likelyCop 2#2 true offset) s

/-- BC3F (R650). -/
def execBc3f (offset : BitVec 16) (s : State) : Result :=
  runOp (branchCop 3#2 false offset) s

/-- BC3T (R650). -/
def execBc3t (offset : BitVec 16) (s : State) : Result :=
  runOp (branchCop 3#2 true offset) s

/-- BC3FL (R650). -/
def execBc3fl (offset : BitVec 16) (s : State) : Result :=
  runOp (likelyCop 3#2 false offset) s

/-- BC3TL (R650). -/
def execBc3tl (offset : BitVec 16) (s : State) : Result :=
  runOp (likelyCop 3#2 true offset) s

/-! ### Floating-point conditions -/

/-- BC1F (R860). -/
def execBc1f (cc : BitVec 3) (offset : BitVec 16) (s : State) : Result :=
  runOp (branchFp cc false offset) s

/-- BC1FL (R861). -/
def execBc1fl (cc : BitVec 3) (offset : BitVec 16) (s : State) : Result :=
  runOp (likelyFp cc false offset) s

/-- BC1T (R862). -/
def execBc1t (cc : BitVec 3) (offset : BitVec 16) (s : State) : Result :=
  runOp (branchFp cc true offset) s

/-- BC1TL (R863). -/
def execBc1tl (cc : BitVec 3) (offset : BitVec 16) (s : State) : Result :=
  runOp (likelyFp cc true offset) s

end Sys2Proof.Machine
end

