-- ==== Sys2Proof/Machine/FpuArith.lean ====
section
/-! DEFINITION. The floating-point arithmetic, compares and conversions (spec/46_fpu_arith.md R900 to R941). -/

namespace Sys2Proof.Machine

/-! ### What a member declines besides (R892) -/

/-- The R3081 declines a conversion to a word that is out of range, whatever is enabled. -/
def cvtWExtra (p : Params) (_a : DWord) (o : FpOut) : Bool := p.cpu.is30xx && o.e &&& condV != 0

/-- A conversion to a long that is out of range, where the parameter declines it. -/
def cvtLExtra (p : Params) (_a : DWord) (o : FpOut) : Bool := p.fpDeclined.longRange && o.e &&& condV != 0

/-- The R5000 declines ROUND.L, TRUNC.L, CEIL.L and FLOOR.L of more than 52 bits of significance. -/
def roundLExtra (f : FFmt) (p : Params) (a : DWord) (o : FpOut) : Bool :=
  (p.cpu == .r5000 && wideInt f 52 a) || cvtLExtra p a o

/-- The R5000 declines CVT.D.L of more than 53 bits of significance. -/
def cvtDLExtra (p : Params) (a : DWord) (_o : FpOut) : Bool := p.cpu == .r5000 && decide (53 < sigBits a.toInt.natAbs)

/-- A word operand as an integer. -/
def wordInt (a : DWord) : Int := (lo32 a).toInt

/-! ### Shapes of conversion -/

/-- A conversion to a word (R932, R934 to R937). -/
def toWord (lvl : Isa) (f : FFmt) (fs fd : RegNum) (rm : Word → Rm) : Op Unit :=
  fpUnary lvl f.fmt .w fs fd cvtWExtra fun fcr a => fToInt f 32 (rm fcr) a

/-- A conversion to a long with a fixed rounding mode (R938 to R941). -/
def toLong (f : FFmt) (fs fd : RegNum) (rm : Rm) : Op Unit :=
  fpUnary .mips3 f.fmt .l fs fd (roundLExtra f) fun _ a => fToInt f 64 rm a

/-! ### Arithmetic in format S -/

/-- ADD.S (R900). -/
def execAddS (ft fs fd : RegNum) (s : State) : Result :=
  runSeq (fpBinary .mips1 .s ft fs fd fun fcr => fAdd .s (rmOf fcr)) s

/-- SUB.S (R901). -/
def execSubS (ft fs fd : RegNum) (s : State) : Result :=
  runSeq (fpBinary .mips1 .s ft fs fd fun fcr => fSub .s (rmOf fcr)) s

/-- MUL.S (R902). -/
def execMulS (ft fs fd : RegNum) (s : State) : Result :=
  runSeq (fpBinary .mips1 .s ft fs fd fun fcr => fMul .s (rmOf fcr)) s

/-- DIV.S (R903). -/
def execDivS (ft fs fd : RegNum) (s : State) : Result :=
  runSeq (fpBinary .mips1 .s ft fs fd fun fcr => fDiv .s (rmOf fcr)) s

/-- SQRT.S (R906): MIPS II. -/
def execSqrtS (fs fd : RegNum) (s : State) : Result :=
  runSeq (fpUnary .mips2 .s .s fs fd noExtra fun fcr => fSqrt .s (rmOf fcr)) s

/-- ABS.S (R904). -/
def execAbsS (fs fd : RegNum) (s : State) : Result :=
  runSeq (fpUnary .mips1 .s .s fs fd noExtra fun _ => fAbs .s) s

/-- NEG.S (R905). -/
def execNegS (fs fd : RegNum) (s : State) : Result :=
  runSeq (fpUnary .mips1 .s .s fs fd noExtra fun _ => fNeg .s) s

/-- RECIP.S (R907): MIPS IV. -/
def execRecipS (fs fd : RegNum) (s : State) : Result :=
  runSeq (fpApprox .s fs fd fun fcr => fRecip .s (rmOf fcr)) s

/-- RSQRT.S (R908): MIPS IV. -/
def execRsqrtS (fs fd : RegNum) (s : State) : Result :=
  runSeq (fpApprox .s fs fd fun fcr => fRsqrt .s (rmOf fcr)) s

/-! ### Conversions from format S to integers -/

/-- ROUND.L.S (R938): MIPS III. -/
def execRoundLS (fs fd : RegNum) (s : State) : Result :=
  runSeq (toLong .s fs fd .nearest) s

/-- ROUND.W.S (R934): MIPS II. -/
def execRoundWS (fs fd : RegNum) (s : State) : Result :=
  runSeq (toWord .mips2 .s fs fd fun _ => .nearest) s

/-- TRUNC.L.S (R939): MIPS III. -/
def execTruncLS (fs fd : RegNum) (s : State) : Result :=
  runSeq (toLong .s fs fd .zero) s

/-- TRUNC.W.S (R935): MIPS II. -/
def execTruncWS (fs fd : RegNum) (s : State) : Result :=
  runSeq (toWord .mips2 .s fs fd fun _ => .zero) s

/-- CEIL.L.S (R940): MIPS III. -/
def execCeilLS (fs fd : RegNum) (s : State) : Result :=
  runSeq (toLong .s fs fd .up) s

/-- CEIL.W.S (R936): MIPS II. -/
def execCeilWS (fs fd : RegNum) (s : State) : Result :=
  runSeq (toWord .mips2 .s fs fd fun _ => .up) s

/-- FLOOR.L.S (R941): MIPS III. -/
def execFloorLS (fs fd : RegNum) (s : State) : Result :=
  runSeq (toLong .s fs fd .down) s

/-- FLOOR.W.S (R937): MIPS II. -/
def execFloorWS (fs fd : RegNum) (s : State) : Result :=
  runSeq (toWord .mips2 .s fs fd fun _ => .down) s

/-- CVT.W.S (R932). -/
def execCvtWS (fs fd : RegNum) (s : State) : Result :=
  runSeq (toWord .mips1 .s fs fd rmOf) s

/-- CVT.L.S (R933): MIPS III. -/
def execCvtLS (fs fd : RegNum) (s : State) : Result :=
  runSeq (fpUnary .mips3 .s .l fs fd cvtLExtra fun fcr a => fToInt .s 64 (rmOf fcr) a) s

/-! ### Compares in format S (R920) -/

/-- C.F.S. -/
def execCFS (ft fs : RegNum) (cc : BitVec 3) (s : State) : Result :=
  runSeq (fpCompare .s 0#4 ft fs cc) s

/-- C.UN.S. -/
def execCUnS (ft fs : RegNum) (cc : BitVec 3) (s : State) : Result :=
  runSeq (fpCompare .s 1#4 ft fs cc) s

/-- C.EQ.S. -/
def execCEqS (ft fs : RegNum) (cc : BitVec 3) (s : State) : Result :=
  runSeq (fpCompare .s 2#4 ft fs cc) s

/-- C.UEQ.S. -/
def execCUeqS (ft fs : RegNum) (cc : BitVec 3) (s : State) : Result :=
  runSeq (fpCompare .s 3#4 ft fs cc) s

/-- C.OLT.S. -/
def execCOltS (ft fs : RegNum) (cc : BitVec 3) (s : State) : Result :=
  runSeq (fpCompare .s 4#4 ft fs cc) s

/-- C.ULT.S. -/
def execCUltS (ft fs : RegNum) (cc : BitVec 3) (s : State) : Result :=
  runSeq (fpCompare .s 5#4 ft fs cc) s

/-- C.OLE.S. -/
def execCOleS (ft fs : RegNum) (cc : BitVec 3) (s : State) : Result :=
  runSeq (fpCompare .s 6#4 ft fs cc) s

/-- C.ULE.S. -/
def execCUleS (ft fs : RegNum) (cc : BitVec 3) (s : State) : Result :=
  runSeq (fpCompare .s 7#4 ft fs cc) s

/-- C.SF.S. -/
def execCSfS (ft fs : RegNum) (cc : BitVec 3) (s : State) : Result :=
  runSeq (fpCompare .s 8#4 ft fs cc) s

/-- C.NGLE.S. -/
def execCNgleS (ft fs : RegNum) (cc : BitVec 3) (s : State) : Result :=
  runSeq (fpCompare .s 9#4 ft fs cc) s

/-- C.SEQ.S. -/
def execCSeqS (ft fs : RegNum) (cc : BitVec 3) (s : State) : Result :=
  runSeq (fpCompare .s 10#4 ft fs cc) s

/-- C.NGL.S. -/
def execCNglS (ft fs : RegNum) (cc : BitVec 3) (s : State) : Result :=
  runSeq (fpCompare .s 11#4 ft fs cc) s

/-- C.LT.S. -/
def execCLtS (ft fs : RegNum) (cc : BitVec 3) (s : State) : Result :=
  runSeq (fpCompare .s 12#4 ft fs cc) s

/-- C.NGE.S. -/
def execCNgeS (ft fs : RegNum) (cc : BitVec 3) (s : State) : Result :=
  runSeq (fpCompare .s 13#4 ft fs cc) s

/-- C.LE.S. -/
def execCLeS (ft fs : RegNum) (cc : BitVec 3) (s : State) : Result :=
  runSeq (fpCompare .s 14#4 ft fs cc) s

/-- C.NGT.S. -/
def execCNgtS (ft fs : RegNum) (cc : BitVec 3) (s : State) : Result :=
  runSeq (fpCompare .s 15#4 ft fs cc) s

/-! ### Arithmetic in format D -/

/-- ADD.D (R900). -/
def execAddD (ft fs fd : RegNum) (s : State) : Result :=
  runSeq (fpBinary .mips1 .d ft fs fd fun fcr => fAdd .d (rmOf fcr)) s

/-- SUB.D (R901). -/
def execSubD (ft fs fd : RegNum) (s : State) : Result :=
  runSeq (fpBinary .mips1 .d ft fs fd fun fcr => fSub .d (rmOf fcr)) s

/-- MUL.D (R902). -/
def execMulD (ft fs fd : RegNum) (s : State) : Result :=
  runSeq (fpBinary .mips1 .d ft fs fd fun fcr => fMul .d (rmOf fcr)) s

/-- DIV.D (R903). -/
def execDivD (ft fs fd : RegNum) (s : State) : Result :=
  runSeq (fpBinary .mips1 .d ft fs fd fun fcr => fDiv .d (rmOf fcr)) s

/-- SQRT.D (R906): MIPS II. -/
def execSqrtD (fs fd : RegNum) (s : State) : Result :=
  runSeq (fpUnary .mips2 .d .d fs fd noExtra fun fcr => fSqrt .d (rmOf fcr)) s

/-- ABS.D (R904). -/
def execAbsD (fs fd : RegNum) (s : State) : Result :=
  runSeq (fpUnary .mips1 .d .d fs fd noExtra fun _ => fAbs .d) s

/-- NEG.D (R905). -/
def execNegD (fs fd : RegNum) (s : State) : Result :=
  runSeq (fpUnary .mips1 .d .d fs fd noExtra fun _ => fNeg .d) s

/-- RECIP.D (R907): MIPS IV. -/
def execRecipD (fs fd : RegNum) (s : State) : Result :=
  runSeq (fpApprox .d fs fd fun fcr => fRecip .d (rmOf fcr)) s

/-- RSQRT.D (R908): MIPS IV. -/
def execRsqrtD (fs fd : RegNum) (s : State) : Result :=
  runSeq (fpApprox .d fs fd fun fcr => fRsqrt .d (rmOf fcr)) s

/-! ### Conversions from format D to integers -/

/-- ROUND.L.D (R938): MIPS III. -/
def execRoundLD (fs fd : RegNum) (s : State) : Result :=
  runSeq (toLong .d fs fd .nearest) s

/-- ROUND.W.D (R934): MIPS II. -/
def execRoundWD (fs fd : RegNum) (s : State) : Result :=
  runSeq (toWord .mips2 .d fs fd fun _ => .nearest) s

/-- TRUNC.L.D (R939): MIPS III. -/
def execTruncLD (fs fd : RegNum) (s : State) : Result :=
  runSeq (toLong .d fs fd .zero) s

/-- TRUNC.W.D (R935): MIPS II. -/
def execTruncWD (fs fd : RegNum) (s : State) : Result :=
  runSeq (toWord .mips2 .d fs fd fun _ => .zero) s

/-- CEIL.L.D (R940): MIPS III. -/
def execCeilLD (fs fd : RegNum) (s : State) : Result :=
  runSeq (toLong .d fs fd .up) s

/-- CEIL.W.D (R936): MIPS II. -/
def execCeilWD (fs fd : RegNum) (s : State) : Result :=
  runSeq (toWord .mips2 .d fs fd fun _ => .up) s

/-- FLOOR.L.D (R941): MIPS III. -/
def execFloorLD (fs fd : RegNum) (s : State) : Result :=
  runSeq (toLong .d fs fd .down) s

/-- FLOOR.W.D (R937): MIPS II. -/
def execFloorWD (fs fd : RegNum) (s : State) : Result :=
  runSeq (toWord .mips2 .d fs fd fun _ => .down) s

/-- CVT.W.D (R932). -/
def execCvtWD (fs fd : RegNum) (s : State) : Result :=
  runSeq (toWord .mips1 .d fs fd rmOf) s

/-- CVT.L.D (R933): MIPS III. -/
def execCvtLD (fs fd : RegNum) (s : State) : Result :=
  runSeq (fpUnary .mips3 .d .l fs fd cvtLExtra fun fcr a => fToInt .d 64 (rmOf fcr) a) s

/-! ### Compares in format D (R920) -/

/-- C.F.D. -/
def execCFD (ft fs : RegNum) (cc : BitVec 3) (s : State) : Result :=
  runSeq (fpCompare .d 0#4 ft fs cc) s

/-- C.UN.D. -/
def execCUnD (ft fs : RegNum) (cc : BitVec 3) (s : State) : Result :=
  runSeq (fpCompare .d 1#4 ft fs cc) s

/-- C.EQ.D. -/
def execCEqD (ft fs : RegNum) (cc : BitVec 3) (s : State) : Result :=
  runSeq (fpCompare .d 2#4 ft fs cc) s

/-- C.UEQ.D. -/
def execCUeqD (ft fs : RegNum) (cc : BitVec 3) (s : State) : Result :=
  runSeq (fpCompare .d 3#4 ft fs cc) s

/-- C.OLT.D. -/
def execCOltD (ft fs : RegNum) (cc : BitVec 3) (s : State) : Result :=
  runSeq (fpCompare .d 4#4 ft fs cc) s

/-- C.ULT.D. -/
def execCUltD (ft fs : RegNum) (cc : BitVec 3) (s : State) : Result :=
  runSeq (fpCompare .d 5#4 ft fs cc) s

/-- C.OLE.D. -/
def execCOleD (ft fs : RegNum) (cc : BitVec 3) (s : State) : Result :=
  runSeq (fpCompare .d 6#4 ft fs cc) s

/-- C.ULE.D. -/
def execCUleD (ft fs : RegNum) (cc : BitVec 3) (s : State) : Result :=
  runSeq (fpCompare .d 7#4 ft fs cc) s

/-- C.SF.D. -/
def execCSfD (ft fs : RegNum) (cc : BitVec 3) (s : State) : Result :=
  runSeq (fpCompare .d 8#4 ft fs cc) s

/-- C.NGLE.D. -/
def execCNgleD (ft fs : RegNum) (cc : BitVec 3) (s : State) : Result :=
  runSeq (fpCompare .d 9#4 ft fs cc) s

/-- C.SEQ.D. -/
def execCSeqD (ft fs : RegNum) (cc : BitVec 3) (s : State) : Result :=
  runSeq (fpCompare .d 10#4 ft fs cc) s

/-- C.NGL.D. -/
def execCNglD (ft fs : RegNum) (cc : BitVec 3) (s : State) : Result :=
  runSeq (fpCompare .d 11#4 ft fs cc) s

/-- C.LT.D. -/
def execCLtD (ft fs : RegNum) (cc : BitVec 3) (s : State) : Result :=
  runSeq (fpCompare .d 12#4 ft fs cc) s

/-- C.NGE.D. -/
def execCNgeD (ft fs : RegNum) (cc : BitVec 3) (s : State) : Result :=
  runSeq (fpCompare .d 13#4 ft fs cc) s

/-- C.LE.D. -/
def execCLeD (ft fs : RegNum) (cc : BitVec 3) (s : State) : Result :=
  runSeq (fpCompare .d 14#4 ft fs cc) s

/-- C.NGT.D. -/
def execCNgtD (ft fs : RegNum) (cc : BitVec 3) (s : State) : Result :=
  runSeq (fpCompare .d 15#4 ft fs cc) s

/-! ### Conversions between formats -/

/-- CVT.S.D (R930). -/
def execCvtSD (fs fd : RegNum) (s : State) : Result :=
  runSeq (fpUnary .mips1 .d .s fs fd noExtra fun fcr => fConvert .d .s (rmOf fcr)) s

/-- CVT.S.W (R930). -/
def execCvtSW (fs fd : RegNum) (s : State) : Result :=
  runSeq (fpUnary .mips1 .w .s fs fd noExtra fun fcr a => fFromInt .s (rmOf fcr) (wordInt a)) s

/-- CVT.S.L (R930): MIPS III. -/
def execCvtSL (fs fd : RegNum) (s : State) : Result :=
  runSeq (fpUnary .mips3 .l .s fs fd noExtra fun fcr a => fFromInt .s (rmOf fcr) a.toInt) s

/-- CVT.D.S (R931). -/
def execCvtDS (fs fd : RegNum) (s : State) : Result :=
  runSeq (fpUnary .mips1 .s .d fs fd noExtra fun fcr => fConvert .s .d (rmOf fcr)) s

/-- CVT.D.W (R931). -/
def execCvtDW (fs fd : RegNum) (s : State) : Result :=
  runSeq (fpUnary .mips1 .w .d fs fd noExtra fun fcr a => fFromInt .d (rmOf fcr) (wordInt a)) s

/-- CVT.D.L (R931): MIPS III. -/
def execCvtDL (fs fd : RegNum) (s : State) : Result :=
  runSeq (fpUnary .mips3 .l .d fs fd cvtDLExtra fun fcr a => fFromInt .d (rmOf fcr) a.toInt) s

/-! ### Multiply-accumulate (R910 to R913) -/

/-- MADD.S (R910). -/
def execMaddS (fr ft fs fd : RegNum) (s : State) : Result :=
  runSeq (fpTernary .s fr ft fs fd fun rm p r => fAdd .s rm r p) s

/-- MSUB.S (R911). -/
def execMsubS (fr ft fs fd : RegNum) (s : State) : Result :=
  runSeq (fpTernary .s fr ft fs fd fun rm p r => fSub .s rm p r) s

/-- NMADD.S (R912). -/
def execNmaddS (fr ft fs fd : RegNum) (s : State) : Result :=
  runSeq (fpTernary .s fr ft fs fd fun rm p r => (fAdd .s rm r p).negated .s) s

/-- NMSUB.S (R913). -/
def execNmsubS (fr ft fs fd : RegNum) (s : State) : Result :=
  runSeq (fpTernary .s fr ft fs fd fun rm p r => (fSub .s rm p r).negated .s) s

/-- MADD.D (R910). -/
def execMaddD (fr ft fs fd : RegNum) (s : State) : Result :=
  runSeq (fpTernary .d fr ft fs fd fun rm p r => fAdd .d rm r p) s

/-- MSUB.D (R911). -/
def execMsubD (fr ft fs fd : RegNum) (s : State) : Result :=
  runSeq (fpTernary .d fr ft fs fd fun rm p r => fSub .d rm p r) s

/-- NMADD.D (R912). -/
def execNmaddD (fr ft fs fd : RegNum) (s : State) : Result :=
  runSeq (fpTernary .d fr ft fs fd fun rm p r => (fAdd .d rm r p).negated .d) s

/-- NMSUB.D (R913). -/
def execNmsubD (fr ft fs fd : RegNum) (s : State) : Result :=
  runSeq (fpTernary .d fr ft fs fd fun rm p r => (fSub .d rm p r).negated .d) s

end Sys2Proof.Machine
end

