-- ==== Sys2Proof/Machine/FpuMove.lean ====
section
/-! DEFINITION. The floating-point moves, loads, stores and formatted moves (spec/45_fpu_state_moves.md R840 to
R858, R870 to R874). -/

namespace Sys2Proof.Machine

/-! ### Control registers (R826, R842, R843) -/

/-- What CFC1 reads: FCR0, FCR31, and any value from another number; without an FPA only FCR0.Imp = 0 is known
(R826, R830, R842). -/
def readFcr (n : RegNum) : Op DWord := fun s =>
  if n = 0#5 then
    if s.par.cpu.hasFpa then .ok ((s.par.cpu.fpImp ++ s.par.fcr0Rev).setWidth 64, s)
    else .ok (sext (setField (lo32 s.free) 8 0#8), s.useFree)
  else if n = 31#5 ∧ s.par.cpu.hasFpa then
    match readFcr31 s with
    | .ok (v, s') => .ok (sext v, s')
    | .error e => .error e
  else .ok (sextLo s.free, s.useFree)

/-- FCR31 gets the writable bits of a value; below MIPS IV the next instruction must not read it and the condition is
unsettled for two (R827, R831, R843). -/
def State.ctcFcr31 (s : State) (v : Word) : State :=
  let s := (s.setFcr31 (v &&& fcr31Mask s.par.cpu)).delayCond 2
  if s.par.cpu.isa == .mips4 then s else { s with hazNext := { s.hazNext with fcr := some 31#5 } }

/-- What CTC1 writes: FCR31, which signals where a Cause bit is enabled or UnImp is set; FCR0 is read-only and other
numbers take nothing (R843, D22). -/
def writeFcr (n : RegNum) (v : DWord) : Op Unit := fun s =>
  if n = 31#5 ∧ s.par.cpu.hasFpa then
    let s' := s.ctcFcr31 (lo32 v)
    if fpaRequest s'.fpu.fcr31 then signalFp (pure ()) s' else .ok ((), s')
  else .ok ((), s)

/-! ### Indexed addresses (R853) -/

/-- `GPR[base] + GPR[index]`, and whether it leaves the region of the base (R853). -/
def indexedAddr (base index : RegNum) : Op (DWord × Bool) := do
  let b ← readGpr base
  let i ← readGpr index
  look fun s => (s.normVa (b + i), (b + i).extractLsb' 62 2 != b.extractLsb' 62 2)

/-- An indexed load of `n` bytes: any value where the address leaves the region (R853). -/
def indexedLoad (base index : RegNum) (n : Nat) : Op DWord := do
  requireIsa .mips4
  requireCop 1#2
  let a ← indexedAddr base index
  if a.2 then fresh else loadAt a.1 n

/-- An indexed store of `n` bytes; no meaning where the address leaves the region (R853). -/
def indexedStore (base index : RegNum) (n : Nat) (v : Op DWord) : Op Unit := do
  requireIsa .mips4
  requireCop 1#2
  let a ← indexedAddr base index
  refuseIf a.2 .indexedStoreRegion
  let v ← v
  storeAt a.1 n v

/-! ### Moves between the register files -/

/-- MFC1 (R840). -/
def execMfc1 (rt fs : RegNum) (s : State) : Result :=
  runSeq (do
    requireCop 1#2
    let v ← readFgrWord fs
    writeGprMoved .mips3 rt (sextLo v)) s

/-- MTC1 (R841). -/
def execMtc1 (rt fs : RegNum) (s : State) : Result :=
  runSeq (do
    requireCop 1#2
    let v ← readGpr rt
    writeFgrWord .mips3 fs v) s

/-- CFC1 (R842). -/
def execCfc1 (rt fs : RegNum) (s : State) : Result :=
  runSeq (do
    requireCop 1#2
    let v ← readFcr fs
    writeGprMoved .mips3 rt v) s

/-- CTC1 (R843). -/
def execCtc1 (rt fs : RegNum) (s : State) : Result :=
  runSeq (do
    requireCop 1#2
    let v ← readGpr rt
    writeFcr fs v) s

/-- DMFC1 (R844). -/
def execDmfc1 (rt fs : RegNum) (s : State) : Result :=
  runSeq (do
    requireCop 1#2
    require64
    let v ← readFgrDouble fs
    writeGprMoved .mips3 rt v) s

/-- DMTC1 (R845). -/
def execDmtc1 (rt fs : RegNum) (s : State) : Result :=
  runSeq (do
    requireCop 1#2
    require64
    let v ← readGpr rt
    writeFgrDouble .mips3 fs v) s

/-! ### Loads and stores -/

/-- LWC1 (R850). -/
def execLwc1 (base ft : RegNum) (offset : BitVec 16) (s : State) : Result :=
  runSeq (do
    requireCop 1#2
    let v ← loadField base offset 4 id
    writeFgrWord .mips1 ft v) s

/-- LDC1 (R851): MIPS II. -/
def execLdc1 (base ft : RegNum) (offset : BitVec 16) (s : State) : Result :=
  runSeq (do
    requireIsa .mips2
    requireCop 1#2
    let v ← loadField base offset 8 id
    writeFgrDouble .mips1 ft v) s

/-- SWC1 (R852). -/
def execSwc1 (base ft : RegNum) (offset : BitVec 16) (s : State) : Result :=
  runSeq (do
    requireCop 1#2
    let v ← readFgrWord ft
    storeField base offset 4 v) s

/-- SDC1 (R853): MIPS II. -/
def execSdc1 (base ft : RegNum) (offset : BitVec 16) (s : State) : Result :=
  runSeq (do
    requireIsa .mips2
    requireCop 1#2
    let v ← readFgrDouble ft
    storeField base offset 8 v) s

/-- LWXC1 (R854). -/
def execLwxc1 (base index fd : RegNum) (s : State) : Result :=
  runSeq (do
    let v ← indexedLoad base index 4
    writeFgrWord .mips1 fd v) s

/-- LDXC1 (R855). -/
def execLdxc1 (base index fd : RegNum) (s : State) : Result :=
  runSeq (do
    let v ← indexedLoad base index 8
    writeFgrDouble .mips1 fd v) s

/-- SWXC1 (R856). -/
def execSwxc1 (base index fs : RegNum) (s : State) : Result :=
  runSeq (indexedStore base index 4 (readFgrWord fs)) s

/-- SDXC1 (R857). -/
def execSdxc1 (base index fs : RegNum) (s : State) : Result :=
  runSeq (indexedStore base index 8 (readFgrDouble fs)) s

/-- PREFX (R858): an advice without effect. -/
def execPrefx (_base _index : RegNum) (_hint : BitVec 5) (s : State) : Result :=
  runSeq (do
    requireIsa .mips4
    requireCop 1#2) s

/-! ### Formatted moves -/

/-- MOV.S (R870). -/
def execMovS (fs fd : RegNum) (s : State) : Result :=
  runSeq (do
    fpGate .mips1
    fpMove .s fs fs fd) s

/-- MOVF.S (R871). -/
def execMovfS (cc : BitVec 3) (fs fd : RegNum) (s : State) : Result :=
  runSeq (do
    fpGate .mips4
    let c ← look fun s => s.fcc cc
    fpMove .s (if c then fd else fs) fs fd) s

/-- MOVT.S (R872). -/
def execMovtS (cc : BitVec 3) (fs fd : RegNum) (s : State) : Result :=
  runSeq (do
    fpGate .mips4
    let c ← look fun s => s.fcc cc
    fpMove .s (if c then fs else fd) fs fd) s

/-- MOVN.S (R873). -/
def execMovnS (rt fs fd : RegNum) (s : State) : Result :=
  runSeq (do
    fpGate .mips4
    let v ← readGpr rt
    fpMove .s (if v != 0 then fs else fd) fs fd) s

/-- MOVZ.S (R874). -/
def execMovzS (rt fs fd : RegNum) (s : State) : Result :=
  runSeq (do
    fpGate .mips4
    let v ← readGpr rt
    fpMove .s (if v == 0 then fs else fd) fs fd) s

/-- MOV.D (R870). -/
def execMovD (fs fd : RegNum) (s : State) : Result :=
  runSeq (do
    fpGate .mips1
    fpMove .d fs fs fd) s

/-- MOVF.D (R871). -/
def execMovfD (cc : BitVec 3) (fs fd : RegNum) (s : State) : Result :=
  runSeq (do
    fpGate .mips4
    let c ← look fun s => s.fcc cc
    fpMove .d (if c then fd else fs) fs fd) s

/-- MOVT.D (R872). -/
def execMovtD (cc : BitVec 3) (fs fd : RegNum) (s : State) : Result :=
  runSeq (do
    fpGate .mips4
    let c ← look fun s => s.fcc cc
    fpMove .d (if c then fs else fd) fs fd) s

/-- MOVN.D (R873). -/
def execMovnD (rt fs fd : RegNum) (s : State) : Result :=
  runSeq (do
    fpGate .mips4
    let v ← readGpr rt
    fpMove .d (if v != 0 then fs else fd) fs fd) s

/-- MOVZ.D (R874). -/
def execMovzD (rt fs fd : RegNum) (s : State) : Result :=
  runSeq (do
    fpGate .mips4
    let v ← readGpr rt
    fpMove .d (if v == 0 then fs else fd) fs fd) s

end Sys2Proof.Machine
end

