-- ==== Sys2Proof/Machine/Alu.lean ====
section
/-! DEFINITION. The arithmetic, logic, shift and conditional-move instructions on the general registers
(spec/40_alu.md R500 to R563). -/

namespace Sys2Proof.Machine

/-! ### Shared operations -/

/-- `GPR[rd] <- f GPR[rs] GPR[rt]`. -/
def aluRR (rs rt rd : RegNum) (f : DWord → DWord → DWord) : Op Unit := do
  let a ← readGpr rs
  let b ← readGpr rt
  writeGpr rd (f a b)

/-- `GPR[rt] <- f GPR[rs]`, for the immediate forms and the shifts by `sa`. -/
def aluR (rs rt : RegNum) (f : DWord → DWord) : Op Unit := do
  let a ← readGpr rs
  writeGpr rt (f a)

/-- A 32-bit result on words `a` and `b`, sign-extended; undefined where an operand is no word (R500, R501). -/
def wordResult (rd : RegNum) (a b : DWord) (f : Word → Word → Word) : Op Unit := do
  let v ← freeIf (!(isWord a && isWord b)) (sext (f (lo32 a) (lo32 b)))
  writeGpr rd v

/-- A 32-bit operation on two registers. -/
def wordRR (rs rt rd : RegNum) (f : Word → Word → Word) : Op Unit := do
  let a ← readGpr rs
  let b ← readGpr rt
  wordResult rd a b f

/-- A 32-bit operation on a register. -/
def wordR (rs rd : RegNum) (f : Word → Word) : Op Unit := do
  let a ← readGpr rs
  wordResult rd a 0 fun x _ => f x

/-- An integer fits in `n` bits of two's complement. -/
def fitsInt (n : Nat) (r : Int) : Bool := decide (-(2 ^ (n - 1) : Int) ≤ r) && decide (r < (2 ^ (n - 1) : Int))

/-- A 32-bit result with Integer Overflow where the exact value does not fit, whatever rd is (R502, R1029); where an
operand is no word the result and the overflow are undefined (R501). -/
def wordTrapping (rd : RegNum) (a b : DWord) (f : Int → Int → Int) : Op Unit :=
  if isWord a && isWord b then do
    let r := f (lo32 a).toInt (lo32 b).toInt
    raiseIf (!fitsInt 32 r) .overflow
    writeGpr rd (sext (BitVec.ofInt 32 r))
  else do
    let x ← fresh
    raiseIf (bit x 0) .overflow
    let y ← fresh
    writeGpr rd y

/-- A 64-bit result with Integer Overflow where the exact value does not fit (R502). -/
def dwordTrapping (rd : RegNum) (a b : DWord) (f : Int → Int → Int) : Op Unit := do
  let r := f a.toInt b.toInt
  raiseIf (!fitsInt 64 r) .overflow
  writeGpr rd (BitVec.ofInt 64 r)

/-- `zext` of a condition: 1 or 0. -/
def boolVal (b : Bool) : DWord := if b then 1 else 0

/-- A 64-bit operation on two registers (R503). -/
def dwordRR (rs rt rd : RegNum) (f : DWord → DWord → DWord) : Op Unit := do
  require64
  aluRR rs rt rd f

/-- A 64-bit operation on one register (R503). -/
def dwordR (rs rd : RegNum) (f : DWord → DWord) : Op Unit := do
  require64
  aluR rs rd f

/-- A conditional move (R560 to R563): rd keeps its value where the condition fails. -/
def moveIf (c : Bool) (rs rd : RegNum) : Op Unit := do
  let a ← readGpr rs
  if c then writeGpr rd a

/-! ### Add and subtract -/

/-- ADD (R510). -/
def execAdd (rs rt rd : RegNum) (s : State) : Result :=
  runSeq (do
    let a ← readGpr rs
    let b ← readGpr rt
    wordTrapping rd a b (· + ·)) s

/-- ADDU (R513). -/
def execAddu (rs rt rd : RegNum) (s : State) : Result :=
  runSeq (wordRR rs rt rd (· + ·)) s

/-- SUB (R514). -/
def execSub (rs rt rd : RegNum) (s : State) : Result :=
  runSeq (do
    let a ← readGpr rs
    let b ← readGpr rt
    wordTrapping rd a b (· - ·)) s

/-- SUBU (R515). -/
def execSubu (rs rt rd : RegNum) (s : State) : Result :=
  runSeq (wordRR rs rt rd (· - ·)) s

/-- DADD (R516). -/
def execDadd (rs rt rd : RegNum) (s : State) : Result :=
  runSeq (do
    require64
    let a ← readGpr rs
    let b ← readGpr rt
    dwordTrapping rd a b (· + ·)) s

/-- DADDU (R519). -/
def execDaddu (rs rt rd : RegNum) (s : State) : Result :=
  runSeq (dwordRR rs rt rd (· + ·)) s

/-- DSUB (R520). -/
def execDsub (rs rt rd : RegNum) (s : State) : Result :=
  runSeq (do
    require64
    let a ← readGpr rs
    let b ← readGpr rt
    dwordTrapping rd a b (· - ·)) s

/-- DSUBU (R521). -/
def execDsubu (rs rt rd : RegNum) (s : State) : Result :=
  runSeq (dwordRR rs rt rd (· - ·)) s

/-- ADDI (R511). -/
def execAddi (rs rt : RegNum) (imm : BitVec 16) (s : State) : Result :=
  runSeq (do
    let a ← readGpr rs
    wordTrapping rt a (sextImm imm) (· + ·)) s

/-- ADDIU (R512). -/
def execAddiu (rs rt : RegNum) (imm : BitVec 16) (s : State) : Result :=
  runSeq (wordR rs rt (· + lo32 (sextImm imm))) s

/-- DADDI (R517). -/
def execDaddi (rs rt : RegNum) (imm : BitVec 16) (s : State) : Result :=
  runSeq (do
    require64
    let a ← readGpr rs
    dwordTrapping rt a (sextImm imm) (· + ·)) s

/-- DADDIU (R518). -/
def execDaddiu (rs rt : RegNum) (imm : BitVec 16) (s : State) : Result :=
  runSeq (dwordR rs rt (· + sextImm imm)) s

/-! ### Logic -/

/-- AND (R525). -/
def execAnd (rs rt rd : RegNum) (s : State) : Result :=
  runSeq (aluRR rs rt rd (· &&& ·)) s

/-- OR (R527). -/
def execOr (rs rt rd : RegNum) (s : State) : Result :=
  runSeq (aluRR rs rt rd (· ||| ·)) s

/-- XOR (R529). -/
def execXor (rs rt rd : RegNum) (s : State) : Result :=
  runSeq (aluRR rs rt rd (· ^^^ ·)) s

/-- NOR (R531). -/
def execNor (rs rt rd : RegNum) (s : State) : Result :=
  runSeq (aluRR rs rt rd fun a b => ~~~(a ||| b)) s

/-- ANDI (R526). -/
def execAndi (rs rt : RegNum) (imm : BitVec 16) (s : State) : Result :=
  runSeq (aluR rs rt (· &&& zextImm imm)) s

/-- ORI (R528). -/
def execOri (rs rt : RegNum) (imm : BitVec 16) (s : State) : Result :=
  runSeq (aluR rs rt (· ||| zextImm imm)) s

/-- XORI (R530). -/
def execXori (rs rt : RegNum) (imm : BitVec 16) (s : State) : Result :=
  runSeq (aluR rs rt (· ^^^ zextImm imm)) s

/-- LUI (R532). -/
def execLui (rt : RegNum) (imm : BitVec 16) (s : State) : Result :=
  runSeq (writeGpr rt (sext (imm ++ 0#16))) s

/-! ### Set on less than -/

/-- SLT (R535): all GPRLEN bits. -/
def execSlt (rs rt rd : RegNum) (s : State) : Result :=
  runSeq (aluRR rs rt rd fun a b => boolVal (a.slt b)) s

/-- SLTU (R537). -/
def execSltu (rs rt rd : RegNum) (s : State) : Result :=
  runSeq (aluRR rs rt rd fun a b => boolVal (a.ult b)) s

/-- SLTI (R536). -/
def execSlti (rs rt : RegNum) (imm : BitVec 16) (s : State) : Result :=
  runSeq (aluR rs rt fun a => boolVal (a.slt (sextImm imm))) s

/-- SLTIU (R538): the sign-extended immediate, compared unsigned. -/
def execSltiu (rs rt : RegNum) (imm : BitVec 16) (s : State) : Result :=
  runSeq (aluR rs rt fun a => boolVal (a.ult (sextImm imm))) s

/-! ### Shifts -/

/-- SLL (R540): the operand need not be a word. -/
def execSll (rt rd : RegNum) (sa : BitVec 5) (s : State) : Result :=
  runSeq (aluR rt rd fun a => sext (lo32 a <<< sa.toNat)) s

/-- SRL (R541). -/
def execSrl (rt rd : RegNum) (sa : BitVec 5) (s : State) : Result :=
  runSeq (wordR rt rd (· >>> sa.toNat)) s

/-- SRA (R542). -/
def execSra (rt rd : RegNum) (sa : BitVec 5) (s : State) : Result :=
  runSeq (wordR rt rd fun a => a.sshiftRight sa.toNat) s

/-- SLLV (R543): by GPR[rs][4:0]; the operand need not be a word. -/
def execSllv (rs rt rd : RegNum) (s : State) : Result :=
  runSeq (aluRR rs rt rd fun a b => sext (lo32 b <<< (a.extractLsb' 0 5).toNat)) s

/-- SRLV (R544): only rt must be a word. -/
def execSrlv (rs rt rd : RegNum) (s : State) : Result :=
  runSeq (do
    let a ← readGpr rs
    wordR rt rd fun b => b >>> (a.extractLsb' 0 5).toNat) s

/-- SRAV (R545). -/
def execSrav (rs rt rd : RegNum) (s : State) : Result :=
  runSeq (do
    let a ← readGpr rs
    wordR rt rd fun b => b.sshiftRight (a.extractLsb' 0 5).toNat) s

/-- DSLL (R546). -/
def execDsll (rt rd : RegNum) (sa : BitVec 5) (s : State) : Result :=
  runSeq (dwordR rt rd (· <<< sa.toNat)) s

/-- DSRL (R547). -/
def execDsrl (rt rd : RegNum) (sa : BitVec 5) (s : State) : Result :=
  runSeq (dwordR rt rd (· >>> sa.toNat)) s

/-- DSRA (R548). -/
def execDsra (rt rd : RegNum) (sa : BitVec 5) (s : State) : Result :=
  runSeq (dwordR rt rd fun a => a.sshiftRight sa.toNat) s

/-- DSLLV (R549): by GPR[rs][5:0]. -/
def execDsllv (rs rt rd : RegNum) (s : State) : Result :=
  runSeq (dwordRR rs rt rd fun a b => b <<< (a.extractLsb' 0 6).toNat) s

/-- DSRLV (R550). -/
def execDsrlv (rs rt rd : RegNum) (s : State) : Result :=
  runSeq (dwordRR rs rt rd fun a b => b >>> (a.extractLsb' 0 6).toNat) s

/-- DSRAV (R551). -/
def execDsrav (rs rt rd : RegNum) (s : State) : Result :=
  runSeq (dwordRR rs rt rd fun a b => b.sshiftRight (a.extractLsb' 0 6).toNat) s

/-- DSLL32 (R552): by 32 + sa. -/
def execDsll32 (rt rd : RegNum) (sa : BitVec 5) (s : State) : Result :=
  runSeq (dwordR rt rd (· <<< (32 + sa.toNat))) s

/-- DSRL32 (R553). -/
def execDsrl32 (rt rd : RegNum) (sa : BitVec 5) (s : State) : Result :=
  runSeq (dwordR rt rd (· >>> (32 + sa.toNat))) s

/-- DSRA32 (R554). -/
def execDsra32 (rt rd : RegNum) (sa : BitVec 5) (s : State) : Result :=
  runSeq (dwordR rt rd fun a => a.sshiftRight (32 + sa.toNat)) s

/-! ### Conditional moves (MIPS IV) -/

/-- MOVN (R560). -/
def execMovn (rs rt rd : RegNum) (s : State) : Result :=
  runSeq (do
    requireIsa .mips4
    let b ← readGpr rt
    moveIf (b != 0) rs rd) s

/-- MOVZ (R561). -/
def execMovz (rs rt rd : RegNum) (s : State) : Result :=
  runSeq (do
    requireIsa .mips4
    let b ← readGpr rt
    moveIf (b == 0) rs rd) s

/-- MOVF (R562). -/
def execMovf (rs : RegNum) (cc : BitVec 3) (rd : RegNum) (s : State) : Result :=
  runSeq (do
    requireIsa .mips4
    requireCop 1#2
    let c ← look fun s => s.fcc cc
    moveIf (!c) rs rd) s

/-- MOVT (R563). -/
def execMovt (rs : RegNum) (cc : BitVec 3) (rd : RegNum) (s : State) : Result :=
  runSeq (do
    requireIsa .mips4
    requireCop 1#2
    let c ← look fun s => s.fcc cc
    moveIf c rs rd) s

end Sys2Proof.Machine
end

