-- ==== Sys2Proof/Machine/LoadStore.lean ====
section
/-! DEFINITION. The loads and stores of the general registers, the unaligned forms, load linked and store
conditional, the forms of the absent coprocessors 2 and 3, and prefetch (spec/43_load_store.md R670 to R746). -/

namespace Sys2Proof.Machine

/-! ### Aligned loads and stores -/

/-- `GPR[rt] <- f` of the field at base plus offset (R680 to R686). -/
def loadReg (base rt : RegNum) (offset : BitVec 16) (n : Nat) (f : DWord → DWord) : Op Unit := do
  let v ← loadField base offset n f
  writeGprLoaded rt v

/-- The low `n` bytes of `GPR[rt]` to base plus offset (R690 to R693). -/
def storeReg (base rt : RegNum) (offset : BitVec 16) (n : Nat) : Op Unit := do
  let v ← readGpr rt
  storeField base offset n v

/-- `sext_64` of the low `n` bytes. -/
def sextBytes (n : Nat) (v : DWord) : DWord := (v.setWidth (8 * n)).signExtend 64

/-! ### Unaligned forms (R699) -/

/-- The bytes a left form touches in its aligned object of `n` bytes: the address of the first, and their number
(R699: from the effective address toward the least significant end). -/
def State.leftPart (s : State) (va : DWord) (pa n : Nat) : Nat × Nat :=
  if s.bigEndianCpu then (pa, n - va.toNat % n) else (pa - va.toNat % n, va.toNat % n + 1)

/-- The bytes a right form touches (R699). -/
def State.rightPart (s : State) (va : DWord) (pa n : Nat) : Nat × Nat :=
  if s.bigEndianCpu then (pa - va.toNat % n, va.toNat % n + 1) else (pa, n - va.toNat % n)

/-- A mask of the low `k` bytes. -/
def lowBytes (k : Nat) : DWord := BitVec.ofNat 64 (2 ^ (8 * k) - 1)

/-- rt of LWL, LWR, LDL and LDR: it may have been loaded by the instruction before (R673). -/
def readGprMerge (r : RegNum) : Op DWord := fun s =>
  if s.haz.moved then readGpr r s else .ok (s.gprVal r, s)

/-- A left load: `k` bytes of memory above the low bytes of the register (R699). -/
def loadLeft (base rt : RegNum) (offset : BitVec 16) (n : Nat) : Op DWord := do
  let va ← effAddr base offset
  let r ← translate va .load 1
  checkData va .load r.1
  let p ← look fun s => s.leftPart va r.1 n
  let m ← readMem p.1 p.2
  let v ← readGprMerge rt
  pure ((m <<< (8 * (n - p.2))) ||| (v &&& lowBytes (n - p.2)))

/-- A right load: `k` bytes of memory below the high bytes of the register; and whether all were loaded (R699). -/
def loadRight (base rt : RegNum) (offset : BitVec 16) (n : Nat) : Op (DWord × Bool) := do
  let va ← effAddr base offset
  let r ← translate va .load 1
  checkData va .load r.1
  let p ← look fun s => s.rightPart va r.1 n
  let m ← readMem p.1 p.2
  let v ← readGprMerge rt
  pure (m ||| (v &&& ~~~lowBytes p.2), p.2 == n)

/-- A left store: the high bytes of the low `n` bytes of the register (R699). -/
def storeLeft (base rt : RegNum) (offset : BitVec 16) (n : Nat) : Op Unit := do
  let v ← readGpr rt
  let va ← effAddr base offset
  let r ← translate va .store 1
  checkData va .store r.1
  let p ← look fun s => s.leftPart va r.1 n
  writeMem p.1 p.2 (v >>> (8 * (n - p.2)))

/-- A right store: the low bytes of the register (R699). -/
def storeRight (base rt : RegNum) (offset : BitVec 16) (n : Nat) : Op Unit := do
  let v ← readGpr rt
  let va ← effAddr base offset
  let r ← translate va .store 1
  checkData va .store r.1
  let p ← look fun s => s.rightPart va r.1 n
  writeMem p.1 p.2 v

/-- LWR: bits 63:32 are the sign where bit 31 is loaded; where it is not, they are a copy of bit 31 or unchanged, a
parameter (R701). -/
def lwrResult (upperSigned : Bool) (v : DWord) (all : Bool) : DWord :=
  if all || upperSigned then sextLo v else v

/-! ### Load linked and store conditional (R271 to R273, R730 to R733) -/

/-- The link a load linked makes: LLbit, what it linked, and LLAddr on the Orion TLB CPUs (R271, R190): the physical address
before ReverseEndian changes its low bits, of which R730 does not speak (DESIGN CHOICE, log entry 46). -/
def State.setLink (s : State) (l : Link) : State :=
  { s with
    llBit := true, link := l,
    cp0 := if s.par.cpu.isOrionTlb then { s.cp0 with llAddr := BitVec.ofNat 32 l.pa } else s.cp0 }

/-- Load linked: the loaded value is undefined at an uncached address (R730). -/
def loadLinked (base rt : RegNum) (offset : BitVec 16) (n : Nat) (f : DWord → DWord) : Op Unit := do
  let va ← effAddr base offset
  let r ← translate va .load n
  checkData va .load r.1
  let v ← readMem r.1 n
  let u ← look fun s => s.offsetUndefined offset n
  let v ← freeIf (u || r.2 == 2#3) (f v)
  writeGpr rt v
  change fun s => s.setLink { va := va, pa := r.1, cca := r.2, double := n == 8 }

/-- The success of a store conditional (R731, R273): LLbit, but open at an uncached address and where the load linked
was at another address, of another access type or of the other width. With LLbit clear it fails, also where no load
linked ever came before, whose result R273 calls undefined (DESIGN CHOICE, log entry 46). -/
def scSuccess (va : DWord) (pa : Nat) (cca : BitVec 3) (n : Nat) : Op Bool := fun s =>
  if cca == 2#3 || (s.llBit && s.link != { va := va, pa := pa, cca := cca, double := n == 8 }) then
    .ok (bit s.free 0, s.useFree)
  else .ok (s.llBit, s)

/-- Store conditional: it translates in any case, stores and answers 1 where it succeeds, and ends with LLbit clear
(R731, D16). With an offset that makes the result undefined (R674) the register and the bytes it stores are free; with LLbit
clear it stores nothing then too (DESIGN CHOICE, log entry 57). A data cache error and DWatch.W meet it after the translation
whatever LLbit is: where it is clear no StoreMemory follows, and R167, R671 step 5 and R1032, which tie the two to a store's
access, do not say whether such an SC or SCD takes them (DESIGN CHOICE, log entry 46). -/
def storeConditional (base rt : RegNum) (offset : BitVec 16) (n : Nat) : Op Unit := do
  let v ← readGpr rt
  let va ← effAddr base offset
  let r ← translate va .store n
  checkData va .store r.1
  let ok ← scSuccess va r.1 r.2 n
  let u ← look fun s => s.offsetUndefined offset n
  let v ← freeIf u v
  change fun s => if ok then s.putMem r.1 n v else s
  let w ← freeIf u (boolVal ok)
  writeGpr rt w
  change fun s => { s with llBit := false }

/-! ### Coprocessors 2 and 3, which no member has (R676) -/

/-- A load to an absent coprocessor: the access is made, the data goes nowhere. -/
def loadAbsent (z : BitVec 2) (base : RegNum) (offset : BitVec 16) (n : Nat) : Op Unit := do
  requireCop z
  let _ ← loadField base offset n id

/-- A store from an absent coprocessor stores a value nothing constrains. -/
def storeAbsent (z : BitVec 2) (base : RegNum) (offset : BitVec 16) (n : Nat) : Op Unit := do
  requireCop z
  let v ← fresh
  storeField base offset n v

/-! ### Loads -/

/-- LB (R680). -/
def execLb (base rt : RegNum) (offset : BitVec 16) (s : State) : Result :=
  runSeq (loadReg base rt offset 1 (sextBytes 1)) s

/-- LBU (R681). -/
def execLbu (base rt : RegNum) (offset : BitVec 16) (s : State) : Result :=
  runSeq (loadReg base rt offset 1 id) s

/-- LH (R682). -/
def execLh (base rt : RegNum) (offset : BitVec 16) (s : State) : Result :=
  runSeq (loadReg base rt offset 2 (sextBytes 2)) s

/-- LHU (R683). -/
def execLhu (base rt : RegNum) (offset : BitVec 16) (s : State) : Result :=
  runSeq (loadReg base rt offset 2 id) s

/-- LW (R684). -/
def execLw (base rt : RegNum) (offset : BitVec 16) (s : State) : Result :=
  runSeq (loadReg base rt offset 4 (sextBytes 4)) s

/-- LWU (R685). -/
def execLwu (base rt : RegNum) (offset : BitVec 16) (s : State) : Result :=
  runSeq (do
    require64
    loadReg base rt offset 4 id) s

/-- LD (R686). -/
def execLd (base rt : RegNum) (offset : BitVec 16) (s : State) : Result :=
  runSeq (do
    require64
    loadReg base rt offset 8 id) s

/-! ### Stores -/

/-- SB (R690). -/
def execSb (base rt : RegNum) (offset : BitVec 16) (s : State) : Result :=
  runSeq (storeReg base rt offset 1) s

/-- SH (R691). -/
def execSh (base rt : RegNum) (offset : BitVec 16) (s : State) : Result :=
  runSeq (storeReg base rt offset 2) s

/-- SW (R692). -/
def execSw (base rt : RegNum) (offset : BitVec 16) (s : State) : Result :=
  runSeq (storeReg base rt offset 4) s

/-- SD (R693). -/
def execSd (base rt : RegNum) (offset : BitVec 16) (s : State) : Result :=
  runSeq (do
    require64
    storeReg base rt offset 8) s

/-! ### Unaligned loads and stores -/

/-- LWL (R700). -/
def execLwl (base rt : RegNum) (offset : BitVec 16) (s : State) : Result :=
  runSeq (do
    let v ← loadLeft base rt offset 4
    writeGprLoaded rt (sextLo v)) s

/-- LWR (R701). -/
def execLwr (base rt : RegNum) (offset : BitVec 16) (s : State) : Result :=
  runSeq (do
    let r ← loadRight base rt offset 4
    let u ← look fun s => s.par.lwrUpperSigned
    writeGprLoaded rt (lwrResult u r.1 r.2)) s

/-- SWL (R702): the low word of the register. -/
def execSwl (base rt : RegNum) (offset : BitVec 16) (s : State) : Result :=
  runSeq (storeLeft base rt offset 4) s

/-- SWR (R703). -/
def execSwr (base rt : RegNum) (offset : BitVec 16) (s : State) : Result :=
  runSeq (storeRight base rt offset 4) s

/-- LDL (R704). -/
def execLdl (base rt : RegNum) (offset : BitVec 16) (s : State) : Result :=
  runSeq (do
    require64
    let v ← loadLeft base rt offset 8
    writeGprLoaded rt v) s

/-- LDR (R705). -/
def execLdr (base rt : RegNum) (offset : BitVec 16) (s : State) : Result :=
  runSeq (do
    require64
    let r ← loadRight base rt offset 8
    writeGprLoaded rt r.1) s

/-- SDL (R706). -/
def execSdl (base rt : RegNum) (offset : BitVec 16) (s : State) : Result :=
  runSeq (do
    require64
    storeLeft base rt offset 8) s

/-- SDR (R707). -/
def execSdr (base rt : RegNum) (offset : BitVec 16) (s : State) : Result :=
  runSeq (do
    require64
    storeRight base rt offset 8) s

/-! ### Linked and conditional -/

/-- LL (R730). -/
def execLl (base rt : RegNum) (offset : BitVec 16) (s : State) : Result :=
  runSeq (do
    requireIsa .mips2
    loadLinked base rt offset 4 (sextBytes 4)) s

/-- SC (R731). -/
def execSc (base rt : RegNum) (offset : BitVec 16) (s : State) : Result :=
  runSeq (do
    requireIsa .mips2
    storeConditional base rt offset 4) s

/-- LLD (R732). -/
def execLld (base rt : RegNum) (offset : BitVec 16) (s : State) : Result :=
  runSeq (do
    require64
    loadLinked base rt offset 8 id) s

/-- SCD (R733). -/
def execScd (base rt : RegNum) (offset : BitVec 16) (s : State) : Result :=
  runSeq (do
    require64
    storeConditional base rt offset 8) s

/-! ### Absent coprocessors -/

/-- LWC2 (R715). -/
def execLwc2 (base _rt : RegNum) (offset : BitVec 16) (s : State) : Result :=
  runSeq (loadAbsent 2#2 base offset 4) s

/-- LWC3 (R715): MIPS I only on this family. -/
def execLwc3 (base _rt : RegNum) (offset : BitVec 16) (s : State) : Result :=
  runSeq (loadAbsent 3#2 base offset 4) s

/-- SWC2 (R716). -/
def execSwc2 (base _rt : RegNum) (offset : BitVec 16) (s : State) : Result :=
  runSeq (storeAbsent 2#2 base offset 4) s

/-- SWC3 (R716): MIPS I only on this family. -/
def execSwc3 (base _rt : RegNum) (offset : BitVec 16) (s : State) : Result :=
  runSeq (storeAbsent 3#2 base offset 4) s

/-- LDC2 (R717): MIPS II. -/
def execLdc2 (base _rt : RegNum) (offset : BitVec 16) (s : State) : Result :=
  runSeq (do
    requireIsa .mips2
    loadAbsent 2#2 base offset 8) s

/-- SDC2 (R718): MIPS II. -/
def execSdc2 (base _rt : RegNum) (offset : BitVec 16) (s : State) : Result :=
  runSeq (do
    requireIsa .mips2
    storeAbsent 2#2 base offset 8) s

/-! ### Prefetch -/

/-- PREF (R740): an advice without effect, MIPS IV. -/
def execPref (_base : RegNum) (_hint : BitVec 5) (_offset : BitVec 16) (s : State) : Result :=
  runSeq (requireIsa .mips4) s

end Sys2Proof.Machine
end

