-- ==== Sys2Proof/Machine/MulDiv.lean ====
section
/-! DEFINITION. Multiply, divide, the moves of HI and LO, and the R4650's multiply-accumulate
(spec/41_muldiv.md R580 to R598). -/

namespace Sys2Proof.Machine

/-! ### The two-instruction restriction and the read-before-rewrite restriction (R581, R598) -/

/-- The HI/LO reads among the last two instructions that a write spoils: those of HI, of LO, or of either (R581). -/
def State.spoiled (s : State) (hi lo : Bool) : List RegNum :=
  let hit : HiloRead → Bool := fun r => if r.fromHi then hi else lo
  ((s.haz.hilo1.toList ++ s.haz.hilo2.toList).filter hit).map (·.rd)

/-- A register gets a value nothing constrains. -/
def State.freeGpr (s : State) (r : RegNum) : State := s.useFree.setGpr r s.free

/-- The HI/LO reads that come too close hold a free value from now on (R581), and the program has broken the rule for the
next return from an exception (R1122). -/
def State.spoil (s : State) (hi lo : Bool) : State :=
  let rs := s.spoiled hi lo
  let t := rs.foldl State.freeGpr s
  { t with hazNext := { t.hazNext with hiloBroken := t.hazNext.hiloBroken || !rs.isEmpty } }

/-- What an instruction that writes HI, LO or both does first: the register of a read that comes too close is undefined
before the instruction reads its own operands (R581). -/
def spoilReads (hi lo : Bool) : Op Unit := change fun s => s.spoil hi lo

/-- HI and LO get a result, which is not read yet (R580, R598). -/
def State.putHilo (s : State) (hi lo : DWord) : State := { (s.setHi hi).setLo lo with hiloUnread := true }

/-- Writing HI and LO. -/
def writeHilo (hi lo : DWord) : Op Unit := change fun s => s.putHilo hi lo

/-- HI and LO get `hi` and `lo`, or two free values where the result is undefined. -/
def writeHiloOr (undef : Bool) (hi lo : DWord) : Op Unit := do
  let h ← freeIf undef hi
  let l ← freeIf undef lo
  writeHilo h l

/-- HI or LO has been read into a register: this ends the wait for a read, and is remembered (R581, R598). -/
def State.noteHiloRead (s : State) (fromHi : Bool) (rd : RegNum) : State :=
  { s with hiloUnread := false, hazNext := { s.hazNext with hilo1 := some { rd := rd, fromHi := fromHi } } }

/-- The read of HI or LO (R582, R583): it ends the wait for a read, and is remembered for two instructions. -/
def readHilo (fromHi : Bool) (rd : RegNum) : Op Unit := do
  let v ← look fun s => if fromHi then s.hiVal else s.loVal
  writeGpr rd v
  change fun s => s.noteHiloRead fromHi rd

/-- Where a result has not been read, a write of one of HI and LO leaves the other undefined (R598). -/
def State.loseOther (s : State) (toHi : Bool) : State :=
  if s.hiloUnread then
    { (if toHi then s.useFree.setLo s.free else s.useFree.setHi s.free) with hiloUnread := false }
  else s

/-- The write of HI or LO from a register (R584, R585): where a result has not been read, the other one is
undefined from now on (R598). -/
def moveToHilo (toHi : Bool) (rs : RegNum) : Op Unit := do
  spoilReads toHi (!toHi)
  let a ← readGpr rs
  change fun s =>
    let s := s.loseOther toHi
    if toHi then s.setHi a else s.setLo a

/-! ### Shared arithmetic -/

/-- A 32-bit operation into HI and LO: `f` gives the two words (high half or remainder first); undefined where an
operand is no word or `bad` holds (R586, R501). -/
def wordHilo (rs rt : RegNum) (bad : Word → Bool) (f : Word → Word → Word × Word) : Op Unit := do
  spoilReads true true
  let a ← readGpr rs
  let b ← readGpr rt
  let r := f (lo32 a) (lo32 b)
  writeHiloOr (!(isWord a && isWord b) || bad (lo32 b)) (sext r.1) (sext r.2)

/-- A 64-bit operation into HI and LO (R503). -/
def dwordHilo (rs rt : RegNum) (bad : DWord → Bool) (f : DWord → DWord → DWord × DWord) : Op Unit := do
  require64
  spoilReads true true
  let a ← readGpr rs
  let b ← readGpr rt
  let r := f a b
  writeHiloOr (bad b) r.1 r.2

/-- The halves of an integer product, high half first. -/
def halves (n : Nat) (p : Int) : BitVec n × BitVec n := (BitVec.ofInt n (p / 2 ^ n), BitVec.ofInt n p)

/-- Remainder and quotient, truncated toward zero (R11, D9). -/
def divide (n : Nat) (a b : Int) : BitVec n × BitVec n := (BitVec.ofInt n (a.tmod b), BitVec.ofInt n (a.tdiv b))

/-- The R4650 and R4640 only (R372, R594). -/
def require4650 : Op Unit := do
  let ok ← look fun s => s.par.cpu.is4650
  raiseIf (!ok) .reservedInstruction

/-- Multiply-accumulate on HI[31:0] || LO[31:0] (R594, R595). -/
def accumulate (rs rt : RegNum) (f : Word → Word → Int) : Op Unit := do
  require4650
  spoilReads true true
  let a ← readGpr rs
  let b ← readGpr rt
  let acc ← look fun s => lo32 s.hiVal ++ lo32 s.loVal
  let t : DWord := acc + BitVec.ofInt 64 (f (lo32 a) (lo32 b))
  writeHilo (sext (t.extractLsb' 32 32)) (sextLo t)

/-! ### Moves -/

/-- MFHI (R582). -/
def execMfhi (rd : RegNum) (s : State) : Result :=
  runSeq (readHilo true rd) s

/-- MFLO (R583). -/
def execMflo (rd : RegNum) (s : State) : Result :=
  runSeq (readHilo false rd) s

/-- MTHI (R584). -/
def execMthi (rs : RegNum) (s : State) : Result :=
  runSeq (moveToHilo true rs) s

/-- MTLO (R585). -/
def execMtlo (rs : RegNum) (s : State) : Result :=
  runSeq (moveToHilo false rs) s

/-! ### Divide -/

/-- DIV (R586): a zero divisor leaves HI and LO undefined. -/
def execDiv (rs rt : RegNum) (s : State) : Result :=
  runSeq (wordHilo rs rt (· == 0) fun a b => divide 32 a.toInt b.toInt) s

/-- DIVU (R587). -/
def execDivu (rs rt : RegNum) (s : State) : Result :=
  runSeq (wordHilo rs rt (· == 0) fun a b => divide 32 a.toNat b.toNat) s

/-- DDIV (R588). -/
def execDdiv (rs rt : RegNum) (s : State) : Result :=
  runSeq (dwordHilo rs rt (· == 0) fun a b => divide 64 a.toInt b.toInt) s

/-- DDIVU (R589). -/
def execDdivu (rs rt : RegNum) (s : State) : Result :=
  runSeq (dwordHilo rs rt (· == 0) fun a b => divide 64 a.toNat b.toNat) s

/-! ### Multiply -/

/-- MULT (R590). -/
def execMult (rs rt : RegNum) (s : State) : Result :=
  runSeq (wordHilo rs rt (fun _ => false) fun a b => halves 32 (a.toInt * b.toInt)) s

/-- MULTU (R591). -/
def execMultu (rs rt : RegNum) (s : State) : Result :=
  runSeq (wordHilo rs rt (fun _ => false) fun a b => halves 32 (a.toNat * b.toNat)) s

/-- DMULT (R592). -/
def execDmult (rs rt : RegNum) (s : State) : Result :=
  runSeq (dwordHilo rs rt (fun _ => false) fun a b => halves 64 (a.toInt * b.toInt)) s

/-- DMULTU (R593). -/
def execDmultu (rs rt : RegNum) (s : State) : Result :=
  runSeq (dwordHilo rs rt (fun _ => false) fun a b => halves 64 (a.toNat * b.toNat)) s

/-! ### R4650 and R4640 -/

/-- MAD (R594). -/
def execMad (rs rt : RegNum) (s : State) : Result :=
  runSeq (accumulate rs rt fun a b => a.toInt * b.toInt) s

/-- MADU (R595). -/
def execMadu (rs rt : RegNum) (s : State) : Result :=
  runSeq (accumulate rs rt fun a b => a.toNat * b.toNat) s

/-- MUL (R596): HI and LO are undefined after it. -/
def execMul (rs rt rd : RegNum) (s : State) : Result :=
  runSeq (do
    require4650
    spoilReads true true
    let a ← readGpr rs
    let b ← readGpr rt
    writeHiloOr true 0 0
    writeGpr rd (sext (lo32 a * lo32 b))) s

end Sys2Proof.Machine
end

