-- ==== Sys2Proof/Machine/System.lean ====
section
/-! DEFINITION. The system instructions: exceptions on purpose, traps, the moves of coprocessor 0 and of the absent
coprocessors, CACHE, the returns from exceptions, WAIT and the TLB instructions (spec/44_system.md R750 to R812,
spec/21_mmu.md R302 to R318). -/

namespace Sys2Proof.Machine

/-! ### Shared operations -/

/-- A conditional trap of two registers (R800): MIPS II. -/
def trapRR (rs rt : RegNum) (test : DWord → DWord → Bool) : Op Unit := do
  requireIsa .mips2
  let a ← readGpr rs
  let b ← readGpr rt
  raiseIf (test a b) .trap

/-- A conditional trap of a register and a sign-extended immediate (R800). -/
def trapRI (rs : RegNum) (imm : BitVec 16) (test : DWord → DWord → Bool) : Op Unit := do
  requireIsa .mips2
  let a ← readGpr rs
  raiseIf (test a (sextImm imm)) .trap

/-- A move from an absent coprocessor: any value (R676, R774, R776). -/
def moveFromAbsent (z : BitVec 2) (rt : RegNum) : Op Unit := do
  requireCop z
  let v ← fresh
  writeGprMoved .mips1 rt v

/-- A move to an absent coprocessor, or an operation of one: nothing happens (R774, R776). -/
def absentNop (z : BitVec 2) : Op Unit := requireCop z

/-- The instruction exists on the R4xxx and R5000 only: Reserved Instruction on the R30xx after Coprocessor Unusable
(R792, R793). -/
def require4xxx : Op Unit := do
  requireCop 0#2
  let old ← look fun s => s.par.cpu.is30xx
  raiseIf old .reservedInstruction

/-! ### The R30xx TLB (R302 to R305) -/

/-- The entry EntryHi and EntryLo describe (R175, R176, R796). -/
def tlb64FromRegs (hi lo : Word) : Tlb64Entry where
  vpn := hi.extractLsb' 12 20
  asid := hi.extractLsb' 6 6
  pfn := lo.extractLsb' 12 20
  n := bit lo 11
  d := bit lo 10
  v := bit lo 9
  g := bit lo 8

/-- EntryHi of an entry (R175, R795). -/
def Tlb64Entry.hiWord (e : Tlb64Entry) : Word := e.vpn ++ e.asid ++ 0#6

/-- EntryLo of an entry (R176, R795). -/
def Tlb64Entry.loWord (e : Tlb64Entry) : Word :=
  e.pfn ++ BitVec.ofBool e.n ++ BitVec.ofBool e.d ++ BitVec.ofBool e.v ++ BitVec.ofBool e.g ++ 0#8

/-- The entry number Index names on the R30xx. -/
def State.index64 (s : State) : BitVec 6 := s.cp0.index.extractLsb' 8 6

/-- Writing entry `i` of the R30xx TLB from EntryHi and EntryLo. -/
def State.writeTlb64 (s : State) (i : BitVec 6) : State :=
  { s with tlb64 := s.tlb64.set i.toNat (tlb64FromRegs (lo32 s.cp0.entryHi) (lo32 s.cp0.entryLo0)) i.isLt }

/-- Reading entry `Index` of the R30xx TLB: EntryHi.ASID is overwritten (R795). -/
def State.readTlb64 (s : State) : State :=
  let e := s.tlb64[s.index64.toNat]'s.index64.isLt
  { s with cp0 := { s.cp0 with entryHi := sext e.hiWord, entryLo0 := sext e.loWord } }

/-- TLBP on the R30xx: after a miss the other bits of Index are free (R305); two matches shut the TLB down (R318).
The access of the instruction right after a TLBP, which R798 does not specify, is made as ever (log entry 13). -/
def probe64 : Op Unit := fun s =>
  match s.tlb64Hits (s.cp0.entryHi.extractLsb' 12 20) (s.cp0.entryHi.extractLsb' 6 6) with
  | [] => .ok ((), { s.useFree with cp0 := { s.cp0 with index := setBit (lo32 s.free) 31 true } })
  | [(_, i)] =>
    .ok ((), { s with cp0 := { s.cp0 with
      index := setBit (setField s.cp0.index 8 (BitVec.ofNat 6 i)) 31 false } })
  | _ => .error (.exc .tlbShutdown s)

/-! ### The Orion TLB (R310 to R313) -/

/-- The page an EntryLo describes (R178). -/
def tlbPageFromReg (lo : DWord) : TlbPage where
  pfn := lo.extractLsb' 6 24
  c := lo.extractLsb' 3 3
  d := bit lo 2
  v := bit lo 1

/-- EntryLo of a page, with the entry's G (R795). -/
def TlbPage.loDword (p : TlbPage) (g : Bool) : DWord :=
  (p.pfn ++ p.c ++ BitVec.ofBool p.d ++ BitVec.ofBool p.v ++ BitVec.ofBool g).setWidth 64

/-- The entry PageMask, EntryHi, EntryLo0 and EntryLo1 describe: the masked bits of VPN2 are cleared, G is the AND of
the two G bits (R310, R796). -/
def tlb48FromRegs (mask : Word) (hi lo0 lo1 : DWord) : Tlb48Entry where
  mask := mask.extractLsb' 13 12
  r := hi.extractLsb' 62 2
  vpn2 := hi.extractLsb' 13 27 &&& ~~~((mask.extractLsb' 13 12).setWidth 27)
  g := bit lo0 0 && bit lo1 0
  asid := hi.extractLsb' 0 8
  even := tlbPageFromReg lo0
  odd := tlbPageFromReg lo1

/-- EntryHi of an entry (R177, R795). -/
def Tlb48Entry.hiDword (e : Tlb48Entry) : DWord := e.r ++ 0#22 ++ (e.vpn2 &&& ~~~(e.mask.setWidth 27)) ++ 0#5 ++ e.asid

/-- Entry `i` of the Orion TLB written from the registers (R796). -/
def State.setTlb48 (s : State) (i : Nat) (h : i < 48) : State :=
  let e := tlb48FromRegs s.cp0.pageMask s.cp0.entryHi s.cp0.entryLo0 s.cp0.entryLo1
  { s with tlb48 := s.tlb48.set i e h }

/-- Writing entry `i` of the Orion TLB (R796). -/
def writeTlb48 (i : Nat) : Op Unit := fun s =>
  if h : i < 48 then
    if pageMaskLegal (s.cp0.pageMask.extractLsb' 13 12) then .ok ((), s.setTlb48 i h)
    else .error (.refused .pageMaskUndefined)
  else .error (.refused .tlbIndexOutOfRange)

/-- The registers an entry of the Orion TLB is read into (R795). -/
def State.loadTlb48 (s : State) (e : Tlb48Entry) : State :=
  { s with cp0 := { s.cp0 with
      pageMask := (e.mask ++ 0#13).setWidth 32
      entryHi := e.hiDword
      entryLo0 := e.even.loDword e.g
      entryLo1 := e.odd.loDword e.g } }

/-- Reading entry `i` of the Orion TLB (R795). -/
def readTlb48 (i : Nat) : Op Unit := fun s =>
  if h : i < 48 then .ok ((), s.loadTlb48 s.tlb48[i]) else .error (.refused .tlbIndexOutOfRange)

/-- TLBP on the Orion TLB CPUs (R798). The access of the instruction right after it, which R313 and R798 do not specify, is
made as ever (DESIGN CHOICE, log entry 13). -/
def probe48 : Op Unit := fun s =>
  match s.tlb48Hits (s.cp0.entryHi.extractLsb' 62 2) (s.cp0.entryHi.extractLsb' 13 27)
      (s.cp0.entryHi.extractLsb' 0 8) with
  | [] => .ok ((), { s with cp0 := { s.cp0 with index := 0x80000000#32 } })
  | [(_, i)] => .ok ((), { s with cp0 := { s.cp0 with index := BitVec.ofNat 32 i } })
  | _ => .error (.refused .tlbMultipleMatch)

/-- A TLB instruction by the member's TLB: nothing happens where there is none (R305, R343, D17). -/
def tlbOp (old new : Op Unit) : Op Unit := do
  requireCop 0#2
  let m ← look fun s => s.par.mmu
  match m with
  | .tlb64 => old
  | .tlb48 => new
  | .fixed | .basebounds => pure ()

/-! ### CACHE (R780 to R790) -/

/-- The sub-opcode is an Index Load Tag: of the I- or D-cache, or of the R5000's secondary cache (R783). -/
def isLoadTag (c : Cpu) (op : BitVec 5) : Bool :=
  op == 4#5 || op == 5#5 || (op == 7#5 && c == .r5000)

/-- The addresses of the four doublewords of the 32-byte block an address is in (R254). -/
def blockWords (pa : Nat) : List Nat := (List.range 4).map fun i => pa / 32 * 32 + 8 * i

/-- A doubleword of memory becomes undefined. -/
def State.freeDouble (s : State) (a : Nat) : State := s.useFree.setMem a 8 s.free

/-- The sub-opcode is Create Dirty Exclusive: of the D-cache (R785). -/
def isCreateDirty (op : BitVec 5) : Bool := op == 0x0D#5

/-- The effect of a cache operation at a physical address with transparent caches: the tag and parity an Index Load Tag
shows are free (R267, R268, R783), at an uncached address too (DESIGN CHOICE, log entry 49), and so are the bytes of a block
created dirty at a cached address, until they are stored to (R266, R785; log entry 49). -/
def cacheEffect (op : BitVec 5) (pa : Nat) (cca : BitVec 3) : Op Unit := change fun s =>
  if isLoadTag s.par.cpu op then
    { s.useFree with cp0 := { s.cp0 with
        tagLo := lo32 s.free, ecc := (s.free.extractLsb' 32 8).setWidth 32 } }
  else if isCreateDirty op && cca != 2#3 then (blockWords pa).foldl State.freeDouble s
  else s

/-! ### Exceptions on purpose -/

/-- SYSCALL (R752, R1025): the code field is for software. -/
def execSyscall (_code : BitVec 20) (s : State) : Result :=
  runOp (raise .syscall) s

/-- BREAK (R753, R1026). -/
def execBrk (_code : BitVec 20) (s : State) : Result :=
  runOp (raise .breakpoint) s

/-- SYNC (R760): every access is made in order already. -/
def execSync (_stype : BitVec 5) (s : State) : Result :=
  runSeq (requireIsa .mips2) s

/-! ### Traps (R801 to R812) -/

/-- TGE (R801). -/
def execTge (rs rt : RegNum) (_code : BitVec 10) (s : State) : Result :=
  runSeq (trapRR rs rt (fun a b => !a.slt b)) s

/-- TGEU (R802). -/
def execTgeu (rs rt : RegNum) (_code : BitVec 10) (s : State) : Result :=
  runSeq (trapRR rs rt (fun a b => !a.ult b)) s

/-- TLT (R803). -/
def execTlt (rs rt : RegNum) (_code : BitVec 10) (s : State) : Result :=
  runSeq (trapRR rs rt (fun a b => a.slt b)) s

/-- TLTU (R804). -/
def execTltu (rs rt : RegNum) (_code : BitVec 10) (s : State) : Result :=
  runSeq (trapRR rs rt (fun a b => a.ult b)) s

/-- TEQ (R805). -/
def execTeq (rs rt : RegNum) (_code : BitVec 10) (s : State) : Result :=
  runSeq (trapRR rs rt (· == ·)) s

/-- TNE (R806). -/
def execTne (rs rt : RegNum) (_code : BitVec 10) (s : State) : Result :=
  runSeq (trapRR rs rt (· != ·)) s

/-- TGEI (R807). -/
def execTgei (rs : RegNum) (imm : BitVec 16) (s : State) : Result :=
  runSeq (trapRI rs imm (fun a b => !a.slt b)) s

/-- TGEIU (R808). -/
def execTgeiu (rs : RegNum) (imm : BitVec 16) (s : State) : Result :=
  runSeq (trapRI rs imm (fun a b => !a.ult b)) s

/-- TLTI (R809). -/
def execTlti (rs : RegNum) (imm : BitVec 16) (s : State) : Result :=
  runSeq (trapRI rs imm (fun a b => a.slt b)) s

/-- TLTIU (R810). -/
def execTltiu (rs : RegNum) (imm : BitVec 16) (s : State) : Result :=
  runSeq (trapRI rs imm (fun a b => a.ult b)) s

/-- TEQI (R811). -/
def execTeqi (rs : RegNum) (imm : BitVec 16) (s : State) : Result :=
  runSeq (trapRI rs imm (· == ·)) s

/-- TNEI (R812). -/
def execTnei (rs : RegNum) (imm : BitVec 16) (s : State) : Result :=
  runSeq (trapRI rs imm (· != ·)) s

/-! ### Moves of coprocessor 0 -/

/-- The general register of an MFC0 or DMFC0, which has a delay up to MIPS I, or up to MIPS III where the parameter says so
(R770, R455, log entry 14). -/
def writeGprFromCp0 (rt : RegNum) (v : DWord) : Op Unit := do
  let p ← look State.par
  writeGprMoved (if p.mfc0Interlocked then .mips1 else .mips3) rt v

/-- MFC0 (R770). -/
def execMfc0 (rt rd : RegNum) (s : State) : Result :=
  runSeq (do
    requireCop 0#2
    let v ← readCp0Word rd
    writeGprFromCp0 rt v) s

/-- MTC0 (R771). -/
def execMtc0 (rt rd : RegNum) (s : State) : Result :=
  runSeq (do
    requireCop 0#2
    let v ← readGpr rt
    writeCp0Word rd v) s

/-- DMFC0 (R772). -/
def execDmfc0 (rt rd : RegNum) (s : State) : Result :=
  runSeq (do
    requireCop 0#2
    require64
    let v ← readCp0Dword rd
    writeGprFromCp0 rt v) s

/-- DMTC0 (R773). -/
def execDmtc0 (rt rd : RegNum) (s : State) : Result :=
  runSeq (do
    requireCop 0#2
    require64
    let v ← readGpr rt
    writeCp0Dword rd v) s

/-! ### Absent coprocessors (R774 to R776) -/

/-- MFC2 (R774). -/
def execMfc2 (rt _rd : RegNum) (s : State) : Result :=
  runSeq (moveFromAbsent 2#2 rt) s

/-- MTC2 (R774). -/
def execMtc2 (_rt _rd : RegNum) (s : State) : Result :=
  runSeq (absentNop 2#2) s

/-- CFC2 (R775). -/
def execCfc2 (rt _rd : RegNum) (s : State) : Result :=
  runSeq (moveFromAbsent 2#2 rt) s

/-- CTC2 (R775). -/
def execCtc2 (_rt _rd : RegNum) (s : State) : Result :=
  runSeq (absentNop 2#2) s

/-- COP2 (R776). -/
def execCop2 (_fn : BitVec 25) (s : State) : Result :=
  runSeq (absentNop 2#2) s

/-- MFC3 (R774). -/
def execMfc3 (rt _rd : RegNum) (s : State) : Result :=
  runSeq (moveFromAbsent 3#2 rt) s

/-- MTC3 (R774). -/
def execMtc3 (_rt _rd : RegNum) (s : State) : Result :=
  runSeq (absentNop 3#2) s

/-- CFC3 (R775). -/
def execCfc3 (rt _rd : RegNum) (s : State) : Result :=
  runSeq (moveFromAbsent 3#2 rt) s

/-- CTC3 (R775). -/
def execCtc3 (_rt _rd : RegNum) (s : State) : Result :=
  runSeq (absentNop 3#2) s

/-- COP3 (R776). -/
def execCop3 (_fn : BitVec 25) (s : State) : Result :=
  runSeq (absentNop 3#2) s

/-! ### CACHE -/

/-- CACHE (R780 to R790): translated as a load, without an alignment requirement. -/
def execCache (base : RegNum) (op : BitVec 5) (offset : BitVec 16) (s : State) : Result :=
  runSeq (do
    requireIsa .mips3
    requireCop 0#2
    let va ← effAddr base offset
    let r ← translate va .load 1
    cacheEffect op r.1 r.2) s

/-! ### Returns and WAIT -/

/-- RFE (R791): R30xx only; HI and LO as R1122 says. A load or store just before it, whose memory reference R791 says the
architecture does not specify, is made as ever in the mode before the RFE (DESIGN CHOICE, log entry 13). -/
def execRfe (s : State) : Result :=
  runSeq (do
    requireCop 0#2
    let new ← look fun s => !s.par.cpu.is30xx
    raiseIf new .reservedInstruction
    change State.popMode) s

/-- ERET (R792): no delay slot. -/
def execEret (s : State) : Result :=
  runOp (do
    require4xxx
    refuseInDelaySlot
    change State.exceptionReturn) s

/-- WAIT (R793): a standby that ends at once (D25). -/
def execWait (s : State) : Result :=
  runSeq (require4xxx) s

/-! ### TLB instructions -/

/-- TLBR (R795). -/
def execTlbr (s : State) : Result :=
  runSeq (tlbOp (change State.readTlb64) do
    let i ← look fun s => (s.cp0.index.extractLsb' 0 6).toNat
    readTlb48 i) s

/-- TLBWI (R796). -/
def execTlbwi (s : State) : Result :=
  runSeq (tlbOp (change fun s => s.writeTlb64 s.index64) do
    let i ← look fun s => (s.cp0.index.extractLsb' 0 6).toNat
    writeTlb48 i) s

/-- TLBWR (R797): the entry Random names. -/
def execTlbwr (s : State) : Result :=
  runSeq (tlbOp (change fun s => s.writeTlb64 s.cp0.random) do
    let i ← look fun s => s.cp0.random.toNat
    writeTlb48 i) s

/-- TLBP (R798). -/
def execTlbp (s : State) : Result :=
  runSeq (tlbOp probe64 probe48) s

end Sys2Proof.Machine
end

