-- ==== Sys2Proof/Machine/Step.lean ====
section
/-! DEFINITION. One step of the machine (spec/60_exceptions.md R1001, R1002), and the state whose next step runs a
given instruction. -/

namespace Sys2Proof.Machine

noncomputable section

/-- The instruction at pc: fetched, decoded, run. -/
def runNext (s : State) : Result :=
  match s.fetch with
  | .ok (.ok i, s') => exec i s'
  | .ok (.bad r, s') => execReject r s'
  | .error e => stopResult e

/-- One step: what comes before the fetch, or the instruction at pc and one step of time. -/
def step (s : State) : Host.Outcome State Fault Refusal :=
  match s.beforeFetch with
  | some r => r
  | none => afterTick (runNext s.ready)

/-- The physical address of pc, for an address of kseg0 or kseg1 (R232 to R236). -/
def State.pcPhysical (s : State) : Nat := (lo32 s.pc).toNat % 0x20000000

/-- The state with an instruction word at the address of the next fetch, in the memory's byte order (R360). -/
def State.withFetchWord (s : State) (nbits w : Nat) : State :=
  let bytes := toBytes s.par.bigEndianMem 4 (BitVec.ofNat 64 (w % 2 ^ nbits))
  { s with mem := memWriteList s.mem (byteAddrs id s.pcPhysical 4) bytes }

end

end Sys2Proof.Machine
end

