-- ==== Sys2Proof/Safety.lean ====
section
/-! DEFINITION. The terms the statements use: what an instruction may touch, what it is to complete, when an operand and
an address are ready, and the invariant of the machine. -/

namespace Sys2Proof.Machine

/-! ### Frames: what a completed instruction leaves alone -/

/-- What an instruction may touch: general registers by number, bytes of memory by physical address, and whether HI and
LO, coprocessor 0 and the TLB, coprocessor 1, and the load link. -/
structure Touch where
  gpr : List RegNum := []
  mem : List Nat := []
  hilo : Bool := false
  cp0 : Bool := false
  fpu : Bool := false
  link : Bool := false
  deriving DecidableEq, Repr

/-- From `s` to `t` nothing changes but what `w` allows, the program counter (R46), and the model's own records of
hazards and free values. The chip's parameters, the isolated caches, the postponed watches and the inputs never
change. -/
structure Frame (w : Touch) (s t : State) : Prop where
  gpr : ∀ r, r ∉ w.gpr → t.gprVal r = s.gprVal r
  mem : ∀ a, a ∉ w.mem → memRead t.mem a = memRead s.mem a
  hilo : w.hilo = false → t.hi = s.hi ∧ t.lo = s.lo
  cp0 : w.cp0 = false → t.cp0 = s.cp0 ∧ t.tlb64 = s.tlb64 ∧ t.tlb48 = s.tlb48 ∧ t.timerIrq = s.timerIrq ∧
    t.halted = s.halted
  fpu : w.fpu = false → t.fpu = s.fpu
  link : w.link = false → t.llBit = s.llBit ∧ t.link = s.link
  rest : t.par = s.par ∧ t.icache = s.icache ∧ t.dcache = s.dcache ∧ t.watchI = s.watchI ∧ t.watchD = s.watchD ∧
    t.inp = s.inp

/-- Control goes on to the next instruction, and after it to the one behind (R46, R620): `PC <- nextPC`, `nextPC <- nextPC + 4`
in the addresses of the mode that the instruction leaves. -/
def Sequential (s t : State) : Prop := t.pc = s.nextPc ∧ t.nextPc = t.pcNorm (s.nextPc + 4) ∧ t.inDelay = false

/-- Instruction `i` completes at `s` with its own effect: it answers a next state, of which `P` holds. -/
def Completes (i : Instr) (s : State) (P : State → Prop) : Prop := ∃ t, exec i s = .next t ∧ P t

/-- Instruction `i` takes exception `e` at `s`: the next state is the one after the entry, from `s` itself but for the
model's counter of free values. What the entry does is said by the statements about takeException. -/
def Traps (i : Instr) (s : State) (e : Exc) : Prop :=
  ∃ n, exec i s = .next (takeException e { s with freeCtr := n })

/-- Instruction `i` is a branch or jump done at `s`: its delay slot is next, and after the slot `target` if it is taken,
else the instruction after the slot (R46, R620). -/
def Branched (s t : State) (taken : Bool) (target : DWord) : Prop :=
  t.pc = s.nextPc ∧ t.inDelay = true ∧ t.nextPc = if taken then target else s.pcNorm (s.nextPc + 4)

/-- A branch-likely is done at `s`: taken as a branch, else its delay slot is nullified (R622). -/
def BranchedLikely (s t : State) (taken : Bool) (target : DWord) : Prop :=
  if taken then Branched s t true target
  else t.pc = s.pcNorm (s.nextPc + 4) ∧ t.inDelay = false ∧ t.nextPc = s.pcNorm (s.nextPc + 8)

/-- The jump or branch at `s`, which links in register `rd` and reads register `rs`, is one whose link write destroys its
operand and that runs again after an exception in its delay slot (R623, log entry 52). -/
def State.Restarts (s : State) (rs rd : RegNum) : Bool :=
  decide (rs = rd ∧ s.pc ∈ s.haz.linkBroken)

/-- What the machine does with the word `w` at `s` (R360, R368): the instruction it decodes to, or the exception of a word
that is none. -/
noncomputable def runWord (s : State) (w : Word) : Result :=
  match decode s.par.cpu.isa w with
  | .ok i => exec i s
  | .bad r => execReject r s

/-- A register that held `old` holds `x` after a write of `v`: its writable bits, those of `mask`, take the value, the others
keep theirs. -/
def Takes {n : Nat} (mask old v x : BitVec n) : Prop := ∀ i, bit x i = if bit mask i then bit v i else bit old i

/-! ### Operands -/

/-- The register can be used: the instruction before did not load it or move to it too late (R673, R770, R831). -/
def State.Settled (s : State) (r : RegNum) : Prop := ¬(s.haz.gpr = some r ∧ r ≠ 0#5)

/-- `v` is what an instruction reads from register `r`: its value where the register is settled, any value otherwise
(D24). -/
def State.Reads (s : State) (r : RegNum) (v : DWord) : Prop := s.Settled r → v = s.gprVal r

/-- The same of an instruction that writes HI, LO or both, where register `r` is not that of an HI/LO read that comes too
close, which is undefined by then (R581). -/
def State.ReadsUnspoiled (s : State) (hi lo : Bool) (r : RegNum) (v : DWord) : Prop :=
  (r ∉ s.spoiled hi lo ∨ r = 0#5) → s.Reads r v

/-- What LWL, LWR, LDL and LDR merge with: the register's value, also right after a load of it, which they may use (R673);
only after a late move from a coprocessor it is any value (R770, R831). -/
def State.ReadsMerged (s : State) (r : RegNum) (v : DWord) : Prop := s.haz.moved = false ∨ s.Settled r → v = s.gprVal r

/-- The member has the instructions of a level (R364). -/
def State.HasIsa (s : State) (l : Isa) : Prop := l.rank ≤ s.par.cpu.isa.rank

/-- 64-bit operations are enabled (R503, R116). -/
def State.Has64 (s : State) : Prop := s.HasIsa .mips3 ∧ ∃ m, s.mode? = some m ∧ s.ops64 m = true

/-- Coprocessor z is usable: kernel mode for coprocessor 0, or its CU bit; coprocessor 3 exists below MIPS III only
(R369, R1028). -/
def State.CopUsable (s : State) (z : BitVec 2) : Prop :=
  (z = 3#2 → s.par.cpu.isa.rank < 3) ∧
    (if z = 0#2 then ∃ m, s.mode? = some m ∧ (m = .kernel ∨ s.cu z = true) else s.cu z = true)

/-- The coprocessor instruction is refused to the program: the CU bit is clear, and for coprocessor 0 the mode is not
kernel. -/
def State.CopUnusable (s : State) (z : BitVec 2) : Prop :=
  (z = 3#2 → s.par.cpu.isa.rank < 3) ∧ s.cu z = false ∧
    (z = 0#2 → ∃ m, s.mode? = some m ∧ m ≠ .kernel)

/-- A load or store of `n` bytes at `va` reaches physical address `pa` with algorithm `cca`: the translation and its
checks succeed, no data cache error is due, and no watch matches. -/
def State.Maps (s : State) (va : DWord) (k : Access) (n pa : Nat) (cca : BitVec 3) : Prop :=
  translate va k n s = .ok ((pa, cca), s) ∧ s.cacheErrorDue true = none ∧ s.dWatchHit va k = false

/-- The data of `n` bytes at `pa` comes from memory: the cache is not isolated and the board answers. -/
def State.Readable (s : State) (pa n : Nat) : Prop := s.isc = false ∧ s.busErrorAt (s.lanes pa n) = false

/-- The host reports a cache parity error, for a data access or for a fetch as bit 31 of the image says, and it is an exception:
an R4xxx or R5000 with SR.DE clear (R164, R269, R1034). -/
def State.MeetsCacheError (s : State) (data : Bool) (info : Word) : Prop :=
  s.inp.cacheError = some info ∧ bit info 31 = data ∧ s.par.cpu.is30xx = false ∧ bit s.cp0.sr 16 = false

/-- DWatch watches the address `va`: it is the doubleword the register names, and its enable, bit `b`, is set (R167). -/
def State.Watches (s : State) (b : Nat) (va : DWord) : Prop :=
  s.par.cpu.is4650 = true ∧ bit s.cp0.dWatch b = true ∧ s.cp0.dWatch.extractLsb' 3 29 = va.extractLsb' 3 29

/-! ### Coprocessor 0 by number -/

/-- The registers of coprocessor 0 and their numbers, by member (R102, R103, R190). -/
def cp0Table (p : Params) : List (RegNum × Cp0Name) :=
  let common : List (RegNum × Cp0Name) := [(8#5, .badVAddr), (12#5, .sr), (13#5, .cause), (14#5, .epc), (15#5, .prId)]
  let eVersion : List (RegNum × Cp0Name) :=
    [(0#5, .index), (1#5, .random), (2#5, .entryLo), (4#5, .context), (10#5, .entryHi)]
  let r3041 : List (RegNum × Cp0Name) := [(2#5, .busCtrl), (3#5, .config), (9#5, .count), (10#5, .portSize), (11#5, .compare)]
  let r4xxx : List (RegNum × Cp0Name) :=
    [(9#5, .count), (11#5, .compare), (16#5, .config), (26#5, .ecc), (27#5, .cacheErr), (28#5, .tagLo), (29#5, .tagHi),
      (30#5, .errorEpc)]
  let orion : List (RegNum × Cp0Name) :=
    [(0#5, .index), (1#5, .random), (2#5, .entryLo0), (3#5, .entryLo1), (4#5, .context), (5#5, .pageMask), (6#5, .wired),
      (10#5, .entryHi), (17#5, .llAddr), (18#5, .watchLo), (19#5, .watchHi), (20#5, .xContext)]
  let r4650 : List (RegNum × Cp0Name) :=
    [(0#5, .iBase), (1#5, .iBound), (2#5, .dBase), (3#5, .dBound), (17#5, .cAlg), (18#5, .iWatch), (19#5, .dWatch)]
  match p.cpu with
  | .r3041 => common ++ r3041
  | .r3051 | .r3052 => common ++ if p.eVersion then eVersion else []
  | .r3071 | .r3081 => common ++ [(3#5, .config)] ++ if p.eVersion then eVersion else []
  | .r36100 => common
  | .r4600 | .r4700 | .r5000 => common ++ r4xxx ++ orion
  | .r4650 | .r4640 => common ++ r4xxx ++ r4650

/-! ### The isolated caches of the R30xx (R261 to R263) -/

/-- The line of the isolated array that the access at `pa` reaches. -/
def State.isolatedIndex (s : State) (pa : Nat) : Nat := pa % s.isolatedBytes / s.isolatedLine

/-- The data of `n` bytes at `pa` in the isolated array, whatever its tag. -/
def State.isolatedVal (s : State) (pa n : Nat) : DWord :=
  ofBytes s.bigEndianCpu (memReadList s.isolated.data (s.isolatedPlaces pa n))

/-- From `s` to `t` coprocessor 0 changes by an isolated load: SR.CM alone, clear where the line is valid and its tag is that
of the address (R262). -/
def IsolatedLoad (s t : State) (pa : Nat) : Prop :=
  let miss := decide (assocGet (s.isolatedIndex pa) s.isolated.lines ≠ some (pa / s.isolatedBytes))
  t.cp0 = { s.cp0 with sr := setBit s.cp0.sr 19 miss } ∧ t.tlb64 = s.tlb64 ∧ t.tlb48 = s.tlb48 ∧
    t.timerIrq = s.timerIrq ∧ t.halted = s.halted

/-- From `s` to `t` an isolated store of `n` bytes of `v` is done (R261): a word goes into the array and makes its line valid
with the tag of the address, a part of a word makes the line invalid; no other byte and no other line of the array changes,
and nothing else but what every instruction changes, memory included. -/
def IsolatedStore (s t : State) (pa n : Nat) (v : DWord) : Prop :=
  ∃ c : CacheArray, Frame {} (s.setIsolated c) t ∧
    (n = 4 → memReadList c.data (s.isolatedPlaces pa 4) = toBytes s.bigEndianCpu 4 v ∧
      assocGet (s.isolatedIndex pa) c.lines = some (pa / s.isolatedBytes)) ∧
    (n ≠ 4 → c.data = s.isolated.data ∧ assocGet (s.isolatedIndex pa) c.lines = none) ∧
    (∀ a, a ∉ s.isolatedPlaces pa n → memRead c.data a = memRead s.isolated.data a) ∧
    ∀ l, l ≠ s.isolatedIndex pa → assocGet l c.lines = assocGet l s.isolated.lines

/-! ### Reset -/

/-- What the spec gives the state after any reset, by member (R1101 to R1103). -/
def State.GivenAfterReset (s : State) : Prop :=
  s.bev = true ∧ s.mode? = some .kernel ∧ s.interruptReady = false ∧
    (s.par.cpu.is30xx = true → s.ts = (s.par.mmu != .tlb64) ∧ (s.par.mmu = .tlb64 → s.cp0.random = 63#6)) ∧
    (s.par.cpu.is30xx = false → s.erl = true ∧ bit s.cp0.sr 20 = false) ∧
    (s.par.cpu.isOrionTlb = true → s.cp0.random = 47#6 ∧ s.cp0.wired = 0) ∧
    (s.par.cpu.is4650 = true → s.cp0.cAlg = 0x22233333#32 ∧ bit s.cp0.iWatch 0 = false ∧
      s.cp0.dWatch.extractLsb' 1 2 = 0#2 ∧ s.cp0.sr.extractLsb' 23 2 = 0#2) ∧
    (s.par.cpu.is3071 = true → s.cp0.config.extractLsb' 26 3 = 3#3 ∧ bit s.cp0.config 31 = false) ∧
    (s.par.cpu = .r3041 → s.cp0.compare = 0x00FFFFFF#32)

/-! ### Floating point -/

/-- The FP instruction runs on formatted operands: an FPA is there and usable, the member has the level and the formats,
the numbers name FPRs, and the contents are of the format (R820, R830, R896, R897, R824). -/
def State.FpRuns (s : State) (lvl : Isa) (f g : Fmt) (srcs dst : List RegNum) : Prop :=
  s.par.cpu.hasFpa = true ∧ s.CopUsable 1#2 ∧ s.HasIsa lvl ∧ fmtAbsent s.par.cpu f = false ∧
    fmtAbsent s.par.cpu g = false ∧ (∀ r, r ∈ srcs ++ dst → s.validFpr r = true) ∧
    (∀ r, r ∈ srcs → s.tagFits r f = true)

/-- No FP operand and not FCR31 is in flight (R831). -/
def State.FpSettled (s : State) (f : Fmt) (srcs : List RegNum) : Prop :=
  s.haz.fcr ≠ some 31#5 ∧ ∀ r, r ∈ srcs → s.fgrHazard (s.fprRegs r f) = false

/-- The FP instruction delivers its result: the member does not decline it and no condition that it meets is enabled
(R891 steps 3 and 4). -/
def State.FpDelivers (s : State) (o : FpOut) (denorm nan cmp extra : Bool) : Prop :=
  fpDeclines s.par s.fpu.fcr31 denorm nan cmp extra o = false ∧ o.e &&& enablesOf s.fpu.fcr31 = 0

/-- FPR `r` holds the value `v` in a format: a doubleword, or the low word of the register. -/
def State.HoldsFpr (s : State) (r : RegNum) (f : Fmt) (v : DWord) : Prop :=
  if f.wide then s.fgrDouble r = v else lo32 (s.fgr r) = lo32 v

/-- From `s` to `t` no FGR changes but those of FPR `r` (its pair where pairs make one FPR). -/
def FgrsKept (s t : State) (r : RegNum) : Prop :=
  ∀ q, q ≠ r → (s.singleFgr = true ∨ q ≠ partner r) → t.fgr q = s.fgr q

/-- The FP instruction delivered `o` to FPR `fd` in format `g` (R891 step 5): the result, or any quiet NaN where a quiet
NaN operand makes it one (R894); the conditions in Cause and Flags; no other FGR and no other bit of FCR31. -/
def Delivered (s t : State) (fd : RegNum) (g : Fmt) (o : FpOut) : Prop :=
  (if o.anyNan then ∃ x, t.HoldsFpr fd g (nanOut g x) else t.HoldsFpr fd g o.bits) ∧
    t.fpu.fcr31 = addFlags (setCauseBits s.fpu.fcr31 o.e false) o.e ∧ FgrsKept s t fd ∧
    Frame { fpu := true } s t ∧ Sequential s t

/-! ### Floating-point exceptions -/

/-- An FP instruction that answers `r` at `s` signals the floating-point exception with FCR31 as `P` says (R891 step 6): an R4xxx
or R5000 takes the exception, an R3081 the interrupt of the line that Config.FPInt gives the FPA, at this instruction, where
SR unmasks it; the registers are as they were. Where that line is masked the R3081 goes on without a result, with any Cause
bits. -/
def State.FpSignals (s : State) (r : Result) (P : Word → Prop) : Prop :=
  ∃ u : State, P u.fpu.fcr31 ∧ u.fpu.fgr = s.fpu.fgr ∧ Frame { fpu := true } s u ∧
    u.pc = s.pc ∧ u.nextPc = s.nextPc ∧ u.inDelay = s.inDelay ∧
    let line := (s.cp0.config.extractLsb' 26 3).toNat
    let unmasked := line < 6 ∧ bit s.cp0.sr 0 = true ∧ bit s.cp0.sr (10 + line) = true
    (s.par.cpu.is30xx = false → r = .next (takeException .floatingPoint u)) ∧
    (s.par.cpu.is30xx = true → unmasked → r = .next (takeException .interrupt u)) ∧
    (s.par.cpu.is30xx = true → ¬unmasked → ∃ t, r = .next t ∧ t.fpu.fgr = s.fpu.fgr ∧
      (∀ i, i < 12 ∨ 16 < i → bit t.fpu.fcr31 i = bit u.fpu.fcr31 i) ∧ Frame { fpu := true } s t ∧ Sequential s t)

/-- The instruction is an Unimplemented Operation (R891 step 3): UnImp is set and the exception signalled; Flags, Enables, the
condition codes and the mode are kept, the Cause bits are not said. -/
def State.FpUnimplemented (s : State) (r : Result) : Prop :=
  s.FpSignals r fun w => bit w 17 = true ∧ ∀ i, i < 12 ∨ 17 < i → bit w i = bit s.fpu.fcr31 i

/-- Where the instruction that answers `r` is declined, an Unimplemented Operation; where not and an enabled condition of `e` is
met, the exception with the conditions in Cause and Flags unchanged (R891 steps 3 and 5). -/
def State.FpEnds (s : State) (r : Result) (declined : Bool) (e : BitVec 5) : Prop :=
  (declined = true → s.FpUnimplemented r) ∧
    (declined = false → e &&& enablesOf s.fpu.fcr31 ≠ 0 → s.FpSignals r (· = setCauseBits s.fpu.fcr31 e false))

/-- The FP instruction is there, but not with these formats and registers: the R4650 computes in no 64-bit format (R897), the
R3081 traps an odd register (R896). -/
def State.FpRejects (s : State) (lvl : Isa) (f g : Fmt) (regs : List RegNum) : Prop :=
  s.par.cpu.hasFpa = true ∧ s.CopUsable 1#2 ∧ s.HasIsa lvl ∧
    ((s.par.cpu.is4650 = true ∧ (f.wide = true ∨ g.wide = true)) ∨
      (s.par.cpu.is30xx = true ∧ ∃ r ∈ regs, bit r 0 = true))

/-! ### Floating-point results as real numbers -/

/-- The number `(-1)^neg * m * 2^e` (R825). -/
noncomputable def finValue (neg : Bool) (m : Nat) (e : Int) : ℝ := (if neg then -1 else 1) * ((m : ℝ) * 2 ^ e)

/-- `o` is what an operation whose exact result is `x` gives in a format and a rounding mode (R890, R898). An exact zero is a
zero with the sign `zero`. Otherwise `q * 2^t`, with one bit more than the mantissa field, is `x` rounded in magnitude:
less than a unit away, by the mode the nearest one, of two equally near the even one, or the one on the side the mode
names. Where it is above the largest finite number, Overflow and Inexact, and the infinity or the largest finite number
by the mode; where it is below the smallest normal number, a tiny result (R895); else it is the number delivered,
Inexact where it differs from `x`. -/
def Rounded (f : FFmt) (rm : Rm) (x : ℝ) (zero : Bool) (o : FpOut) : Prop :=
  if x = 0 then o = .exact (fZero f zero)
  else ∃ (q : Nat) (t : Int),
    let r : ℝ := (q : ℝ) * 2 ^ t
    let a : ℝ := |x|
    let neg : Bool := decide (x < 0)
    2 ^ f.mbits * 2 ^ t ≤ a ∧ a < 2 ^ (f.mbits + 1) * 2 ^ t ∧ |r - a| < 2 ^ t ∧
      (rm = .nearest → 2 * |r - a| ≤ 2 ^ t ∧ (2 * |r - a| = 2 ^ t → q % 2 = 0)) ∧
      (rm = .zero → r ≤ a) ∧ (rm = .up → if neg then r ≤ a else a ≤ r) ∧
      (rm = .down → if neg then a ≤ r else r ≤ a) ∧
      if 2 ^ (f.bias + 1) ≤ r then
        o = .cond (if rm = .nearest ∨ (rm = .up ∧ neg = false) ∨ (rm = .down ∧ neg = true) then fInf f neg
          else fHuge f neg) (condO ||| condI)
      else if r < 2 ^ (1 - (f.bias : Int)) then
        o = { bits := fZero f neg, e := condU ||| condI, anyNan := false, tiny := true }
      else (∃ m e, unpackF f o.bits = .fin neg m e ∧ 2 ^ f.mbits ≤ m ∧ (m : ℝ) * 2 ^ e = r) ∧
        o = .cond o.bits (if r = a then 0 else condI)

/-- `o` is what a conversion of the number `x` to an integer of `n` bits gives in a rounding mode (R890, R932, R933): the integer
less than one away that the mode names (the nearest, of two equally near the even one; the one toward zero; the one above;
the one below), Inexact where it differs; where it does not fit, Invalid with the largest integer. -/
def RoundedInt (n : Nat) (rm : Rm) (x : ℝ) (o : FpOut) : Prop :=
  ∃ i : Int, |(i : ℝ) - x| < 1 ∧
    (rm = .nearest → 2 * |(i : ℝ) - x| ≤ 1 ∧ (2 * |(i : ℝ) - x| = 1 → i % 2 = 0)) ∧
    (rm = .zero → |(i : ℝ)| ≤ |x|) ∧ (rm = .up → x ≤ i) ∧ (rm = .down → (i : ℝ) ≤ x) ∧
    o = if -2 ^ (n - 1) ≤ i ∧ i < 2 ^ (n - 1) then .cond (BitVec.ofInt 64 i) (if (i : ℝ) = x then 0 else condI)
      else .cond (BitVec.ofNat 64 (2 ^ (n - 1) - 1)) condV

/-- `o` is a finite number within `k` units in the last place of `x` in a format (R907, R908): a unit is `2^t`, by the magnitude
of `x`, or the one of the smallest numbers. -/
def Near (f : FFmt) (k : Nat) (x : ℝ) (o : FpOut) : Prop :=
  ∃ (neg : Bool) (m : Nat) (e t : Int), unpackF f o.bits = .fin neg m e ∧
    (2 ^ f.mbits * 2 ^ t ≤ |x| ∨ t = 1 - (f.bias : Int) - f.mbits) ∧ |x| < 2 ^ (f.mbits + 1) * 2 ^ t ∧
    |finValue neg m e - x| ≤ k * 2 ^ t

/-! ### The invariant -/

/-- The bits of SR that can be set: the others read zero (R101, R105, R113, R120). -/
def srBits (p : Params) : Word := if p.cpu.is30xx then 0xF27FFF3F#32 else srMask p

/-- The bits of Cause that can be set besides the live IP[7:2] (R123, R125). -/
def causeBits (p : Params) : Word := if p.cpu.is4650 then 0xB380037C#32 else 0xB000037C#32

/-- What holds of the machine between any two steps. -/
structure State.Inv (s : State) : Prop where
  /-- memory is in canonical form -/
  mem : memWf s.mem = true
  /-- so are the two private arrays, and their lines rise -/
  caches : memWf s.icache.data = true ∧ memWf s.dcache.data = true ∧ assocRising 0 s.icache.lines = true ∧
    assocRising 0 s.dcache.lines = true
  /-- the reserved bits of SR read zero (R101) -/
  sr : s.cp0.sr &&& ~~~srBits s.par = 0
  /-- the reserved bits of Cause read zero (R101) -/
  cause : s.cp0.cause &&& ~~~causeBits s.par = 0
  /-- the reserved bits of FCR31 read zero (R827) -/
  fcr31 : s.fpu.fcr31 &&& ~~~fcr31Mask s.par.cpu = 0
  /-- Random stays between Wired and 47, on an E version between 8 and 63 (R172, R315) -/
  random : match s.par.mmu with
    | .tlb64 => 8 ≤ s.cp0.random.toNat
    | .tlb48 => s.cp0.wired.toNat ≤ 47 → s.cp0.wired.toNat ≤ s.cp0.random.toNat ∧ s.cp0.random.toNat ≤ 47
    | _ => True
  /-- every entry of the Orion TLB has a page size of Table 6.5, and the masked bits of its VPN2 are clear (R310,
  R311) -/
  tlb48 : ∀ e, e ∈ s.tlb48.toList → pageMaskLegal e.mask = true ∧ e.vpn2 &&& e.mask.setWidth 27 = 0
  /-- the R3041's Count and Compare have 24 bits (R140) -/
  timer : s.par.cpu = .r3041 → s.cp0.count.toNat < 0x1000000 ∧ s.cp0.compare.toNat < 0x1000000
  /-- only the members with Config.Halt stand still (R150) -/
  halted : s.halted = true → s.par.cpu.is3071 = true

end Sys2Proof.Machine
end

