-- ==== Sys2Proof/Certificates/Slice0/Obligations.lean ====
section
/-! DEFINITION. The statements for the provers. Each is a definition of a proposition; the terms they are made of
stand in Safety.lean. -/

open Sys2Proof Sys2Proof.Machine

/-! ### Encoding -/

/-- Decoding an encoded well-formed instruction gives it back, at every level, with every operand. -/
def Obligations.DecodeOfEncode : Prop :=
  ∀ (isa : Isa) (i : Instr), i.wellFormed isa = true → decode isa (encode i) = .ok i

/-- Words of the spec's own examples, one of each family, decode to the instruction printed beside them
(95_test_vectors.md). -/
def Obligations.SpecWordsDecode : Prop :=
  decode .mips1 0x00221820#32 = .ok (.add 1#5 2#5 3#5) ∧ decode .mips1 0x24238000#32 = .ok (.addiu 1#5 3#5 0x8000#16) ∧
  decode .mips1 0x0022001A#32 = .ok (.div 1#5 2#5) ∧ decode .mips1 0x14220003#32 = .ok (.bne 1#5 2#5 3#16) ∧
  decode .mips1 0x8C22FFFC#32 = .ok (.lw 1#5 2#5 0xFFFC#16) ∧ decode .mips3 0xB0220005#32 = .ok (.sdl 1#5 2#5 5#16) ∧
  decode .mips1 0x40026000#32 = .ok (.mfc0 2#5 12#5) ∧ decode .mips1 0x42000010#32 = .ok .rfe ∧
  decode .mips3 0xBD140000#32 = .ok (.cache 8#5 0x14#5 0#16) ∧ decode .mips3 0x042CFFFF#32 = .ok (.teqi 1#5 0xFFFF#16) ∧
  decode .mips1 0x44C8F800#32 = .ok (.ctc1 8#5 31#5) ∧ decode .mips1 0x4622003E#32 = .ok (.cLeD 2#5 0#5 0#3) ∧
  decode .mips4 0x00211801#32 = .ok (.movt 1#5 0#3 3#5)

/-! ### The machine -/

/-- What the spec gives every member after reset (R57, R1101 to R1103): the reset vector; SR.BEV set; kernel mode with
interrupts disabled; R30xx: TS tells whether there is a TLB, and Random is 63 where there is one; R4xxx and R5000: ERL
set, SR.SR clear; Orion TLB CPUs: Random 47, Wired 0; the R4650's CAlg, IWatch and DWatch, and its caches unlocked; the
R3041's Compare; Config.FPInt = 3 and Lock = 0 on the R3071 and R3081. The reset of a running machine gives the same and
leaves the general registers, HI, LO, the FPU, memory and the TLB as they are; the address it met is in EPC or ErrorEPC (R1100
to R1104; EPC of an R30xx met in a delay slot: log entry 51); that it ends a standstill is the model's reading (DEDUCED, log
entry 51). Soft reset and NMI, of the R4xxx and R5000, set ErrorEPC, ERL, SR.SR and
BEV and go to the reset vector (R1035, R1036, R1107). A step takes a reset before a soft reset, and that before an NMI. -/
def Obligations.ResetState : Prop :=
  (∀ p : Params,
    let s := State.resetOf p
    s.pc = 0xFFFFFFFFBFC00000#64 ∧ s.inDelay = false ∧ s.GivenAfterReset) ∧
  (∀ s : State,
    let t := coldReset s
    t.pc = 0xFFFFFFFFBFC00000#64 ∧ t.nextPc = t.pcNorm (t.pc + 4) ∧ t.inDelay = false ∧ t.GivenAfterReset ∧
      (s.par.cpu.is30xx = true → t.cp0.epc = s.pc) ∧
      (s.par.cpu.is30xx = false → t.cp0.errorEpc = if s.inDelay then s.pcNorm (s.pc - 4) else s.pc) ∧
      t.par = s.par ∧ t.gpr = s.gpr ∧ t.hi = s.hi ∧ t.lo = s.lo ∧ t.fpu = s.fpu ∧ t.mem = s.mem ∧ t.tlb64 = s.tlb64 ∧
      t.tlb48 = s.tlb48 ∧ t.halted = false ∧ t.inp = { s.inp with coldReset := false }) ∧
  (∀ s : State,
    let t := softReset s
    t.pc = 0xFFFFFFFFBFC00000#64 ∧ t.nextPc = t.pcNorm (t.pc + 4) ∧ t.inDelay = false ∧ t.erl = true ∧ t.bev = true ∧
      bit t.cp0.sr 20 = true ∧ (∀ i, i ∉ [2, 20, 22] → bit t.cp0.sr i = bit s.cp0.sr i) ∧
      t.cp0 = { s.cp0 with errorEpc := if s.inDelay then s.pcNorm (s.pc - 4) else s.pc, sr := t.cp0.sr } ∧
      t.tlb48 = s.tlb48 ∧ Frame { cp0 := true } s t) ∧
  ∀ s : State,
    (s.inp.coldReset = true → step s = .next (coldReset s).tickTime) ∧
    (s.inp.coldReset = false → s.par.cpu.is30xx = false →
      (s.inp.softReset = true →
        step s = .next (softReset { s with inp := { s.inp with softReset := false } }).tickTime) ∧
      (s.inp.softReset = false → s.inp.nmi = true →
        step s = .next (softReset { s with inp := { s.inp with nmi := false } }).tickTime))

/-- The invariant holds right after reset, of every chip: with the values the model chose (DESIGN CHOICE, log entries 5
and 6) for what the spec gives no reset value. -/
def Obligations.ResetMeetsInvariant : Prop := State.reset.Inv ∧ ∀ p : Params, (State.resetOf p).Inv

/-- Every step keeps the invariant, from any state. -/
def Obligations.StepKeepsInvariant : Prop := ∀ s t : State, s.Inv → step s = .next t → t.Inv

/-- A step runs the decoded instruction: where nothing comes before the fetch, the fetch address translates, nothing
watches it, no instruction cache error is due and the board answers, and the word in memory at pc, in the memory's byte
order, decodes for the member to `i`, then the step is `exec i` at that state (no longer halted), followed by one step
of time (R46, R360). What time does: it changes nothing but Count, Random and the timer's request. On an R4xxx or R5000 Count
rises by the number of ticks of a step, a parameter (decision D8 of the spec, log entry 36), and the request is raised where it passes
Compare on the way (R141, R143); on the R3041 every tick adds one within 24 bits, or wraps Count to zero where it has reached
Compare and asserts TC, which stays or, with BusCtrl.TC clear, pulses (R140). That Count goes to zero one tick after it equals
Compare, and that the pulse, of which R140 gives no length, lasts one tick, is the model's reading (DEDUCED, log entry 35); that a
Count above Compare counts on until it equals Compare is its choice (DESIGN CHOICE, log entry 35). The other members have no Count. Random of an Orion TLB CPU counts down and from Wired goes to 47, but not for an instruction that ended in an exception or wrote Wired
(R172, R315); that of an R30xx is any value from 8 on. A step that takes a request, a watch or an interrupt ticks Count and
leaves Random (log entry 36). -/
def Obligations.StepRunsDecodedInstruction : Prop :=
  (∀ s : State,
    let t := s.tick
    let n := s.par.countTicksPerStep
    t = { s with
        cp0 := { s.cp0 with count := t.cp0.count, random := t.cp0.random }, timerIrq := t.timerIrq, freeCtr := t.freeCtr } ∧
      s.tickTime = { s with cp0 := { s.cp0 with count := t.cp0.count }, timerIrq := t.timerIrq } ∧
      (∀ s', afterTick (.next s') = .next s'.tick) ∧
      (s.par.cpu.is30xx = false → t.cp0.count = s.cp0.count + BitVec.ofNat 32 n ∧
        (t.timerIrq = true ↔ s.timerIrq = true ∨ ∃ j, 1 ≤ j ∧ j ≤ n ∧ s.cp0.count + BitVec.ofNat 32 j = s.cp0.compare)) ∧
      (s.par.cpu = .r3041 → s.tickTime = State.tickCount^[n] s ∧
        (s.cp0.count = s.cp0.compare → s.tickCount.cp0.count = 0 ∧ s.tickCount.timerIrq = true) ∧
        (s.cp0.count ≠ s.cp0.compare → s.tickCount.cp0.count = (s.cp0.count + 1) &&& 0x00FFFFFF#32 ∧
          s.tickCount.timerIrq = (s.timerIrq && bit s.cp0.busCtrl 12))) ∧
      (s.par.cpu.is30xx = true → s.par.cpu ≠ .r3041 → t.cp0.count = s.cp0.count ∧ t.timerIrq = s.timerIrq) ∧
      (s.par.mmu = .tlb48 → (s.haz.uncounted = true → t.cp0.random = s.cp0.random) ∧
        (s.haz.uncounted = false → s.cp0.wired.toNat ≤ s.cp0.random.toNat → s.cp0.random.toNat ≤ 47 →
          t.cp0.random = if s.cp0.random = s.cp0.wired then 47#6 else s.cp0.random - 1)) ∧
      (s.par.mmu = .tlb64 → 8 ≤ t.cp0.random.toNat) ∧
      (s.par.mmu ≠ .tlb48 → s.par.mmu ≠ .tlb64 → t.cp0.random = s.cp0.random)) ∧
  ∀ (s : State) (pa : Nat) (cca : BitVec 3) (i : Instr),
    s.beforeFetch = none →
    translate s.pc .fetch 4 s.ready = .ok ((pa, cca), s.ready) →
    s.iWatchHit s.pc = false → s.ready.cacheErrorDue false = none →
    s.busErrorAt [pa, pa + 1, pa + 2, pa + 3] = false →
    decode s.par.cpu.isa (lo32 (ofBytes s.par.bigEndianMem
      [memRead s.mem pa, memRead s.mem (pa + 1), memRead s.mem (pa + 2), memRead s.mem (pa + 3)])) = .ok i →
    step s = afterTick (exec i s.ready)

/-- A word the tables call reserved for the member takes Reserved Instruction (R364 to R368, R372, R1027): the cells that
are `*` at every level; those of a level above the member's, but for the coprocessors' own maps; the opcodes of
coprocessor 3 from MIPS III on (in MIPS IV all but SWC3 have another use); SPECIAL2 but for the R4650's three functions
on an R4650. On a MIPS-1 member the cells of REGIMM that carry the dagger do so by decision D20 of the spec. -/
def Obligations.ReservedWordTraps : Prop :=
  ∀ (s : State) (w : Word),
    let op := (w.extractLsb' 26 6).toNat
    let fn := (w.extractLsb' 0 6).toNat
    let rt := (w.extractLsb' 16 5).toNat
    let lvl := s.par.cpu.isa.rank
    (op ∈ [0x1D, 0x1E, 0x1F] ∨ (op = 0x1C ∧ (s.par.cpu.is4650 = false ∨ fn ∉ [0, 1, 2])) ∨
      (op = 0 ∧ fn ∈ [0x05, 0x0E, 0x15, 0x28, 0x29, 0x35, 0x37, 0x39, 0x3D]) ∨
      (op = 1 ∧ rt ∈ [4, 5, 6, 7, 13, 15, 20, 21, 22, 23, 24, 25, 26, 27, 28, 29, 30, 31]) ∨
      (lvl < 2 ∧ (op ∈ [0x14, 0x15, 0x16, 0x17, 0x30, 0x35, 0x36, 0x38, 0x3D, 0x3E] ∨
        (op = 0 ∧ fn ∈ [0x0F, 0x30, 0x31, 0x32, 0x33, 0x34, 0x36]) ∨
        (op = 1 ∧ rt ∈ [2, 3, 8, 9, 10, 11, 12, 14, 18, 19]))) ∨
      (lvl < 3 ∧ (op ∈ [0x18, 0x19, 0x1A, 0x1B, 0x27, 0x2C, 0x2D, 0x2F, 0x34, 0x37, 0x3C, 0x3F] ∨
        (op = 0 ∧ fn ∈ [0x14, 0x16, 0x17, 0x1C, 0x1D, 0x1E, 0x1F, 0x2C, 0x2D, 0x2E, 0x2F, 0x38, 0x3A, 0x3B, 0x3C, 0x3E,
          0x3F]))) ∨
      (lvl < 4 ∧ op = 0 ∧ fn ∈ [0x01, 0x0A, 0x0B]) ∨ (lvl = 3 ∧ op ∈ [0x13, 0x33]) ∨ (3 ≤ lvl ∧ op = 0x3B)) →
    runWord s w = .next (takeException .reservedInstruction s)

/-- Reserved Instruction of an instruction above the member's level (R364), where the coprocessor it belongs to is usable,
and of every doubleword instruction where the member or the mode has no 64-bit operations: below MIPS III, in
supervisor mode with SR.SX clear, in user mode with SR.UX clear (R116, R369, R503). -/
def Obligations.ReservedBelowLevel : Prop :=
  ∀ (s : State) (q r t u : RegNum) (sa : BitVec 5) (imm : BitVec 16) (cc : BitVec 3),
    let ri (i : Instr) : Prop := exec i s = .next (takeException .reservedInstruction s)
    ((¬s.HasIsa .mips3 ∨ ∃ m, s.mode? = some m ∧ s.ops64 m = false) →
      (∀ i ∈ [Instr.dadd q r t, .daddu q r t, .dsub q r t, .dsubu q r t, .daddi q r imm, .daddiu q r imm, .dsll q r sa,
          .dsrl q r sa, .dsra q r sa, .dsll32 q r sa, .dsrl32 q r sa, .dsra32 q r sa, .dsllv q r t, .dsrlv q r t,
          .dsrav q r t, .dmult q r, .dmultu q r, .ddiv q r, .ddivu q r, .ld q r imm, .lwu q r imm, .sd q r imm,
          .ldl q r imm, .ldr q r imm, .sdl q r imm, .sdr q r imm, .lld q r imm, .scd q r imm], ri i) ∧
        (s.CopUsable 0#2 → ∀ i ∈ [Instr.dmfc0 q r, .dmtc0 q r], ri i) ∧
        (s.CopUsable 1#2 → ∀ i ∈ [Instr.dmfc1 q r, .dmtc1 q r], ri i)) ∧
      (¬s.HasIsa .mips2 →
        (∀ i ∈ [Instr.ll q r imm, .sc q r imm, .sync sa, .ldc1 q r imm, .sdc1 q r imm, .ldc2 q r imm, .sdc2 q r imm],
          ri i) ∧
        (s.CopUsable 0#2 → ∀ i ∈ [Instr.bc0fl imm, .bc0tl imm], ri i) ∧
        (s.CopUsable 1#2 → ∀ i ∈ [Instr.bc1fl cc imm, .bc1tl cc imm, .sqrtS q r, .sqrtD q r, .roundWS q r, .roundWD q r,
          .truncWS q r, .truncWD q r, .ceilWS q r, .ceilWD q r, .floorWS q r, .floorWD q r], ri i) ∧
        (s.CopUsable 2#2 → ∀ i ∈ [Instr.bc2fl imm, .bc2tl imm], ri i)) ∧
      (¬s.HasIsa .mips3 → ri (.cache q sa imm) ∧
        (s.CopUsable 0#2 → ∀ i ∈ [Instr.eret, .wait], ri i) ∧
        (s.CopUsable 1#2 → ∀ i ∈ [Instr.cvtSL q r, .cvtDL q r, .cvtLS q r, .cvtLD q r, .roundLS q r, .roundLD q r,
          .truncLS q r, .truncLD q r, .ceilLS q r, .ceilLD q r, .floorLS q r, .floorLD q r], ri i)) ∧
      (¬s.HasIsa .mips4 →
        (∀ i ∈ [Instr.movz q r t, .movn q r t, .movf q cc r, .movt q cc r, .pref q sa imm, .prefx q r sa, .lwxc1 q r t,
          .ldxc1 q r t, .swxc1 q r t, .sdxc1 q r t, .maddS q r t u, .maddD q r t u, .msubS q r t u, .msubD q r t u,
          .nmaddS q r t u, .nmaddD q r t u, .nmsubS q r t u, .nmsubD q r t u], ri i) ∧
        (s.CopUsable 1#2 → ∀ i ∈ [Instr.movfS cc q r, .movtS cc q r, .movnS t q r, .movzS t q r, .movfD cc q r,
          .movtD cc q r, .movnD t q r, .movzD t q r, .recipS q r, .recipD q r, .rsqrtS q r, .rsqrtD q r], ri i))

/-- Register 0 reads zero and discards writes; every other register reads what was written, as wide as the member's
registers are (R40, R42). -/
def Obligations.RegisterZero : Prop :=
  ∀ (s : State) (r q : RegNum) (v : DWord),
    s.gprVal 0#5 = 0 ∧ s.setGpr 0#5 v = s ∧
      (r ≠ 0#5 → (s.setGpr r v).gprVal r = s.narrow v) ∧ (q ≠ r → (s.setGpr r v).gprVal q = s.gprVal q)

/-! ### Arithmetic and logic -/

/-- ADDU, SUBU and ADDIU: 32-bit sum or difference, sign-extended, never a trap; where an operand is no word the result
is undefined and the rest as said (R512, R513, R515, R501). -/
def Obligations.WordArithmetic : Prop :=
  (∀ row ∈ [(Instr.addu, fun a b : Word => a + b), (Instr.subu, fun a b : Word => a - b)],
    ∀ (s : State) (rs rt rd : RegNum), ∃ a b, s.Reads rs a ∧ s.Reads rt b ∧ Completes (row.1 rs rt rd) s fun t =>
      (rd ≠ 0#5 → isWord a = true → isWord b = true → t.gprVal rd = (row.2 (lo32 a) (lo32 b)).signExtend 64) ∧
        Frame { gpr := [rd] } s t ∧ Sequential s t) ∧
  ∀ (s : State) (rs rt : RegNum) (imm : BitVec 16), ∃ a, s.Reads rs a ∧ Completes (.addiu rs rt imm) s fun t =>
    (rt ≠ 0#5 → isWord a = true → t.gprVal rt = (lo32 a + imm.signExtend 32).signExtend 64) ∧
      Frame { gpr := [rt] } s t ∧ Sequential s t

/-- ADD, SUB and ADDI on words: the sum or difference where it fits in 32 bits, else Integer Overflow whatever the
destination is, which keeps its value (R502, R510, R511, R514). -/
def Obligations.TrappingWordArithmetic : Prop :=
  (∀ row ∈ [(Instr.add, fun a b : Int => a + b), (Instr.sub, fun a b : Int => a - b)],
    ∀ (s : State) (rs rt rd : RegNum), ∃ a b, s.Reads rs a ∧ s.Reads rt b ∧
      (isWord a = true → isWord b = true →
        let x := row.2 (lo32 a).toInt (lo32 b).toInt
        (-0x80000000 ≤ x → x < 0x80000000 → Completes (row.1 rs rt rd) s fun t =>
          (rd ≠ 0#5 → t.gprVal rd = (BitVec.ofInt 32 x).signExtend 64) ∧
            Frame { gpr := [rd] } s t ∧ Sequential s t) ∧
        (x < -0x80000000 ∨ 0x80000000 ≤ x → Traps (row.1 rs rt rd) s .overflow)) ∧
      ∃ t, exec (row.1 rs rt rd) s = .next t) ∧
  ∀ (s : State) (rs rt : RegNum) (imm : BitVec 16), ∃ a, s.Reads rs a ∧
    (isWord a = true →
      let x := (lo32 a).toInt + imm.toInt
      (-0x80000000 ≤ x → x < 0x80000000 → Completes (.addi rs rt imm) s fun t =>
        (rt ≠ 0#5 → t.gprVal rt = (BitVec.ofInt 32 x).signExtend 64) ∧
          Frame { gpr := [rt] } s t ∧ Sequential s t) ∧
      (x < -0x80000000 ∨ 0x80000000 ≤ x → Traps (.addi rs rt imm) s .overflow)) ∧
    ∃ t, exec (.addi rs rt imm) s = .next t

/-- DADDU, DSUBU and DADDIU, DADD, DSUB and DADDI where 64-bit operations are enabled (R516 to R521, R502). -/
def Obligations.DoublewordArithmetic : Prop :=
  (∀ row ∈ [(Instr.daddu, fun a b : DWord => a + b), (Instr.dsubu, fun a b : DWord => a - b)],
    ∀ (s : State) (rs rt rd : RegNum), s.Has64 →
      ∃ a b, s.Reads rs a ∧ s.Reads rt b ∧ Completes (row.1 rs rt rd) s fun t =>
        (rd ≠ 0#5 → t.gprVal rd = row.2 a b) ∧ Frame { gpr := [rd] } s t ∧ Sequential s t) ∧
  (∀ row ∈ [(Instr.dadd, fun a b : Int => a + b), (Instr.dsub, fun a b : Int => a - b)],
    ∀ (s : State) (rs rt rd : RegNum), s.Has64 → ∃ a b, s.Reads rs a ∧ s.Reads rt b ∧
      let x := row.2 a.toInt b.toInt
      (-0x8000000000000000 ≤ x → x < 0x8000000000000000 → Completes (row.1 rs rt rd) s fun t =>
        (rd ≠ 0#5 → t.gprVal rd = BitVec.ofInt 64 x) ∧ Frame { gpr := [rd] } s t ∧ Sequential s t) ∧
      (x < -0x8000000000000000 ∨ 0x8000000000000000 ≤ x → Traps (row.1 rs rt rd) s .overflow)) ∧
  ∀ (s : State) (rs rt : RegNum) (imm : BitVec 16), s.Has64 → ∃ a, s.Reads rs a ∧
    (Completes (.daddiu rs rt imm) s fun t =>
      (rt ≠ 0#5 → t.gprVal rt = a + imm.signExtend 64) ∧ Frame { gpr := [rt] } s t ∧ Sequential s t) ∧
    let x := a.toInt + imm.toInt
    (-0x8000000000000000 ≤ x → x < 0x8000000000000000 → Completes (.daddi rs rt imm) s fun t =>
      (rt ≠ 0#5 → t.gprVal rt = BitVec.ofInt 64 x) ∧ Frame { gpr := [rt] } s t ∧ Sequential s t) ∧
    (x < -0x8000000000000000 ∨ 0x8000000000000000 ≤ x → Traps (.daddi rs rt imm) s .overflow)

/-- AND, OR, XOR, NOR and their immediate forms, the immediate zero-extended, on all bits of a register; LUI. SLT, SLTU,
SLTI and SLTIU give 1 or 0, comparing all bits; the immediate is sign-extended in both forms (R525 to R538). -/
def Obligations.LogicAndCompare : Prop :=
  ((∀ row ∈ [(Instr.and, fun a b : DWord => a &&& b), (Instr.or, fun a b : DWord => a ||| b),
      (Instr.xor, fun a b : DWord => a ^^^ b), (Instr.nor, fun a b : DWord => ~~~(a ||| b))],
    ∀ (s : State) (rs rt rd : RegNum), ∃ a b, s.Reads rs a ∧ s.Reads rt b ∧ Completes (row.1 rs rt rd) s fun t =>
      (rd ≠ 0#5 → t.gprVal rd = row.2 a b) ∧ Frame { gpr := [rd] } s t ∧ Sequential s t) ∧
  (∀ row ∈ [(Instr.andi, fun a b : DWord => a &&& b), (Instr.ori, fun a b : DWord => a ||| b),
      (Instr.xori, fun a b : DWord => a ^^^ b)],
    ∀ (s : State) (rs rt : RegNum) (imm : BitVec 16), ∃ a, s.Reads rs a ∧ Completes (row.1 rs rt imm) s fun t =>
      (rt ≠ 0#5 → t.gprVal rt = row.2 a (imm.setWidth 64)) ∧ Frame { gpr := [rt] } s t ∧ Sequential s t) ∧
  ∀ (s : State) (rt : RegNum) (imm : BitVec 16), Completes (.lui rt imm) s fun t =>
    (rt ≠ 0#5 → t.gprVal rt = (imm ++ 0#16 : Word).signExtend 64) ∧ Frame { gpr := [rt] } s t ∧ Sequential s t) ∧
  ((∀ row ∈ [(Instr.slt, fun a b : DWord => decide (a.toInt < b.toInt)),
      (Instr.sltu, fun a b : DWord => decide (a.toNat < b.toNat))],
    ∀ (s : State) (rs rt rd : RegNum), ∃ a b, s.Reads rs a ∧ s.Reads rt b ∧ Completes (row.1 rs rt rd) s fun t =>
      (rd ≠ 0#5 → t.gprVal rd = if row.2 a b then 1 else 0) ∧ Frame { gpr := [rd] } s t ∧ Sequential s t) ∧
  ∀ row ∈ [(Instr.slti, fun a b : DWord => decide (a.toInt < b.toInt)),
      (Instr.sltiu, fun a b : DWord => decide (a.toNat < b.toNat))],
    ∀ (s : State) (rs rt : RegNum) (imm : BitVec 16), ∃ a, s.Reads rs a ∧ Completes (row.1 rs rt imm) s fun t =>
      (rt ≠ 0#5 → t.gprVal rt = if row.2 a (imm.signExtend 64) then 1 else 0) ∧
        Frame { gpr := [rt] } s t ∧ Sequential s t)

/-- The 32-bit shifts, by sa or by the low five bits of rs, with a sign-extended result: SLL and SLLV take any operand, the
right shifts need a word. The 64-bit shifts where 64-bit operations are enabled, by sa, by 32 + sa, or by the low six
bits of rs (R540 to R554, R501). -/
def Obligations.Shifts : Prop :=
  ((∀ row ∈ [(Instr.sll, false, fun (a : Word) (n : Nat) => a <<< n), (Instr.srl, true, fun (a : Word) (n : Nat) => a >>> n),
      (Instr.sra, true, fun (a : Word) (n : Nat) => a.sshiftRight n)],
    ∀ (s : State) (rt rd : RegNum) (sa : BitVec 5), ∃ b, s.Reads rt b ∧ Completes (row.1 rt rd sa) s fun t =>
      (rd ≠ 0#5 → (row.2.1 = true → isWord b = true) → t.gprVal rd = (row.2.2 (lo32 b) sa.toNat).signExtend 64) ∧
        Frame { gpr := [rd] } s t ∧ Sequential s t) ∧
  ∀ row ∈ [(Instr.sllv, false, fun (a : Word) (n : Nat) => a <<< n), (Instr.srlv, true, fun (a : Word) (n : Nat) => a >>> n),
      (Instr.srav, true, fun (a : Word) (n : Nat) => a.sshiftRight n)],
    ∀ (s : State) (rs rt rd : RegNum), ∃ a b, s.Reads rs a ∧ s.Reads rt b ∧ Completes (row.1 rs rt rd) s fun t =>
      (rd ≠ 0#5 → (row.2.1 = true → isWord b = true) →
        t.gprVal rd = (row.2.2 (lo32 b) (a.toNat % 32)).signExtend 64) ∧ Frame { gpr := [rd] } s t ∧ Sequential s t) ∧
  ((∀ row ∈ [(Instr.dsll, 0, fun (a : DWord) (n : Nat) => a <<< n), (Instr.dsrl, 0, fun (a : DWord) (n : Nat) => a >>> n),
      (Instr.dsra, 0, fun (a : DWord) (n : Nat) => a.sshiftRight n),
      (Instr.dsll32, 32, fun (a : DWord) (n : Nat) => a <<< n), (Instr.dsrl32, 32, fun (a : DWord) (n : Nat) => a >>> n),
      (Instr.dsra32, 32, fun (a : DWord) (n : Nat) => a.sshiftRight n)],
    ∀ (s : State) (rt rd : RegNum) (sa : BitVec 5), s.Has64 →
      ∃ b, s.Reads rt b ∧ Completes (row.1 rt rd sa) s fun t =>
        (rd ≠ 0#5 → t.gprVal rd = row.2.2 b (row.2.1 + sa.toNat)) ∧ Frame { gpr := [rd] } s t ∧ Sequential s t) ∧
  ∀ row ∈ [(Instr.dsllv, fun (a : DWord) (n : Nat) => a <<< n), (Instr.dsrlv, fun (a : DWord) (n : Nat) => a >>> n),
      (Instr.dsrav, fun (a : DWord) (n : Nat) => a.sshiftRight n)],
    ∀ (s : State) (rs rt rd : RegNum), s.Has64 →
      ∃ a b, s.Reads rs a ∧ s.Reads rt b ∧ Completes (row.1 rs rt rd) s fun t =>
        (rd ≠ 0#5 → t.gprVal rd = row.2 b (a.toNat % 64)) ∧ Frame { gpr := [rd] } s t ∧ Sequential s t)

/-- MOVZ and MOVN move where rt is, or is not, zero; MOVF and MOVT where the condition code is false, or true; rd keeps
its value otherwise. Each is the word its rule draws. Below MIPS IV they take Reserved Instruction, and MOVF and MOVT at MIPS IV
with CU1 clear Coprocessor Unusable (R560 to R563). -/
def Obligations.ConditionalMoves : Prop :=
  (∀ row ∈ [(Instr.movz, true, 0x0A#6), (Instr.movn, false, 0x0B#6)], ∀ (s : State) (rs rt rd : RegNum),
    decode s.par.cpu.isa (0#6 ++ rs ++ rt ++ rd ++ 0#5 ++ row.2.2) = .ok (row.1 rs rt rd) ∧
    (s.HasIsa .mips4 → ∃ a b, s.Reads rs a ∧ s.Reads rt b ∧ Completes (row.1 rs rt rd) s fun t =>
      (rd ≠ 0#5 → t.gprVal rd = if decide (b = 0) = row.2.1 then a else s.gprVal rd) ∧
        Frame { gpr := [rd] } s t ∧ Sequential s t) ∧
    (¬s.HasIsa .mips4 → Traps (row.1 rs rt rd) s .reservedInstruction)) ∧
  ∀ row ∈ [(Instr.movf, false), (Instr.movt, true)], ∀ (s : State) (rs rd : RegNum) (cc : BitVec 3),
    decode s.par.cpu.isa (0#6 ++ rs ++ cc ++ 0#1 ++ BitVec.ofBool row.2 ++ rd ++ 0#5 ++ 1#6) = .ok (row.1 rs cc rd) ∧
    (s.HasIsa .mips4 → s.CopUsable 1#2 → ∃ a, s.Reads rs a ∧ Completes (row.1 rs cc rd) s fun t =>
      (rd ≠ 0#5 → t.gprVal rd = if s.fcc cc = row.2 then a else s.gprVal rd) ∧
        Frame { gpr := [rd] } s t ∧ Sequential s t) ∧
    (s.HasIsa .mips4 → s.CopUnusable 1#2 → Traps (row.1 rs cc rd) s (.coprocessorUnusable 1#2)) ∧
    (¬s.HasIsa .mips4 → Traps (row.1 rs cc rd) s .reservedInstruction)

/-! ### Multiply and divide -/

/-- MFHI and MFLO read HI and LO; MTHI and MTLO write them, keeping the other one where the last result has been read;
the registers of HI/LO reads that come too close before a write are undefined before it reads its operand (R581 to R585,
R598). -/
def Obligations.HiLoMoves : Prop :=
  (∀ (s : State) (rd : RegNum),
    (Completes (.mfhi rd) s fun t => (rd ≠ 0#5 → t.gprVal rd = s.hiVal) ∧ Frame { gpr := [rd] } s t ∧ Sequential s t) ∧
    Completes (.mflo rd) s fun t => (rd ≠ 0#5 → t.gprVal rd = s.loVal) ∧ Frame { gpr := [rd] } s t ∧ Sequential s t) ∧
  ∀ (s : State) (rs : RegNum),
    (∃ a, s.ReadsUnspoiled true false rs a ∧ Completes (.mthi rs) s fun t =>
      t.hiVal = s.narrow a ∧ (s.hiloUnread = false → t.lo = s.lo) ∧
        Frame { gpr := s.spoiled true false, hilo := true } s t ∧ Sequential s t) ∧
    ∃ a, s.ReadsUnspoiled false true rs a ∧ Completes (.mtlo rs) s fun t =>
      t.loVal = s.narrow a ∧ (s.hiloUnread = false → t.hi = s.hi) ∧
        Frame { gpr := s.spoiled false true, hilo := true } s t ∧ Sequential s t

/-- MULT and MULTU of words leave the 64-bit product in HI and LO, each half sign-extended; DIV and DIVU of words by a
divisor other than zero leave the quotient in LO and the remainder in HI, which complete on every operand (R586, R587, R590,
R591). That the quotient is truncated toward zero, the remainder taking the sign of the dividend, is the model's choice
(decision D9 of the spec; DESIGN CHOICE, log entry 18). -/
def Obligations.WordMultiplyDivide : Prop :=
  (∀ row ∈ [(Instr.mult, fun a : Word => a.toInt), (Instr.multu, fun a : Word => (a.toNat : Int))],
    ∀ (s : State) (rs rt : RegNum), ∃ a b, s.ReadsUnspoiled true true rs a ∧ s.ReadsUnspoiled true true rt b ∧ Completes (row.1 rs rt) s fun t =>
      (isWord a = true → isWord b = true →
        lo32 t.hiVal ++ lo32 t.loVal = BitVec.ofInt 64 (row.2 (lo32 a) * row.2 (lo32 b)) ∧
          isWord t.hiVal = true ∧ isWord t.loVal = true) ∧
        Frame { gpr := s.spoiled true true, hilo := true } s t ∧ Sequential s t) ∧
  ∀ row ∈ [(Instr.div, fun a : Word => a.toInt), (Instr.divu, fun a : Word => (a.toNat : Int))],
    ∀ (s : State) (rs rt : RegNum), ∃ a b, s.ReadsUnspoiled true true rs a ∧ s.ReadsUnspoiled true true rt b ∧ Completes (row.1 rs rt) s fun t =>
      (isWord a = true → isWord b = true → lo32 b ≠ 0 →
        t.loVal = (BitVec.ofInt 32 ((row.2 (lo32 a)).tdiv (row.2 (lo32 b)))).signExtend 64 ∧
          t.hiVal = (BitVec.ofInt 32 ((row.2 (lo32 a)).tmod (row.2 (lo32 b)))).signExtend 64) ∧
        Frame { gpr := s.spoiled true true, hilo := true } s t ∧ Sequential s t

/-- DMULT, DMULTU, DDIV and DDIVU where 64-bit operations are enabled (R588, R589, R592, R593). That the quotient is truncated
toward zero, the remainder taking the sign of the dividend, is the model's choice (decision D9 of the spec; DESIGN CHOICE,
log entry 18). -/
def Obligations.DoublewordMultiplyDivide : Prop :=
  (∀ row ∈ [(Instr.dmult, fun a : DWord => a.toInt), (Instr.dmultu, fun a : DWord => (a.toNat : Int))],
    ∀ (s : State) (rs rt : RegNum), s.Has64 →
      ∃ a b, s.ReadsUnspoiled true true rs a ∧ s.ReadsUnspoiled true true rt b ∧ Completes (row.1 rs rt) s fun t =>
        t.hi ++ t.lo = BitVec.ofInt 128 (row.2 a * row.2 b) ∧
          Frame { gpr := s.spoiled true true, hilo := true } s t ∧ Sequential s t) ∧
  ∀ row ∈ [(Instr.ddiv, fun a : DWord => a.toInt), (Instr.ddivu, fun a : DWord => (a.toNat : Int))],
    ∀ (s : State) (rs rt : RegNum), s.Has64 →
      ∃ a b, s.ReadsUnspoiled true true rs a ∧ s.ReadsUnspoiled true true rt b ∧ Completes (row.1 rs rt) s fun t =>
        (b ≠ 0 → t.lo = BitVec.ofInt 64 ((row.2 a).tdiv (row.2 b)) ∧
          t.hi = BitVec.ofInt 64 ((row.2 a).tmod (row.2 b))) ∧
          Frame { gpr := s.spoiled true true, hilo := true } s t ∧ Sequential s t

/-- The R4650's and R4640's MAD and MADU add the product to HI and LO taken together, MUL writes the low word of the
product to rd and leaves HI and LO undefined; every other member takes Reserved Instruction (R372, R594 to R596). -/
def Obligations.MultiplyAccumulate : Prop :=
  (∀ row ∈ [(Instr.mad, fun a : Word => a.toInt), (Instr.madu, fun a : Word => (a.toNat : Int))],
    ∀ (s : State) (rs rt : RegNum),
      (s.par.cpu.is4650 = true → ∃ a b, s.ReadsUnspoiled true true rs a ∧ s.ReadsUnspoiled true true rt b ∧ Completes (row.1 rs rt) s fun t =>
        lo32 t.hiVal ++ lo32 t.loVal =
            (lo32 s.hiVal ++ lo32 s.loVal) + BitVec.ofInt 64 (row.2 (lo32 a) * row.2 (lo32 b)) ∧
          isWord t.hiVal = true ∧ isWord t.loVal = true ∧
          Frame { gpr := s.spoiled true true, hilo := true } s t ∧ Sequential s t) ∧
      (s.par.cpu.is4650 = false → Traps (row.1 rs rt) s .reservedInstruction)) ∧
  ∀ (s : State) (rs rt rd : RegNum),
    (s.par.cpu.is4650 = true → ∃ a b, s.ReadsUnspoiled true true rs a ∧ s.ReadsUnspoiled true true rt b ∧ Completes (.mul rs rt rd) s fun t =>
      (rd ≠ 0#5 → t.gprVal rd = (lo32 a * lo32 b).signExtend 64) ∧
        Frame { gpr := rd :: s.spoiled true true, hilo := true } s t ∧ Sequential s t) ∧
    (s.par.cpu.is4650 = false → Traps (.mul rs rt rd) s .reservedInstruction)

/-! ### Jumps and branches -/

/-- J, JAL, JR and JALR outside a delay slot: the delay slot is next, then the target; the link is the address after the
slot (R620, R630 to R633). That JALR with rs = rd, whose result R623 calls undefined, completes by the pseudocode, and is
refused only where it runs again after an exception in its delay slot, is the model's choice (DESIGN CHOICE, log entry
52). -/
def Obligations.Jumps : Prop :=
  (∀ (s : State) (idx : BitVec 26), s.inDelay = false →
    (Completes (.j idx) s fun t =>
      Branched s t true (s.nextPc.extractLsb' 28 36 ++ idx ++ 0#2) ∧ Frame {} s t) ∧
    Completes (.jal idx) s fun t => Branched s t true (s.nextPc.extractLsb' 28 36 ++ idx ++ 0#2) ∧
      t.gprVal 31#5 = s.narrow (s.pcNorm (s.nextPc + 4)) ∧ Frame { gpr := [31#5] } s t) ∧
  ∀ (s : State) (rs rd : RegNum), s.inDelay = false → ∃ a, s.Reads rs a ∧
    (Completes (.jr rs) s fun t => Branched s t true (s.normVa a) ∧ Frame {} s t) ∧
    (s.Restarts rs rd = false → Completes (.jalr rs rd) s fun t => Branched s t true (s.normVa a) ∧
      (rd ≠ 0#5 → t.gprVal rd = s.narrow (s.pcNorm (s.nextPc + 4))) ∧ Frame { gpr := [rd] } s t) ∧
    (s.Restarts rs rd = true → exec (.jalr rs rd) s = .refused .linkNotRestartable)

/-- BEQ, BNE and the branches that compare a register with zero, outside a delay slot; the and-link forms write
register 31 whether or not they branch (R620, R621, R634 to R641). That BLTZAL and BGEZAL of register 31, which R623 calls
undefined, complete by the pseudocode, and are refused only where they run again after an exception in their delay slot,
is the model's choice (DESIGN CHOICE, log entry 52). -/
def Obligations.Branches : Prop :=
  (∀ row ∈ [(Instr.beq, true), (Instr.bne, false)], ∀ (s : State) (rs rt : RegNum) (off : BitVec 16),
    s.inDelay = false → ∃ a b, s.Reads rs a ∧ s.Reads rt b ∧ Completes (row.1 rs rt off) s fun t =>
      Branched s t (decide (decide (a = b) = row.2)) (s.pcNorm (s.nextPc + off.signExtend 64 * 4)) ∧ Frame {} s t) ∧
  (∀ row ∈ [(Instr.blez, fun x : Int => decide (x ≤ 0)), (Instr.bgtz, fun x : Int => decide (0 < x)),
      (Instr.bltz, fun x : Int => decide (x < 0)), (Instr.bgez, fun x : Int => decide (0 ≤ x))],
    ∀ (s : State) (rs : RegNum) (off : BitVec 16), s.inDelay = false →
      ∃ a, s.Reads rs a ∧ Completes (row.1 rs off) s fun t =>
        Branched s t (row.2 a.toInt) (s.pcNorm (s.nextPc + off.signExtend 64 * 4)) ∧ Frame {} s t) ∧
  ∀ row ∈ [(Instr.bltzal, fun x : Int => decide (x < 0)), (Instr.bgezal, fun x : Int => decide (0 ≤ x))],
    ∀ (s : State) (rs : RegNum) (off : BitVec 16), s.inDelay = false →
      (s.Restarts rs 31#5 = false → ∃ a, s.Reads rs a ∧ Completes (row.1 rs off) s fun t =>
        Branched s t (row.2 a.toInt) (s.pcNorm (s.nextPc + off.signExtend 64 * 4)) ∧
          t.gprVal 31#5 = s.narrow (s.pcNorm (s.nextPc + 4)) ∧ Frame { gpr := [31#5] } s t) ∧
      (s.Restarts rs 31#5 = true → exec (row.1 rs off) s = .refused .linkNotRestartable)

/-- The branch-likely forms: as the branches where taken, the delay slot nullified where not; Reserved Instruction below
MIPS II (R622, R626, R642 to R649). That BLTZALL and BGEZALL of register 31, which R623 calls undefined, complete by the
pseudocode, and are refused only where they run again after an exception in their delay slot, is the model's choice
(DESIGN CHOICE, log entry 52). -/
def Obligations.BranchesLikely : Prop :=
  (∀ row ∈ [(Instr.beql, true), (Instr.bnel, false)], ∀ (s : State) (rs rt : RegNum) (off : BitVec 16),
    (s.HasIsa .mips2 → s.inDelay = false → ∃ a b, s.Reads rs a ∧ s.Reads rt b ∧ Completes (row.1 rs rt off) s fun t =>
      BranchedLikely s t (decide (decide (a = b) = row.2)) (s.pcNorm (s.nextPc + off.signExtend 64 * 4)) ∧
        Frame {} s t) ∧
    (¬s.HasIsa .mips2 → Traps (row.1 rs rt off) s .reservedInstruction)) ∧
  (∀ row ∈ [(Instr.blezl, fun x : Int => decide (x ≤ 0)), (Instr.bgtzl, fun x : Int => decide (0 < x)),
      (Instr.bltzl, fun x : Int => decide (x < 0)), (Instr.bgezl, fun x : Int => decide (0 ≤ x))],
    ∀ (s : State) (rs : RegNum) (off : BitVec 16),
      (s.HasIsa .mips2 → s.inDelay = false → ∃ a, s.Reads rs a ∧ Completes (row.1 rs off) s fun t =>
        BranchedLikely s t (row.2 a.toInt) (s.pcNorm (s.nextPc + off.signExtend 64 * 4)) ∧ Frame {} s t) ∧
      (¬s.HasIsa .mips2 → Traps (row.1 rs off) s .reservedInstruction)) ∧
  ∀ row ∈ [(Instr.bltzall, fun x : Int => decide (x < 0)), (Instr.bgezall, fun x : Int => decide (0 ≤ x))],
    ∀ (s : State) (rs : RegNum) (off : BitVec 16),
      (s.HasIsa .mips2 → s.inDelay = false → s.Restarts rs 31#5 = false →
        ∃ a, s.Reads rs a ∧ Completes (row.1 rs off) s fun t =>
          BranchedLikely s t (row.2 a.toInt) (s.pcNorm (s.nextPc + off.signExtend 64 * 4)) ∧
            t.gprVal 31#5 = s.narrow (s.pcNorm (s.nextPc + 4)) ∧ Frame { gpr := [31#5] } s t) ∧
      (s.HasIsa .mips2 → s.inDelay = false → s.Restarts rs 31#5 = true →
        exec (row.1 rs off) s = .refused .linkNotRestartable) ∧
      (¬s.HasIsa .mips2 → Traps (row.1 rs off) s .reservedInstruction)

/-- The branches on a coprocessor's condition signal: BCzF where it is 0, BCzT where it is 1, and the likely forms. On an
R30xx the signal is the pin BrCond(z) (on the R3041 pins 3 and 2 only where BusCtrl.BR makes them inputs); elsewhere
no signal is described. That BC0x and BC2x complete as branches there all the same, on a condition of any value, and so BC2x
and BC3x of the R3041 with BusCtrl.BR clear, is the model's choice (DESIGN CHOICE, log entry 31): R650 calls coprocessor 2 of
the R4xxx and R5000 undefined and bc0t not described. With an FPA the branches of coprocessor 1 read a condition code, which
is unsettled, any value, right after a compare or a write of FCR31 below MIPS IV; without one they read BrCond(1). No
member of the family has both a coprocessor 3 and branch-likely instructions, so BC3FL and BC3TL take Reserved
Instruction on every one, or Coprocessor Unusable first (R364, R650, R831, R860 to R863, R1074). -/
def Obligations.ConditionBranches : Prop :=
  (∀ (z : BitVec 2) (tf : Bool) (plain likely : BitVec 16 → Instr),
    (z, tf, plain, likely) ∈ [(0#2, false, Instr.bc0f, Instr.bc0fl), (0#2, true, Instr.bc0t, Instr.bc0tl),
      (2#2, false, Instr.bc2f, Instr.bc2fl), (2#2, true, Instr.bc2t, Instr.bc2tl),
      (3#2, false, Instr.bc3f, Instr.bc3fl), (3#2, true, Instr.bc3t, Instr.bc3tl)] →
    ∀ (s : State) (off : BitVec 16), s.CopUsable z → s.inDelay = false →
      ∃ c : Bool,
        (s.par.cpu.is30xx = true → (s.par.cpu = .r3041 → bit z 1 = true → bit s.cp0.busCtrl 11 = true) →
          c = bit s.inp.brCond z.toNat) ∧
        (Completes (plain off) s fun t =>
          Branched s t (c == tf) (s.pcNorm (s.nextPc + off.signExtend 64 * 4)) ∧ Frame {} s t) ∧
        (s.HasIsa .mips2 → Completes (likely off) s fun t =>
          BranchedLikely s t (c == tf) (s.pcNorm (s.nextPc + off.signExtend 64 * 4)) ∧ Frame {} s t)) ∧
  (∀ row ∈ [(false, Instr.bc1f, Instr.bc1fl), (true, Instr.bc1t, Instr.bc1tl)],
    ∀ (s : State) (cc : BitVec 3) (off : BitVec 16), s.CopUsable 1#2 → s.par.cpu.hasFpa = true → s.inDelay = false →
      ∃ c : Bool, (s.haz.cond = 0 → c = s.fcc cc) ∧
        (Completes (row.2.1 cc off) s fun t =>
          Branched s t (c == row.1) (s.pcNorm (s.nextPc + off.signExtend 64 * 4)) ∧ Frame {} s t) ∧
        (s.HasIsa .mips2 → Completes (row.2.2 cc off) s fun t =>
          BranchedLikely s t (c == row.1) (s.pcNorm (s.nextPc + off.signExtend 64 * 4)) ∧ Frame {} s t)) ∧
  (∀ row ∈ [(false, Instr.bc1f), (true, Instr.bc1t)],
    ∀ (s : State) (cc : BitVec 3) (off : BitVec 16), s.CopUsable 1#2 → s.par.cpu.hasFpa = false → s.inDelay = false →
      Completes (row.2 cc off) s fun t =>
        Branched s t (bit s.inp.brCond 1 == row.1) (s.pcNorm (s.nextPc + off.signExtend 64 * 4)) ∧ Frame {} s t) ∧
  (∀ mk ∈ [Instr.bc3fl, Instr.bc3tl], ∀ (s : State) (off : BitVec 16),
    (s.CopUnusable 3#2 → Traps (mk off) s (.coprocessorUnusable 3#2)) ∧
      (¬s.CopUnusable 3#2 → Traps (mk off) s .reservedInstruction))

/-- A jump, a branch of any kind or an ERET in a branch delay slot, where the instruction is one the member has and the
program may use, is given no meaning (R625, R792): the model refuses it under a name of its own (DESIGN CHOICE, log
entry 9). -/
def Obligations.BranchInDelaySlotRefused : Prop :=
  ∀ (s : State) (rs rt rd : RegNum) (idx : BitVec 26) (off : BitVec 16) (cc : BitVec 3), s.inDelay = true →
    let refused (i : Instr) : Prop := exec i s = .refused .branchInDelaySlot
    (∀ i ∈ [Instr.j idx, .jal idx, .jr rs, .jalr rs rd, .beq rs rt off, .bne rs rt off, .blez rs off, .bgtz rs off,
      .bltz rs off, .bgez rs off, .bltzal rs off, .bgezal rs off], refused i) ∧
    (s.HasIsa .mips2 → ∀ i ∈ [Instr.beql rs rt off, .bnel rs rt off, .blezl rs off, .bgtzl rs off, .bltzl rs off,
      .bgezl rs off, .bltzall rs off, .bgezall rs off], refused i) ∧
    (∀ row ∈ [(0#2, [Instr.bc0f off, .bc0t off], [Instr.bc0fl off, .bc0tl off]),
        (1#2, [Instr.bc1f cc off, .bc1t cc off], [Instr.bc1fl cc off, .bc1tl cc off]),
        (2#2, [Instr.bc2f off, .bc2t off], [Instr.bc2fl off, .bc2tl off]), (3#2, [Instr.bc3f off, .bc3t off], [])],
      s.CopUsable row.1 → (∀ i ∈ row.2.1, refused i) ∧ (s.HasIsa .mips2 → ∀ i ∈ row.2.2, refused i)) ∧
    (s.CopUsable 0#2 → s.par.cpu.is30xx = false → refused .eret)

/-! ### Loads and stores -/

/-- The bytes of a value in memory: byte `i` of the value, counted from the least significant, is at the program's
address `a + i` in little-endian order and at `a + n - 1 - i` in big-endian order (R222, R672). -/
def Obligations.ByteOrder : Prop :=
  ∀ (s : State) (a n i : Nat), n ≤ 8 → i < n →
    (s.memVal a n).extractLsb' (8 * i) 8 =
      memRead s.mem (s.byteLane (if s.bigEndianCpu then a + (n - 1 - i) else a + i))

/-- The aligned loads: the field at base plus offset, sign- or zero-extended; on the R5000 an offset that is no multiple
of the size leaves the value undefined. On a MIPS-1 member, and on no other, the loaded register is not settled for the
next instruction. While the data cache is isolated the data comes from the private array and SR.CM tells whether the line
is there (decision D15 of the spec, log entry 12). A load that DWatch watches takes a Watch exception, or completes while EXL
or ERL is set and leaves the watch to be taken later. Where the board answers with a bus error the load takes that exception; a
cache parity error that the host reports for a data access, with SR.DE clear, comes before the access, and CacheErr names the
addresses of the access as ExceptionEntry4xxx says (R164, R167, R261 to R263, R670, R672 to R674, R680 to R686, R1024, R1032, R1034). -/
def Obligations.AlignedLoads : Prop :=
  ∀ (n : Nat) (need64 : Bool) (f : DWord → DWord) (mk : RegNum → RegNum → BitVec 16 → Instr),
    (n, need64, f, mk) ∈ [(1, false, fun v : DWord => (v.setWidth 8).signExtend 64, Instr.lb),
      (1, false, fun v : DWord => (v.setWidth 8).setWidth 64, Instr.lbu),
      (2, false, fun v : DWord => (v.setWidth 16).signExtend 64, Instr.lh),
      (2, false, fun v : DWord => (v.setWidth 16).setWidth 64, Instr.lhu),
      (4, false, fun v : DWord => (v.setWidth 32).signExtend 64, Instr.lw),
      (4, true, fun v : DWord => (v.setWidth 32).setWidth 64, Instr.lwu), (8, true, fun v : DWord => v, Instr.ld)] →
    ∀ (s : State) (base rt : RegNum) (off : BitVec 16), (need64 = true → s.Has64) →
      ∃ b, s.Reads base b ∧ ∀ pa cca,
        let va := s.normVa (b + off.signExtend 64)
        let done (u t : State) : Prop :=
          (rt ≠ 0#5 → s.offsetUndefined off n = false → t.gprVal rt = f (s.memVal pa n)) ∧
            (s.hazNext = Hazards.none → ∀ r, t.Settled r ↔ ¬(s.par.cpu.isa = .mips1 ∧ r = rt ∧ rt ≠ 0#5)) ∧
            Frame { gpr := [rt] } u t ∧ Sequential s t
        (s.Maps va .load n pa cca → s.Readable pa n → Completes (mk base rt off) s (done s)) ∧
        (s.Maps va .load n pa cca → s.isc = true → Completes (mk base rt off) s fun t =>
          (rt ≠ 0#5 → t.gprVal rt = f (s.isolatedVal pa n)) ∧ IsolatedLoad s t pa ∧
            Frame { gpr := [rt], cp0 := true } s t ∧ Sequential s t) ∧
        (translate va .load n s = .ok ((pa, cca), s) → s.cacheErrorDue true = none → s.Watches 2 va →
          (s.exl = false → s.erl = false → Traps (mk base rt off) s (.watch false true)) ∧
            (s.exl = true ∨ s.erl = true → s.Readable pa n →
              Completes (mk base rt off) s (done { s with watchD := true }))) ∧
        (s.Maps va .load n pa cca → s.isc = false → s.busErrorAt (s.lanes pa n) = true →
          Traps (mk base rt off) s .busErrorData) ∧
        ∀ info, translate va .load n s = .ok ((pa, cca), s) → s.MeetsCacheError true info →
          ∃ c, exec (mk base rt off) s = .next (takeException (.cacheError (cacheErrImage info va pa)) { s.dropCacheError with freeCtr := c })

/-- The aligned stores: the low bytes of rt go to base plus offset, and no other byte of memory changes. While the data cache
is isolated a word enters the private array and makes its line valid, a part of a word makes the line invalid, and memory
keeps its bytes (decision D15 of the spec, log entry 12). A store that DWatch watches takes a Watch exception, or completes
while EXL or ERL is set and leaves the watch to be taken later. A store takes no bus error (R1024); a cache parity error for a
data access comes before it and names its addresses (R164, R167, R261, R263, R672, R690 to R693, R1032, R1034). -/
def Obligations.AlignedStores : Prop :=
  ∀ (n : Nat) (need64 : Bool) (mk : RegNum → RegNum → BitVec 16 → Instr),
    (n, need64, mk) ∈ [(1, false, Instr.sb), (2, false, Instr.sh), (4, false, Instr.sw), (8, true, Instr.sd)] →
    ∀ (s : State) (base rt : RegNum) (off : BitVec 16), (need64 = true → s.Has64) →
      ∃ b v, s.Reads base b ∧ s.Reads rt v ∧ ∀ pa cca,
        let va := s.normVa (b + off.signExtend 64)
        let done (u t : State) : Prop :=
          (s.offsetUndefined off n = false → memReadList t.mem (s.lanes pa n) = toBytes s.bigEndianCpu n v) ∧
            Frame { mem := s.lanes pa n } u t ∧ Sequential s t
        (s.Maps va .store n pa cca → s.isc = false → Completes (mk base rt off) s (done s)) ∧
        (s.Maps va .store n pa cca → s.isc = true → Completes (mk base rt off) s fun t =>
          IsolatedStore s t pa n v ∧ Sequential s t) ∧
        (translate va .store n s = .ok ((pa, cca), s) → s.cacheErrorDue true = none → s.Watches 1 va →
          (s.exl = false → s.erl = false → Traps (mk base rt off) s (.watch false true)) ∧
            (s.exl = true ∨ s.erl = true → Completes (mk base rt off) s (done { s with watchD := true }))) ∧
        ∀ info, translate va .store n s = .ok ((pa, cca), s) → s.MeetsCacheError true info →
          ∃ c, exec (mk base rt off) s = .next (takeException (.cacheError (cacheErrImage info va pa)) { s.dropCacheError with freeCtr := c })

/-- The unaligned loads merge the bytes from the address to the end of its word or doubleword (left forms), or from its
beginning to the address (right forms), with the bytes of rt, which the instruction before may have loaded; while the data
cache is isolated, the bytes of the private array, SR.CM telling whether the line is there (R673, R699 to R701, R704, R705). That
an isolated load reads a private array is decision D15 of the spec for R261 and R262, and the array is the model's (DESIGN
CHOICE, log entry 12). -/
def Obligations.UnalignedLoads : Prop :=
  (∀ (n : Nat) (mk : RegNum → RegNum → BitVec 16 → Instr), (n, mk) ∈ [(4, Instr.lwl), (8, Instr.ldl)] →
    ∀ (s : State) (base rt : RegNum) (off : BitVec 16), (n = 8 → s.Has64) →
      ∃ b v, s.Reads base b ∧ s.ReadsMerged rt v ∧ ∀ pa cca, s.Maps (s.normVa (b + off.signExtend 64)) .load 1 pa cca →
        let p := s.leftPart (s.normVa (b + off.signExtend 64)) pa n
        let merged (m : DWord) : DWord :=
          (if n = 4 then sextLo else id) ((m <<< (8 * (n - p.2))) ||| (v &&& lowBytes (n - p.2)))
        (s.Readable p.1 p.2 → Completes (mk base rt off) s fun t =>
          (rt ≠ 0#5 → t.gprVal rt = merged (s.memVal p.1 p.2)) ∧ Frame { gpr := [rt] } s t ∧ Sequential s t) ∧
        (s.isc = true → Completes (mk base rt off) s fun t =>
          (rt ≠ 0#5 → t.gprVal rt = merged (s.isolatedVal p.1 p.2)) ∧ IsolatedLoad s t p.1 ∧
            Frame { gpr := [rt], cp0 := true } s t ∧ Sequential s t)) ∧
  ∀ (n : Nat) (mk : RegNum → RegNum → BitVec 16 → Instr), (n, mk) ∈ [(4, Instr.lwr), (8, Instr.ldr)] →
    ∀ (s : State) (base rt : RegNum) (off : BitVec 16), (n = 8 → s.Has64) →
      ∃ b v, s.Reads base b ∧ s.ReadsMerged rt v ∧ ∀ pa cca, s.Maps (s.normVa (b + off.signExtend 64)) .load 1 pa cca →
        let p := s.rightPart (s.normVa (b + off.signExtend 64)) pa n
        let merged (m : DWord) : DWord :=
          let w := m ||| (v &&& ~~~lowBytes p.2)
          if n = 4 then s.narrow (lwrResult s.par.lwrUpperSigned w (p.2 == 4)) else w
        (s.Readable p.1 p.2 → Completes (mk base rt off) s fun t =>
          (rt ≠ 0#5 → t.gprVal rt = merged (s.memVal p.1 p.2)) ∧ Frame { gpr := [rt] } s t ∧ Sequential s t) ∧
        (s.isc = true → Completes (mk base rt off) s fun t =>
          (rt ≠ 0#5 → t.gprVal rt = merged (s.isolatedVal p.1 p.2)) ∧ IsolatedLoad s t p.1 ∧
            Frame { gpr := [rt], cp0 := true } s t ∧ Sequential s t)

/-- The unaligned stores put the high bytes of the word or doubleword (left forms) or its low bytes (right forms) into
the bytes the matching load takes; while the data cache is isolated they reach the private array only, a whole word as a
store of it, a part of one making the line invalid (R699, R702, R703, R706, R707). That an isolated store reaches a private array
is decision D15 of the spec for R261; the array, and that its data survive a partial store that invalidates their line, is the
model's (DESIGN CHOICE, log entry 12). -/
def Obligations.UnalignedStores : Prop :=
  ∀ (n : Nat) (left : Bool) (mk : RegNum → RegNum → BitVec 16 → Instr),
    (n, left, mk) ∈ [(4, true, Instr.swl), (8, true, Instr.sdl), (4, false, Instr.swr), (8, false, Instr.sdr)] →
    ∀ (s : State) (base rt : RegNum) (off : BitVec 16), (n = 8 → s.Has64) →
      ∃ b v, s.Reads base b ∧ s.Reads rt v ∧ ∀ pa cca, s.Maps (s.normVa (b + off.signExtend 64)) .store 1 pa cca →
        let va := s.normVa (b + off.signExtend 64)
        let p := if left then s.leftPart va pa n else s.rightPart va pa n
        let w := if left then v >>> (8 * (n - p.2)) else v
        (s.isc = false → Completes (mk base rt off) s fun t =>
          memReadList t.mem (s.lanes p.1 p.2) = toBytes s.bigEndianCpu p.2 w ∧
            Frame { mem := s.lanes p.1 p.2 } s t ∧ Sequential s t) ∧
        (s.isc = true → Completes (mk base rt off) s fun t => IsolatedStore s t p.1 p.2 w ∧ Sequential s t)

/-- LL and LLD load, set LLbit and remember what they linked; at an uncached address the value is undefined
(R271, R273, R730, R732). That LLAddr takes the low 32 bits of the physical address, and that the instruction completes
at an uncached address too, is the model's choice (DESIGN CHOICE, log entry 46). -/
def Obligations.LoadLinked : Prop :=
  ∀ (n : Nat) (f : DWord → DWord) (mk : RegNum → RegNum → BitVec 16 → Instr),
    (n, f, mk) ∈ [(4, fun v : DWord => (v.setWidth 32).signExtend 64, Instr.ll), (8, fun v : DWord => v, Instr.lld)] →
    ∀ (s : State) (base rt : RegNum) (off : BitVec 16), s.HasIsa .mips2 → (n = 8 → s.Has64) →
      ∃ b, s.Reads base b ∧ ∀ pa cca, s.Maps (s.normVa (b + off.signExtend 64)) .load n pa cca → s.Readable pa n →
        Completes (mk base rt off) s fun t =>
          (rt ≠ 0#5 → s.offsetUndefined off n = false → cca ≠ 2#3 → t.gprVal rt = f (s.memVal pa n)) ∧
            t.llBit = true ∧
            t.link = { va := s.normVa (b + off.signExtend 64), pa := pa, cca := cca, double := n == 8 } ∧
            (s.par.cpu.isOrionTlb = true → t.cp0 = { s.cp0 with llAddr := BitVec.ofNat 32 pa }) ∧
            (s.par.cpu.isOrionTlb = false → t.cp0 = s.cp0) ∧
            Frame { gpr := [rt], link := true, cp0 := true } s t ∧ Sequential s t

/-- SC and SCD at a cached address, after a load linked of the same address, type and width or with LLbit clear: they
store and answer 1 where LLbit is set, do not store and answer 0 where it is clear, and clear LLbit (R731, R733, R271,
R273). That they succeed whatever came between the two while LLbit is set (decision D16 of the spec), and that at an
uncached or another address they complete all the same, storing at most their own bytes, is the model's choice (DESIGN
CHOICE, log entry 46). -/
def Obligations.StoreConditional : Prop :=
  ∀ (n : Nat) (mk : RegNum → RegNum → BitVec 16 → Instr), (n, mk) ∈ [(4, Instr.sc), (8, Instr.scd)] →
    ∀ (s : State) (base rt : RegNum) (off : BitVec 16), s.HasIsa .mips2 → (n = 8 → s.Has64) → s.isc = false →
      ∃ b v, s.Reads base b ∧ s.Reads rt v ∧ ∀ pa cca, s.Maps (s.normVa (b + off.signExtend 64)) .store n pa cca →
        Completes (mk base rt off) s fun t =>
          (cca ≠ 2#3 → s.offsetUndefined off n = false →
            (s.llBit = true →
              s.link = { va := s.normVa (b + off.signExtend 64), pa := pa, cca := cca, double := n == 8 }) →
            (rt ≠ 0#5 → t.gprVal rt = if s.llBit then 1 else 0) ∧
              (s.llBit = true → memReadList t.mem (s.lanes pa n) = toBytes s.bigEndianCpu n v) ∧
              (s.llBit = false → t.mem = s.mem)) ∧
            t.llBit = false ∧ t.link = s.link ∧
            Frame { gpr := [rt], mem := s.lanes pa n, link := true } s t ∧ Sequential s t

/-- The loads and stores of the absent coprocessors 2 and 3 make their access: a load changes nothing, a store stores
values nobody knows, in memory or, while the data cache is isolated, in the private array; the moves, control moves and
operations change at most the destination register (R676, R715 to R718, R774 to R776; DESIGN CHOICE, log entry 30). That isolated
loads and stores reach a private array is decision D15 of the spec for R261 and R262, and the array is the model's (DESIGN
CHOICE, log entry 12). -/
def Obligations.AbsentCoprocessors : Prop :=
  (∀ (z : BitVec 2) (n : Nat) (mk : RegNum → RegNum → BitVec 16 → Instr),
    (z, n, mk) ∈ [(2#2, 4, Instr.lwc2), (3#2, 4, Instr.lwc3), (2#2, 8, Instr.ldc2)] →
    ∀ (s : State) (base rt : RegNum) (off : BitVec 16), s.CopUsable z → (n = 8 → s.HasIsa .mips2) →
      ∃ b, s.Reads base b ∧ ∀ pa cca, s.Maps (s.normVa (b + off.signExtend 64)) .load n pa cca →
        (s.Readable pa n → Completes (mk base rt off) s fun t => Frame {} s t ∧ Sequential s t) ∧
          (s.isc = true → Completes (mk base rt off) s fun t =>
            IsolatedLoad s t pa ∧ Frame { cp0 := true } s t ∧ Sequential s t)) ∧
  (∀ (z : BitVec 2) (n : Nat) (mk : RegNum → RegNum → BitVec 16 → Instr),
    (z, n, mk) ∈ [(2#2, 4, Instr.swc2), (3#2, 4, Instr.swc3), (2#2, 8, Instr.sdc2)] →
    ∀ (s : State) (base rt : RegNum) (off : BitVec 16), s.CopUsable z → (n = 8 → s.HasIsa .mips2) →
      ∃ b, s.Reads base b ∧ ∀ pa cca, s.Maps (s.normVa (b + off.signExtend 64)) .store n pa cca →
        (s.isc = false → Completes (mk base rt off) s fun t => Frame { mem := s.lanes pa n } s t ∧ Sequential s t) ∧
          (s.isc = true → Completes (mk base rt off) s fun t => ∃ v, IsolatedStore s t pa n v ∧ Sequential s t)) ∧
  ∀ (s : State) (rt rd : RegNum) (fn : BitVec 25),
    (s.CopUsable 2#2 → (∀ i ∈ [Instr.mtc2 rt rd, .ctc2 rt rd, .cop2 fn],
        Completes i s fun t => Frame {} s t ∧ Sequential s t) ∧
      ∀ i ∈ [Instr.mfc2 rt rd, .cfc2 rt rd], Completes i s fun t => Frame { gpr := [rt] } s t ∧ Sequential s t) ∧
    (s.CopUsable 3#2 → (∀ i ∈ [Instr.mtc3 rt rd, .ctc3 rt rd, .cop3 fn],
        Completes i s fun t => Frame {} s t ∧ Sequential s t) ∧
      ∀ i ∈ [Instr.mfc3 rt rd, .cfc3 rt rd], Completes i s fun t => Frame { gpr := [rt] } s t ∧ Sequential s t)

/-- SYNC, PREF, PREFX and WAIT change nothing where the member has them (R740, R760, R793, R858). -/
def Obligations.NoEffect : Prop :=
  ∀ (s : State) (base index : RegNum) (hint stype : BitVec 5) (off : BitVec 16),
    (s.HasIsa .mips2 → Completes (.sync stype) s fun t => Frame {} s t ∧ Sequential s t) ∧
    (s.HasIsa .mips4 → Completes (.pref base hint off) s fun t => Frame {} s t ∧ Sequential s t) ∧
    (s.HasIsa .mips4 → s.CopUsable 1#2 →
      Completes (.prefx base index hint) s fun t => Frame {} s t ∧ Sequential s t) ∧
    (s.CopUsable 0#2 → s.par.cpu.is30xx = false → Completes .wait s fun t => Frame {} s t ∧ Sequential s t)

/-- A load or store whose address is no multiple of its size, and that the member and the program may run, takes Address
Error, load or store as it may be, with the address in BadVaddr, and changes no memory. In the R4650's kuseg the bounds come
first: an address out of bounds takes its exception whether it is aligned or not (R340, R341, R671, R1002, R1023). -/
def Obligations.MisalignedAccessTraps : Prop :=
  (∀ (s : State) (base rt : RegNum) (off : BitVec 16) (m : Mode), s.Settled base → s.Settled rt → s.mode? = some m →
    ∀ (n : Nat) (store : Bool) (may : Prop) (mk : RegNum → RegNum → BitVec 16 → Instr),
      (n, store, may, mk) ∈ [(2, false, True, Instr.lh), (2, false, True, Instr.lhu), (4, false, True, Instr.lw),
        (2, true, True, Instr.sh), (4, true, True, Instr.sw), (4, false, s.Has64, Instr.lwu), (8, false, s.Has64, Instr.ld),
        (8, true, s.Has64, Instr.sd), (4, false, s.HasIsa .mips2, Instr.ll), (4, true, s.HasIsa .mips2, Instr.sc),
        (8, false, s.Has64, Instr.lld), (8, true, s.Has64, Instr.scd), (4, false, s.CopUsable 1#2, Instr.lwc1),
        (4, true, s.CopUsable 1#2, Instr.swc1), (8, false, s.HasIsa .mips2 ∧ s.CopUsable 1#2, Instr.ldc1),
        (8, true, s.HasIsa .mips2 ∧ s.CopUsable 1#2, Instr.sdc1), (4, false, s.CopUsable 2#2, Instr.lwc2),
        (4, true, s.CopUsable 2#2, Instr.swc2), (4, false, s.CopUsable 3#2, Instr.lwc3),
        (4, true, s.CopUsable 3#2, Instr.swc3), (8, false, s.HasIsa .mips2 ∧ s.CopUsable 2#2, Instr.ldc2),
        (8, true, s.HasIsa .mips2 ∧ s.CopUsable 2#2, Instr.sdc2)] →
      let va := s.normVa (s.gprVal base + off.signExtend 64)
      let k : Access := if store then .store else .load
      may → s.boundsUnsettled va = false →
        (va.toNat % n ≠ 0 → s.outOfBounds va k = false → Traps (mk base rt off) s (.addressError va store)) ∧
          (s.outOfBounds va k = true → Traps (mk base rt off) s (.bounds va store))) ∧
  ∀ (s : State) (base index r : RegNum) (m : Mode), s.Settled base → s.Settled index → s.mode? = some m →
    s.HasIsa .mips4 → s.CopUsable 1#2 →
    ∀ row ∈ [(4, false, Instr.lwxc1), (8, false, Instr.ldxc1), (4, true, Instr.swxc1), (8, true, Instr.sdxc1)],
      let va := s.gprVal base + s.gprVal index
      va.extractLsb' 62 2 = (s.gprVal base).extractLsb' 62 2 → va.toNat % row.1 ≠ 0 →
        Traps (row.2.2 base index r) s (.addressError va row.2.1)

/-! ### System -/

/-- SYSCALL and BREAK take their exception, whatever their code. The conditional traps: Trap where the condition holds,
nothing where it does not, Reserved Instruction below MIPS II; all bits of the registers are compared, the immediate
sign-extended (R752, R753, R800 to R812, R1025, R1026, R1030). -/
def Obligations.SyscallBreakAndTraps : Prop :=
  (∀ (s : State) (code : BitVec 20),
    exec (.syscall code) s = .next (takeException .syscall s) ∧
      exec (.brk code) s = .next (takeException .breakpoint s)) ∧
  ((∀ row ∈ [(Instr.tge, fun a b : DWord => decide (b.toInt ≤ a.toInt)),
      (Instr.tgeu, fun a b : DWord => decide (b.toNat ≤ a.toNat)), (Instr.tlt, fun a b : DWord => decide (a.toInt < b.toInt)),
      (Instr.tltu, fun a b : DWord => decide (a.toNat < b.toNat)), (Instr.teq, fun a b : DWord => decide (a = b)),
      (Instr.tne, fun a b : DWord => decide (a ≠ b))],
    ∀ (s : State) (rs rt : RegNum) (code : BitVec 10),
      (s.HasIsa .mips2 → ∃ a b, s.Reads rs a ∧ s.Reads rt b ∧
        (row.2 a b = false → Completes (row.1 rs rt code) s fun t => Frame {} s t ∧ Sequential s t) ∧
        (row.2 a b = true → Traps (row.1 rs rt code) s .trap)) ∧
      (¬s.HasIsa .mips2 → Traps (row.1 rs rt code) s .reservedInstruction)) ∧
  ∀ row ∈ [(Instr.tgei, fun a b : DWord => decide (b.toInt ≤ a.toInt)),
      (Instr.tgeiu, fun a b : DWord => decide (b.toNat ≤ a.toNat)), (Instr.tlti, fun a b : DWord => decide (a.toInt < b.toInt)),
      (Instr.tltiu, fun a b : DWord => decide (a.toNat < b.toNat)), (Instr.teqi, fun a b : DWord => decide (a = b)),
      (Instr.tnei, fun a b : DWord => decide (a ≠ b))],
    ∀ (s : State) (rs : RegNum) (imm : BitVec 16),
      (s.HasIsa .mips2 → ∃ a, s.Reads rs a ∧
        (row.2 a (imm.signExtend 64) = false → Completes (row.1 rs imm) s fun t => Frame {} s t ∧ Sequential s t) ∧
        (row.2 a (imm.signExtend 64) = true → Traps (row.1 rs imm) s .trap)) ∧
      (¬s.HasIsa .mips2 → Traps (row.1 rs imm) s .reservedInstruction))

/-- MFC0 reads the low word of a register, sign-extended, its reserved bits unknown; DMFC0 all 64 bits of a 64-bit
register. MTC0 and DMTC0 write the register named, of a 64-bit register MTC0 only the low word for certain; a number
that names no register changes nothing; of a 32-bit register DMTC0 writes an undefined word. Three writes have no meaning, and
are refused: on the R4650 one to CAlg that changes the algorithm under the running program and a change of a base or bounds
register from mapped space, on an R30xx one to Config, BusCtrl or PortSize from outside kseg1. Which number names which
register on which member; what a read shows: of PRId the member's Imp and Rev, of Cause the live request lines in IP[7:2], of
Random its field, of every other register what it holds, with the reserved fields of a few unknown (R101 to R104, R124, R143,
R150, R166, R167, R170, R172, R190, R196, R197, R342, R770 to R773, R891, R1148, R1149). The numbers of Config on the R4xxx and
R5000 and of LLAddr, WatchLo, WatchHi, TagLo and TagHi are the spec's general knowledge (decision D2 of the spec, log entry 38).
That bits 31:16 of PRId, which R104 calls reserved, read zero on the R3041 is the model's reading of R1106 (DEDUCED, log entry
56); that FPInt of the R3071 reads any value is its choice (DESIGN CHOICE, log entry 34), and so are a number without a
register and the other reserved bits (DESIGN CHOICE, log entry 32). -/
def Obligations.Cp0Moves : Prop :=
  (∀ (p : Params) (n : RegNum) (r : Cp0Name), cp0NameOf p n = some r ↔ (n, r) ∈ cp0Table p) ∧
  (∀ (p : Params) (r : Cp0Name), cp0Reserved p r = match r with
    | .prId => if p.cpu = .r3041 then 0#32 else 0xFFFF0000#32
    | .index => if p.cpu.is30xx then 0x7FFFC0FF#32 else 0#32
    | .random => if p.cpu.is30xx then 0xFFFFC0FF#32 else 0#32
    | .config => if p.cpu = .r3071 then 0x1C7FFFFF#32 else if p.cpu = .r3081 then 0x007FFFFF#32 else 0#32
    | .iWatch => 2#32
    | .dWatch => 1#32
    | _ => 0#32) ∧
  (∀ s : State,
    let c := s.cp0
    (∀ row ∈ [(Cp0Name.sr, c.sr), (.index, c.index), (.pageMask, c.pageMask), (.count, c.count), (.compare, c.compare),
        (.config, c.config), (.llAddr, c.llAddr), (.watchLo, c.watchLo), (.watchHi, c.watchHi), (.ecc, c.ecc),
        (.cacheErr, c.cacheErr), (.tagLo, c.tagLo), (.tagHi, c.tagHi), (.iBase, c.iBase), (.iBound, c.iBound),
        (.dBase, c.dBase), (.dBound, c.dBound), (.cAlg, c.cAlg), (.iWatch, c.iWatch), (.dWatch, c.dWatch),
        (.busCtrl, c.busCtrl), (.portSize, c.portSize)], s.cp0Val row.1 = row.2.signExtend 64) ∧
    (∀ row ∈ [(Cp0Name.entryLo, c.entryLo0), (.entryLo0, c.entryLo0), (.entryLo1, c.entryLo1), (.context, c.context),
        (.badVAddr, c.badVAddr), (.entryHi, c.entryHi), (.epc, c.epc), (.xContext, c.xContext), (.errorEpc, c.errorEpc)],
      s.cp0Val row.1 = row.2) ∧
    (s.cp0Val .wired = c.wired.setWidth 64 ∧ (s.par.cpu.is30xx = false → s.cp0Val .random = c.random.setWidth 64) ∧
      (s.par.cpu.is30xx = true → (s.cp0Val .random).extractLsb' 8 6 = c.random)) ∧
    ((s.cp0Val .prId).extractLsb' 8 8 = s.par.imp ∧ (s.cp0Val .prId).extractLsb' 0 8 = s.par.rev ∧
      (s.cp0Val .prId).extractLsb' 16 48 = 0 ∧
      (∀ row ∈ [(Cpu.r3051, 3#8), (.r3052, 3#8), (.r3071, 3#8), (.r3081, 3#8), (.r3041, 7#8), (.r36100, 7#8), (.r4600, 0x20#8),
        (.r4700, 0x21#8), (.r4650, 0x22#8)], s.par.cpu = row.1 → s.par.imp = row.2) ∧
      (s.par.cpu = .r3041 → s.par.rev = 0) ∧ (s.par.cpu = .r36100 → s.par.rev = 10)) ∧
    ∀ i, bit (lo32 (s.cp0Val .cause)) i =
      if 10 ≤ i ∧ i < 16 then
        if s.par.cpu = .r3081 ∧ (c.config.extractLsb' 26 3).toNat = i - 10 then
          bit s.fpu.fcr31 17 || s.fpu.fcr31.extractLsb' 12 5 &&& s.fpu.fcr31.extractLsb' 7 5 != 0#5
        else bit s.inp.int (i - 10) || (s.par.cpu.is30xx == false && i == 15 && s.timerIrq)
      else bit c.cause i) ∧
  (∀ (s : State) (rt rd : RegNum), s.CopUsable 0#2 →
    (Completes (.mfc0 rt rd) s fun t =>
      (rt ≠ 0#5 → ∀ r, cp0NameOf s.par rd = some r →
        ∃ x, t.gprVal rt = (merge (cp0Reserved s.par r) (lo32 (s.cp0Val r)) x).signExtend 64) ∧
        Frame { gpr := [rt] } s t ∧ Sequential s t) ∧
    (s.Has64 → Completes (.dmfc0 rt rd) s fun t =>
      (rt ≠ 0#5 → ∀ r, cp0NameOf s.par rd = some r → cp0Wide s.par r = true → t.gprVal rt = s.cp0Val r) ∧
        Frame { gpr := [rt] } s t ∧ Sequential s t)) ∧
  (∀ (s : State) (rt rd : RegNum), s.CopUsable 0#2 →
    (∃ a, s.Reads rt a ∧
      (cp0NameOf s.par rd = none → Completes (.mtc0 rt rd) s fun t => Frame {} s t ∧ Sequential s t) ∧
      ∀ r, cp0NameOf s.par rd = some r →
        (s.cAlgActive r (sextLo a) = false → s.boundsActive r (sextLo a) = false → s.configOutside r = false →
          Completes (.mtc0 rt rd) s fun t =>
            (∃ u : Word, t.cp0 = (s.setCp0 r (if cp0Wide s.par r then u ++ lo32 a else sextLo a)).cp0) ∧
              t.timerIrq = (s.setCp0 r a).timerIrq ∧ t.halted = (s.setCp0 r a).halted ∧ t.tlb48 = s.tlb48 ∧
              t.tlb64 = s.tlb64 ∧ Frame { cp0 := true } s t ∧ Sequential s t) ∧
        (s.cAlgActive r (sextLo a) = true → exec (.mtc0 rt rd) s = .refused .cAlgActiveSpace) ∧
        (s.cAlgActive r (sextLo a) = false → s.boundsActive r (sextLo a) = true →
          exec (.mtc0 rt rd) s = .refused .boundsInMappedSpace) ∧
        (s.cAlgActive r (sextLo a) = false → s.boundsActive r (sextLo a) = false → s.configOutside r = true →
          exec (.mtc0 rt rd) s = .refused .configOutsideKseg1)) ∧
    (s.Has64 → ∃ a, s.Reads rt a ∧
      (cp0NameOf s.par rd = none → Completes (.dmtc0 rt rd) s fun t => Frame {} s t ∧ Sequential s t) ∧
      ∀ r, cp0NameOf s.par rd = some r →
        (cp0Wide s.par r = true → Completes (.dmtc0 rt rd) s fun t =>
          t.cp0 = (s.setCp0 r a).cp0 ∧ t.timerIrq = s.timerIrq ∧ t.halted = s.halted ∧ t.tlb48 = s.tlb48 ∧
            t.tlb64 = s.tlb64 ∧ Frame { cp0 := true } s t ∧ Sequential s t) ∧
        (cp0Wide s.par r = false → ∃ u : DWord, isWord u = true ∧
          (s.cAlgActive r u = false → s.boundsActive r u = false → Completes (.dmtc0 rt rd) s fun t =>
            t.cp0 = (s.setCp0 r u).cp0 ∧ t.timerIrq = (s.setCp0 r u).timerIrq ∧ t.halted = (s.setCp0 r u).halted ∧
              t.tlb48 = s.tlb48 ∧ t.tlb64 = s.tlb64 ∧ Frame { cp0 := true } s t ∧ Sequential s t) ∧
          (s.cAlgActive r u = true → exec (.dmtc0 rt rd) s = .refused .cAlgActiveSpace) ∧
          (s.cAlgActive r u = false → s.boundsActive r u = true →
            exec (.dmtc0 rt rd) s = .refused .boundsInMappedSpace))))

/-- What a write of each coprocessor 0 register leaves: PRId, BadVaddr, Random and CacheErr are read-only; the bits of SR, Cause,
Config, BusCtrl, Context, XContext, EntryHi, EntryLo, PageMask and Index that are not writable keep their values, those of
ECC and of the R4650's own registers read zero; a 1 written to the R30xx's SR.PE clears it; Config and BusCtrl take nothing
once their Lock is set, and Config.Halt stops the R3071 and R3081; a write of Wired sets Random to its upper bound, a write
of Compare clears the timer's request, and a write of Count that makes it equal to Compare raises it; the R3041's Count and
Compare have 24 bits (R104, R105, R113, R120, R123, R131, R140 to R143, R150 to R156, R160 to R184). The clearing of SR.PE is the
spec's inference from code (log entry 60); that a write of Compare clears the request even where it equals Count (log entry
36), that reserved bits of Config take no write, FPInt among them on the R3071 (log entry 34), and that the BadVPN2 fields are
writable on the R4xxx (log entry 33), are the model's choices. That LLAddr, WatchLo,
WatchHi, TagLo, TagHi and PortSize, whose fields the spec does not give, take all 32 bits is the model's choice (log entry
62); whether the R4650's Cause.IW and DW take a write is a parameter (log entry 61). -/
def Obligations.Cp0WriteRules : Prop :=
  ∀ (s : State) (v : DWord),
    let c := s.cp0
    let w := lo32 v
    let cpu := s.par.cpu
    (s.setCp0 .prId v = s ∧ s.setCp0 .badVAddr v = s ∧ s.setCp0 .random v = s ∧ s.setCp0 .cacheErr v = s) ∧
    (∃ x, Takes (if cpu.is30xx then 0xF247FF3F#32 else if cpu.is4650 then 0xF7D7FF37#32 else 0xF657FFFF#32) c.sr w x ∧
      (s.setCp0 .sr v).cp0.sr = if cpu.is30xx && bit w 20 then setBit x 20 false else x) ∧
    Takes (if cpu.is4650 then (if s.par.causeWatchWritable then 0x03800300#32 else 0x00800300#32) else 0x300#32)
      c.cause w (s.setCp0 .cause v).cp0.cause ∧
    Takes (match cpu with
      | .r3041 => if bit c.config 31 then 0#32 else 0xA0080000#32
      | .r3071 => if bit c.config 31 then 0#32 else 0xE3800000#32
      | .r3081 => if bit c.config 31 then 0#32 else 0xFF800000#32
      | .r4600 | .r4700 | .r5000 => 7#32
      | .r3051 | .r3052 | .r36100 | .r4650 | .r4640 => 0#32) c.config w (s.setCp0 .config v).cp0.config ∧
    Takes (if cpu.is30xx then 0xFFFFFFFFFFE00000#64 else 0xFFFFFFFFFFFFFFF0#64) c.context v (s.setCp0 .context v).cp0.context ∧
    Takes 0xFFFFFFFFFFFFFFF0#64 c.xContext v (s.setCp0 .xContext v).cp0.xContext ∧
    Takes (if cpu.is30xx then 0xFFFFFFFFFFFFFFC0#64 else 0xC00000FFFFFFE0FF#64) c.entryHi v (s.setCp0 .entryHi v).cp0.entryHi ∧
    Takes 0xFFFFFFFFFFFFFF00#64 c.entryLo0 v (s.setCp0 .entryLo v).cp0.entryLo0 ∧
    Takes 0x3FFFFFFF#64 c.entryLo0 v (s.setCp0 .entryLo0 v).cp0.entryLo0 ∧
    Takes 0x3FFFFFFF#64 c.entryLo1 v (s.setCp0 .entryLo1 v).cp0.entryLo1 ∧
    Takes 0x01FFE000#32 c.pageMask w (s.setCp0 .pageMask v).cp0.pageMask ∧
    Takes (if cpu.is30xx then 0x80003F00#32 else 0x8000003F#32) c.index w (s.setCp0 .index v).cp0.index ∧
    ((s.setCp0 .ecc v).cp0.ecc = w &&& 0xFF#32 ∧ (s.setCp0 .iBase v).cp0.iBase = w &&& 0xFFFFF000#32 ∧
      (s.setCp0 .iBound v).cp0.iBound = w &&& 0x7FFFF000#32 ∧ (s.setCp0 .dBase v).cp0.dBase = w &&& 0xFFFFF000#32 ∧
      (s.setCp0 .dBound v).cp0.dBound = w &&& 0x7FFFF000#32 ∧ (s.setCp0 .cAlg v).cp0.cAlg = w &&& 0x77777777#32 ∧
      (s.setCp0 .iWatch v).cp0.iWatch = w &&& 0xFFFFFFFD#32 ∧ (s.setCp0 .dWatch v).cp0.dWatch = w &&& 0xFFFFFFFE#32) ∧
    ((s.setCp0 .config v).halted = (cpu.is3071 && !bit c.config 31 && bit w 25) ∧
      Takes (if bit c.busCtrl 31 then 0#32 else 0x8FE8F800#32) c.busCtrl w (s.setCp0 .busCtrl v).cp0.busCtrl) ∧
    ((s.setCp0 .portSize v).cp0.portSize = w ∧ (s.setCp0 .llAddr v).cp0.llAddr = w ∧
      (s.setCp0 .watchLo v).cp0.watchLo = w ∧ (s.setCp0 .watchHi v).cp0.watchHi = w ∧
      (s.setCp0 .tagLo v).cp0.tagLo = w ∧ (s.setCp0 .tagHi v).cp0.tagHi = w) ∧
    ((s.setCp0 .wired v).cp0.random = 47#6 ∧ (s.setCp0 .wired v).cp0.wired = v.extractLsb' 0 6) ∧
    ((s.setCp0 .compare v).timerIrq = false ∧ (cpu ≠ .r3041 → (s.setCp0 .compare v).cp0.compare = w) ∧
      (cpu ≠ .r3041 → (s.setCp0 .count v).cp0.count = w) ∧
      (cpu = .r3041 → (s.setCp0 .compare v).cp0.compare = w &&& 0x00FFFFFF#32 ∧
        (s.setCp0 .count v).cp0.count = w &&& 0x00FFFFFF#32) ∧
      (cpu.is30xx = false → w = c.compare → (s.setCp0 .count v).timerIrq = true) ∧
      (cpu.is30xx = true ∨ w ≠ c.compare → (s.setCp0 .count v).timerIrq = s.timerIrq)) ∧
    (s.setCp0 .epc v).cp0.epc = v ∧ (s.setCp0 .errorEpc v).cp0.errorEpc = v

/-- Without the right to a coprocessor its instructions that the member has take Coprocessor Unusable with its number in CE, and
change nothing before: coprocessor 0 in a mode other than kernel with CU0 clear, coprocessor 1, 2 or 3 with its CU bit
clear; coprocessor 3 below MIPS III only (R106, R369, R751, R774 to R776, R830, R1028). -/
def Obligations.CoprocessorUnusable : Prop :=
  ∀ (s : State) (q r t u : RegNum) (sa : BitVec 5) (off : BitVec 16) (cc : BitVec 3) (fn : BitVec 25),
    let unusable (z : BitVec 2) (i : Instr) : Prop := exec i s = .next (takeException (.coprocessorUnusable z) s)
    (s.CopUnusable 0#2 →
      (∀ i ∈ [Instr.mfc0 q r, .mtc0 q r, .dmfc0 q r, .dmtc0 q r, .tlbr, .tlbwi, .tlbwr, .tlbp, .rfe, .eret, .wait, .bc0f off,
        .bc0t off, .bc0fl off, .bc0tl off], unusable 0#2 i) ∧
      (s.HasIsa .mips3 → unusable 0#2 (.cache q sa off))) ∧
    (s.CopUnusable 1#2 →
      (∀ i ∈ [Instr.mfc1 q r, .mtc1 q r, .cfc1 q r, .ctc1 q r, .dmfc1 q r, .dmtc1 q r, .lwc1 q r off, .swc1 q r off,
        .bc1f cc off, .bc1t cc off, .bc1fl cc off, .bc1tl cc off, .movS q r, .movD q r, .movfS cc q r, .movfD cc q r,
        .movtS cc q r, .movtD cc q r, .movnS t q r, .movnD t q r, .movzS t q r, .movzD t q r], unusable 1#2 i) ∧
      (∀ i ∈ [Instr.addS q r t, .addD q r t, .subS q r t, .subD q r t, .mulS q r t, .mulD q r t, .divS q r t, .divD q r t,
        .sqrtS q r, .sqrtD q r, .absS q r, .absD q r, .negS q r, .negD q r, .recipS q r, .recipD q r, .rsqrtS q r,
        .rsqrtD q r], unusable 1#2 i) ∧
      (∀ i ∈ [Instr.cvtSD q r, .cvtDS q r, .cvtSW q r, .cvtDW q r, .cvtSL q r, .cvtDL q r, .cvtWS q r, .cvtWD q r, .cvtLS q r,
        .cvtLD q r, .roundWS q r, .roundWD q r, .truncWS q r, .truncWD q r, .ceilWS q r, .ceilWD q r, .floorWS q r,
        .floorWD q r, .roundLS q r, .roundLD q r, .truncLS q r, .truncLD q r, .ceilLS q r, .ceilLD q r, .floorLS q r,
        .floorLD q r], unusable 1#2 i) ∧
      (∀ mk ∈ [Instr.cFS, Instr.cUnS, Instr.cEqS, Instr.cUeqS, Instr.cOltS, Instr.cUltS, Instr.cOleS, Instr.cUleS,
        Instr.cSfS, Instr.cNgleS, Instr.cSeqS, Instr.cNglS, Instr.cLtS, Instr.cNgeS, Instr.cLeS, Instr.cNgtS, Instr.cFD,
        Instr.cUnD, Instr.cEqD, Instr.cUeqD, Instr.cOltD, Instr.cUltD, Instr.cOleD, Instr.cUleD, Instr.cSfD, Instr.cNgleD,
        Instr.cSeqD, Instr.cNglD, Instr.cLtD, Instr.cNgeD, Instr.cLeD, Instr.cNgtD], unusable 1#2 (mk q r cc)) ∧
      (s.HasIsa .mips2 → unusable 1#2 (.ldc1 q r off) ∧ unusable 1#2 (.sdc1 q r off)) ∧
      (s.HasIsa .mips4 → ∀ i ∈ [Instr.movf q cc r, .movt q cc r, .lwxc1 q r t, .ldxc1 q r t, .swxc1 q r t, .sdxc1 q r t,
        .prefx q r sa, .maddS q r t u, .maddD q r t u, .msubS q r t u, .msubD q r t u, .nmaddS q r t u, .nmaddD q r t u,
        .nmsubS q r t u, .nmsubD q r t u], unusable 1#2 i)) ∧
    (s.CopUnusable 2#2 →
      (∀ i ∈ [Instr.mfc2 q r, .mtc2 q r, .cfc2 q r, .ctc2 q r, .cop2 fn, .lwc2 q r off, .swc2 q r off, .bc2f off, .bc2t off,
        .bc2fl off, .bc2tl off], unusable 2#2 i) ∧
      (s.HasIsa .mips2 → unusable 2#2 (.ldc2 q r off) ∧ unusable 2#2 (.sdc2 q r off))) ∧
    (s.CopUnusable 3#2 → ∀ i ∈ [Instr.mfc3 q r, .mtc3 q r, .cfc3 q r, .ctc3 q r, .cop3 fn, .lwc3 q r off, .swc3 q r off,
      .bc3f off, .bc3t off, .bc3fl off, .bc3tl off], unusable 3#2 i)

/-- RFE on an R30xx moves the previous and old mode and interrupt bits down, bits 3:0 of SR getting bits 5:2, and
changes no other bit; elsewhere it is reserved. ERET on an R4xxx or R5000, outside a delay slot, goes to ErrorEPC and
clears ERL where ERL is set, else to EPC and clears EXL; it has no delay slot and clears LLbit; on an R30xx it is
reserved (R108, R385, R791, R792, R1050, R1051). Both keep HI and LO but after a program that wrote them too close to a read,
where R1122 calls them unpredictable and the return makes both free, once for each breach (DESIGN CHOICE, log entry 19). -/
def Obligations.ReturnFromException : Prop :=
  (∀ s : State, s.CopUsable 0#2 →
    (s.par.cpu.is30xx = true → Completes .rfe s fun t =>
      t.cp0.sr.extractLsb' 0 4 = s.cp0.sr.extractLsb' 2 4 ∧ (∀ i, 4 ≤ i → bit t.cp0.sr i = bit s.cp0.sr i) ∧
        t.cp0 = { s.cp0 with sr := t.cp0.sr } ∧ t.tlb64 = s.tlb64 ∧ t.tlb48 = s.tlb48 ∧
        Frame { cp0 := true, hilo := s.haz.hiloBroken } s t ∧ Sequential s t) ∧
    (s.par.cpu.is30xx = false → Traps .rfe s .reservedInstruction)) ∧
  (∀ s : State, s.CopUsable 0#2 →
    (s.par.cpu.is30xx = false → s.inDelay = false → Completes .eret s fun t =>
      t.pc = (if s.erl then s.cp0.errorEpc else s.cp0.epc) ∧ t.nextPc = t.pcNorm (t.pc + 4) ∧ t.inDelay = false ∧
        t.llBit = false ∧ t.link = s.link ∧
        t.erl = false ∧ t.exl = (s.erl && s.exl) ∧ (∀ i, i ≠ 1 → i ≠ 2 → bit t.cp0.sr i = bit s.cp0.sr i) ∧
        t.cp0 = { s.cp0 with sr := t.cp0.sr } ∧
        Frame { cp0 := true, link := true, hilo := s.haz.hiloBroken } s t) ∧
    (s.par.cpu.is30xx = true → Traps .eret s .reservedInstruction))

/-- The TLB instructions. On an R30xx E version TLBWI and TLBWR write the entry Index or Random names, TLBR reads it back into
EntryHi and EntryLo, TLBP finds the one entry that matches (R302 to R305, R795 to R798). On an Orion TLB CPU they do so for an
entry number below 48 and a page size of Table 6.5: the pair written has G where both EntryLo registers have it, and
reading it back gives both (R310 to R313). A probe that finds two entries shuts the TLB of an R30xx down, by SR.TS (R318), and
is refused on an Orion TLB CPU (log entry 39). On a member without a TLB the four do nothing (R305, R343; decision D17 of the
spec, log entry 59). -/
def Obligations.TlbInstructions : Prop :=
  (∀ s : State, s.CopUsable 0#2 → s.par.mmu ≠ .tlb64 → s.par.mmu ≠ .tlb48 →
    ∀ i ∈ [Instr.tlbr, .tlbwi, .tlbwr, .tlbp], Completes i s fun t => Frame {} s t ∧ Sequential s t) ∧
  (∀ s : State, s.CopUsable 0#2 → s.par.mmu = .tlb64 →
    (Completes .tlbwi s fun t =>
      t.tlb64 = s.tlb64.set s.index64.toNat (tlb64FromRegs (lo32 s.cp0.entryHi) (lo32 s.cp0.entryLo0)) s.index64.isLt ∧
        t.cp0 = s.cp0 ∧ t.tlb48 = s.tlb48 ∧ Frame { cp0 := true } s t ∧ Sequential s t) ∧
    (Completes .tlbwr s fun t =>
      t.tlb64 = s.tlb64.set s.cp0.random.toNat (tlb64FromRegs (lo32 s.cp0.entryHi) (lo32 s.cp0.entryLo0))
          s.cp0.random.isLt ∧
        t.cp0 = s.cp0 ∧ t.tlb48 = s.tlb48 ∧ Frame { cp0 := true } s t ∧ Sequential s t) ∧
    (Completes .tlbr s fun t =>
      tlb64FromRegs (lo32 t.cp0.entryHi) (lo32 t.cp0.entryLo0) = s.tlb64[s.index64.toNat]'s.index64.isLt ∧
        t.cp0 = { s.cp0 with entryHi := t.cp0.entryHi, entryLo0 := t.cp0.entryLo0 } ∧ t.tlb64 = s.tlb64 ∧
        Frame { cp0 := true } s t ∧ Sequential s t) ∧
    (∀ e n, s.tlb64Hits (s.cp0.entryHi.extractLsb' 12 20) (s.cp0.entryHi.extractLsb' 6 6) = [(e, n)] →
      Completes .tlbp s fun t => bit t.cp0.index 31 = false ∧ t.cp0.index.extractLsb' 8 6 = BitVec.ofNat 6 n ∧
        t.cp0 = { s.cp0 with index := t.cp0.index } ∧ t.tlb64 = s.tlb64 ∧ Frame { cp0 := true } s t ∧ Sequential s t) ∧
    (s.tlb64Hits (s.cp0.entryHi.extractLsb' 12 20) (s.cp0.entryHi.extractLsb' 6 6) = [] →
      Completes .tlbp s fun t => bit t.cp0.index 31 = true ∧ t.cp0 = { s.cp0 with index := t.cp0.index } ∧
        t.tlb64 = s.tlb64 ∧ Frame { cp0 := true } s t ∧ Sequential s t) ∧
    (2 ≤ (s.tlb64Hits (s.cp0.entryHi.extractLsb' 12 20) (s.cp0.entryHi.extractLsb' 6 6)).length →
      exec .tlbp s = .next (s.setSr (setBit s.cp0.sr 21 true)))) ∧
  ∀ s : State, s.CopUsable 0#2 → s.par.mmu = .tlb48 →
    let e := tlb48FromRegs s.cp0.pageMask s.cp0.entryHi s.cp0.entryLo0 s.cp0.entryLo1
    (∀ h : (s.cp0.index.extractLsb' 0 6).toNat < 48,
      (pageMaskLegal (s.cp0.pageMask.extractLsb' 13 12) = true → Completes .tlbwi s fun t =>
        t.tlb48 = s.tlb48.set (s.cp0.index.extractLsb' 0 6).toNat e h ∧ t.cp0 = s.cp0 ∧
          Frame { cp0 := true } s t ∧ Sequential s t) ∧
      Completes .tlbr s fun t =>
        let r := s.tlb48[(s.cp0.index.extractLsb' 0 6).toNat]
        tlb48FromRegs t.cp0.pageMask t.cp0.entryHi t.cp0.entryLo0 t.cp0.entryLo1 =
            { r with vpn2 := r.vpn2 &&& ~~~(r.mask.setWidth 27) } ∧
          bit t.cp0.entryLo0 0 = r.g ∧ bit t.cp0.entryLo1 0 = r.g ∧
          t.cp0 = { s.cp0 with
            pageMask := t.cp0.pageMask, entryHi := t.cp0.entryHi, entryLo0 := t.cp0.entryLo0
            entryLo1 := t.cp0.entryLo1 } ∧
          t.tlb48 = s.tlb48 ∧ Frame { cp0 := true } s t ∧ Sequential s t) ∧
    (∀ h : s.cp0.random.toNat < 48, pageMaskLegal (s.cp0.pageMask.extractLsb' 13 12) = true →
      Completes .tlbwr s fun t => t.tlb48 = s.tlb48.set s.cp0.random.toNat e h ∧ t.cp0 = s.cp0 ∧
        Frame { cp0 := true } s t ∧ Sequential s t) ∧
    (∀ x n, s.tlb48Hits (s.cp0.entryHi.extractLsb' 62 2) (s.cp0.entryHi.extractLsb' 13 27)
        (s.cp0.entryHi.extractLsb' 0 8) = [(x, n)] → Completes .tlbp s fun t =>
      t.cp0 = { s.cp0 with index := BitVec.ofNat 32 n } ∧ t.tlb48 = s.tlb48 ∧ Frame { cp0 := true } s t ∧ Sequential s t) ∧
    (s.tlb48Hits (s.cp0.entryHi.extractLsb' 62 2) (s.cp0.entryHi.extractLsb' 13 27)
        (s.cp0.entryHi.extractLsb' 0 8) = [] → Completes .tlbp s fun t =>
      bit t.cp0.index 31 = true ∧ t.cp0 = { s.cp0 with index := t.cp0.index } ∧ t.tlb48 = s.tlb48 ∧
        Frame { cp0 := true } s t ∧ Sequential s t) ∧
    (2 ≤ (s.tlb48Hits (s.cp0.entryHi.extractLsb' 62 2) (s.cp0.entryHi.extractLsb' 13 27)
        (s.cp0.entryHi.extractLsb' 0 8)).length → exec .tlbp s = .refused .tlbMultipleMatch)

/-- CACHE in a mode that may run it, at an address that translates, changes no register but, for an Index Load Tag, TagLo and
ECC, and no memory but, for a Create Dirty Exclusive of the D-cache at a cached address, the 32 bytes of its block, whose
data is not specified from then on (R254, R267, R780, R783, R785; log entries 11 and 49). -/
def Obligations.CacheInstruction : Prop :=
  ∀ (s : State) (base : RegNum) (op : BitVec 5) (off : BitVec 16), s.HasIsa .mips3 → s.CopUsable 0#2 →
    ∃ b, s.Reads base b ∧
      ∀ pa cca, translate (s.normVa (b + off.signExtend 64)) .load 1 s = .ok ((pa, cca), s) →
        Completes (.cache base op off) s fun t =>
          t.cp0 = { s.cp0 with tagLo := t.cp0.tagLo, ecc := t.cp0.ecc } ∧
            (op ∉ [4#5, 5#5, 7#5] → t.cp0 = s.cp0) ∧ t.tlb48 = s.tlb48 ∧
            (∀ a, a / 32 ≠ pa / 32 ∨ op ≠ 0x0D#5 ∨ cca = 2#3 → memRead t.mem a = memRead s.mem a) ∧
            Frame { cp0 := true, mem := (List.range 32).map (pa / 32 * 32 + ·) } s t ∧ Sequential s t

/-! ### Exceptions -/

/-- Taking an exception on an R30xx (R1040): EPC is the instruction, or the branch before it; Cause gets the code, BD and,
for Coprocessor Unusable, CE; the three pairs of SR move up and kernel mode with interrupts disabled is entered; an
addressing exception leaves its address in BadVaddr, a TLB exception its page in Context and EntryHi; control goes to
the UTLB vector for a refill of a kuseg page, else to the general one, at the bootstrap place where BEV is set, and from
there on in order: a pending branch is discarded. Every
other bit of SR, Cause.IP, and all general registers, memory and FPU registers are unchanged. -/
def Obligations.ExceptionEntry30xx : Prop :=
  ∀ (s : State) (e : Exc), s.par.cpu.is30xx = true → e.common = true →
    let t := takeException e s
    t.cp0.epc = (if s.inDelay then s.pcNorm (s.pc - 4) else s.pc) ∧ bit t.cp0.cause 31 = s.inDelay ∧
      t.cp0.cause.extractLsb' 2 5 = e.code ∧ (∀ z, e = .coprocessorUnusable z → t.cp0.cause.extractLsb' 28 2 = z) ∧
      t.cp0.sr.extractLsb' 2 4 = s.cp0.sr.extractLsb' 0 4 ∧ t.mode? = some .kernel ∧ bit t.cp0.sr 0 = false ∧
      (∀ i, 6 ≤ i → bit t.cp0.sr i = bit s.cp0.sr i) ∧
      (∀ va st, e = .tlbRefill va st → bit va 31 = false →
        t.pc = if s.bev then 0xFFFFFFFFBFC00100#64 else 0xFFFFFFFF80000000#64) ∧
      ((∀ va st, e = .tlbRefill va st → bit va 31 = true) →
        t.pc = if s.bev then 0xFFFFFFFFBFC00180#64 else 0xFFFFFFFF80000080#64) ∧
      t.nextPc = t.pcNorm (t.pc + 4) ∧ t.inDelay = false ∧ (∀ va, e.badVa = some va → t.cp0.badVAddr = va) ∧
      (∀ va, e.tlbVa = some va → t.cp0.context.extractLsb' 2 19 = va.extractLsb' 12 19 ∧
        t.cp0.context.extractLsb' 21 11 = s.cp0.context.extractLsb' 21 11 ∧
        t.cp0.entryHi.extractLsb' 12 20 = va.extractLsb' 12 20 ∧
        t.cp0.entryHi.extractLsb' 6 6 = s.cp0.entryHi.extractLsb' 6 6) ∧
      (e.tlbVa = none → t.cp0.context = s.cp0.context ∧ t.cp0.entryHi = s.cp0.entryHi) ∧
      t.cp0.cause.extractLsb' 8 8 = s.cp0.cause.extractLsb' 8 8 ∧ t.tlb64 = s.tlb64 ∧ Frame { cp0 := true } s t

/-- Taking an exception on an R4xxx or R5000 (R1041): with EXL clear EPC and BD are written, and an addressing exception
leaves its address in BadVAddr; with EXL set they keep their values; Cause gets the code, CE for Coprocessor Unusable,
and which register matched for Watch; a TLB exception leaves its page in Context, XContext and EntryHi, the ASID and
the PTEBase fields kept; EXL is set, so that kernel mode is entered with interrupts disabled, and no other bit of SR
changes; control goes to the general vector, on the R4650 with IV to its own for an interrupt, or to a refill vector
where EXL was clear, the one of UX, SX and KX choosing it that belongs to the segment of the address, user, supervisor or
kernel (log entry 8); a pending branch is discarded. Whether Context is written with EXL set too is a parameter;
that XContext and EntryHi are is the model's choice (log entry 44). No general register, no memory, no FPU register and no
link changes. Cache Error has an entry of its own (R1034): ErrorEPC, ERL and CacheErr, whose zero bits stay zero (R164), and
no other register; control goes to the uncached vector. What CacheErr gets from an access: of an internal reference SIdx is
the physical address 21:3 of the access and PIdx its virtual address 13:12, the other fields are the host's (R164); that of an
external reference both are the host's is the model's choice (log entry 42). -/
def Obligations.ExceptionEntry4xxx : Prop :=
  (∀ (s : State) (e : Exc), s.par.cpu.is30xx = false → e.common = true →
    let t := takeException e s
    (s.exl = false → t.cp0.epc = (if s.inDelay then s.pcNorm (s.pc - 4) else s.pc) ∧ bit t.cp0.cause 31 = s.inDelay ∧
        ∀ va, e.badVa = some va → t.cp0.badVAddr = va) ∧
      (s.exl = true → t.cp0.epc = s.cp0.epc ∧ bit t.cp0.cause 31 = bit s.cp0.cause 31 ∧
        t.cp0.badVAddr = s.cp0.badVAddr) ∧
      t.cp0.cause.extractLsb' 2 5 = e.code ∧ (∀ z, e = .coprocessorUnusable z → t.cp0.cause.extractLsb' 28 2 = z) ∧
      t.exl = true ∧ t.mode? = some .kernel ∧ t.interruptReady = false ∧
      (∀ i, i ≠ 1 → bit t.cp0.sr i = bit s.cp0.sr i) ∧
      ((∀ va st, e ≠ .tlbRefill va st) → (s.par.cpu.is4650 = false ∨ e ≠ .interrupt) →
        t.pc = if s.bev then 0xFFFFFFFFBFC00380#64 else 0xFFFFFFFF80000180#64) ∧
      (∀ va st, e = .tlbRefill va st → s.exl = true →
        t.pc = if s.bev then 0xFFFFFFFFBFC00380#64 else 0xFFFFFFFF80000180#64) ∧
      (∀ va st, e = .tlbRefill va st → s.exl = false →
        let wide := if va.toNat < 2 ^ 62 then bit s.cp0.sr 5
          else if va.toNat < 2 ^ 63 ∨ (0xFFFFFFFFC0000000 ≤ va.toNat ∧ va.toNat < 0xFFFFFFFFE0000000) then bit s.cp0.sr 6
          else bit s.cp0.sr 7
        t.pc = if wide then
          (if s.bev then 0xFFFFFFFFBFC00280#64 else 0xFFFFFFFF80000080#64)
        else if s.bev then 0xFFFFFFFFBFC00200#64 else 0xFFFFFFFF80000000#64) ∧
      (s.par.cpu.is4650 = true → e = .interrupt → t.pc = if bit s.cp0.cause 23 then
          (if s.bev then 0xFFFFFFFFBFC00400#64 else 0xFFFFFFFF80000200#64)
        else if s.bev then 0xFFFFFFFFBFC00380#64 else 0xFFFFFFFF80000180#64) ∧
      (∀ iw dw, e = .watch iw dw → s.par.cpu.is4650 = true → bit t.cp0.cause 24 = iw ∧ bit t.cp0.cause 25 = dw) ∧
      (∀ va, e.tlbVa = some va →
        (s.exl = false ∨ s.par.contextUnderExl = true → t.cp0.context.extractLsb' 4 19 = va.extractLsb' 13 19) ∧
        (s.exl = true → s.par.contextUnderExl = false → t.cp0.context = s.cp0.context) ∧
        t.cp0.context.extractLsb' 0 4 = s.cp0.context.extractLsb' 0 4 ∧
        t.cp0.context.extractLsb' 23 41 = s.cp0.context.extractLsb' 23 41 ∧
        t.cp0.xContext.extractLsb' 4 27 = va.extractLsb' 13 27 ∧ t.cp0.xContext.extractLsb' 31 2 = va.extractLsb' 62 2 ∧
        t.cp0.xContext.extractLsb' 33 31 = s.cp0.xContext.extractLsb' 33 31 ∧
        t.cp0.entryHi.extractLsb' 13 27 = va.extractLsb' 13 27 ∧ t.cp0.entryHi.extractLsb' 62 2 = va.extractLsb' 62 2 ∧
        t.cp0.entryHi.extractLsb' 0 8 = s.cp0.entryHi.extractLsb' 0 8) ∧
      (e.tlbVa = none → t.cp0.context = s.cp0.context ∧ t.cp0.xContext = s.cp0.xContext ∧
        t.cp0.entryHi = s.cp0.entryHi) ∧
      t.nextPc = t.pcNorm (t.pc + 4) ∧ t.inDelay = false ∧ t.tlb48 = s.tlb48 ∧ Frame { cp0 := true } s t) ∧
  (∀ (s : State) (info : Word) (va : DWord) (pa : Nat),
    let c := (takeException (.cacheError (cacheErrImage info va pa)) s).cp0.cacheErr
    c.extractLsb' 25 7 = info.extractLsb' 25 7 ∧ c.extractLsb' 22 3 = 0#3 ∧ bit c 2 = false ∧
      (bit info 27 = false → c.extractLsb' 3 19 = (BitVec.ofNat 32 pa).extractLsb' 3 19 ∧
        c.extractLsb' 0 2 = va.extractLsb' 12 2) ∧
      (bit info 27 = true → c.extractLsb' 3 19 = info.extractLsb' 3 19 ∧ c.extractLsb' 0 2 = info.extractLsb' 0 2)) ∧
  ∀ (s : State) (info : Word),
    let t := takeException (.cacheError info) s
    t.cp0 = { s.cp0 with
        errorEpc := if s.inDelay then s.pcNorm (s.pc - 4) else s.pc
        sr := t.cp0.sr, cacheErr := info &&& 0xFE3FFFFB#32 } ∧
      t.erl = true ∧ (∀ i, i ≠ 2 → bit t.cp0.sr i = bit s.cp0.sr i) ∧
      t.pc = (if s.bev then 0xFFFFFFFFBFC00300#64 else 0xFFFFFFFFA0000100#64) ∧ t.nextPc = t.pcNorm (t.pc + 4) ∧
      t.inDelay = false ∧ t.tlb48 = s.tlb48 ∧ Frame { cp0 := true } s t

/-- What comes before an instruction. When an interrupt is taken (R1060): at every boundary where nothing of higher rank comes
first, by the live values, it is taken instead of the next instruction where interrupts are enabled (R30xx: IEc; R4xxx and
R5000: IE with EXL and ERL clear) and a line that Cause shows is let through by SR.IM; where not, the instruction at pc runs. When a watch is
taken (R166, R1032): before an interrupt one that EXL or ERL postponed, once both are clear; and, on the R4650, at the
fetch from an address that IWatch names, or while EXL or ERL is set postponed, the instruction then running. That postponed
matches are remembered in two bits and reported in one exception is the spec's inference (log entry 43), how time passes in
such a step the model's choice (log entry 36). After a TLB shutdown, which sets SR.TS, an R30xx stands still for good (R318;
decision D18 of the spec); after Config.Halt it does, but for time, until an interrupt line is asserted (R150, log entry 34). A
cache parity error sets SR.PE of the R3071 and R3081 with PZ clear and is no exception; elsewhere on the R30xx, and with SR.DE
set, it has no effect (R105, R269; log entry 60); one reported for a fetch takes the Cache Error exception (R1034), before the
instruction TLB's exceptions (R1002), and CacheErr names the addresses of the fetch (R164), where it has no translation with some
physical address of its page offset (log entry 42). A fetch that the board answers with a bus error takes that exception
(R1024). -/
def Obligations.InterruptIsTaken : Prop :=
  (∀ s : State, s.request = none → s.inp.cacheError = none → s.isShutDown = false → s.standsStill = false →
    let due := (s.watchI = true ∨ s.watchD = true) ∧ s.exl = false ∧ s.erl = false
    let taken := bit s.cp0.sr 0 = true ∧ (s.par.cpu.is30xx = false → s.exl = false ∧ s.erl = false) ∧
      s.causeVal.extractLsb' 8 8 &&& s.cp0.sr.extractLsb' 8 8 ≠ 0#8
    (due → step s =
      .next (takeException (.watch s.watchI s.watchD) { s with watchI := false, watchD := false }).tickTime) ∧
      (¬due → taken → step s = .next (takeException .interrupt s.ready).tickTime) ∧
      (¬due → ¬taken → step s = afterTick (runNext s.ready))) ∧
  (∀ s : State,
    (takeException .tlbShutdown s).ts = true ∧
      takeException .tlbShutdown s = s.setSr (takeException .tlbShutdown s).cp0.sr ∧
      (∀ i, i ≠ 21 → bit (takeException .tlbShutdown s).cp0.sr i = bit s.cp0.sr i)) ∧
  (∀ s : State, s.request = none →
    (s.par.mmu = .tlb64 → s.ts = true → step s = .fault .tlbShutdown) ∧
      (s.inp.cacheError = none → (s.par.mmu = .tlb64 → s.ts = false) → s.halted = true →
        s.causeVal.extractLsb' 10 6 = 0#6 → step s = .next s.tick) ∧
      ∀ info, s.inp.cacheError = some info →
        (s.par.cpu.is3071 = true → bit s.cp0.sr 18 = false →
          step s = step (s.dropCacheError.setSr (setBit s.cp0.sr 20 true))) ∧
        ((s.par.cpu.is30xx = true ∧ (s.par.cpu.is3071 = false ∨ bit s.cp0.sr 18 = true)) ∨
            (s.par.cpu.is30xx = false ∧ bit s.cp0.sr 16 = true) → step s = step s.dropCacheError)) ∧
  (∀ (s : State) (info : Word) (seg : Segment), s.beforeFetch = none → locate s.pc .fetch 4 s.ready = .ok (seg, s.ready) →
    s.iWatchHit s.pc = false → s.MeetsCacheError false info →
      (∀ pa, s.ready.fetchPhys s.pc seg = some pa →
        step s = .next (takeException (.cacheError (cacheErrImage info s.pc pa)) s.ready.dropCacheError).tick) ∧
      (s.ready.fetchPhys s.pc seg = none → ∃ pa, pa % 4096 = s.pc.toNat % 4096 ∧
        step s = .next (takeException (.cacheError (cacheErrImage info s.pc pa)) s.ready.dropCacheError.useFree).tick)) ∧
  (∀ (s : State) (info : Word) (pa : Nat) (cca : BitVec 3), s.beforeFetch = none →
    translate s.pc .fetch 4 s.ready = .ok ((pa, cca), s.ready) → s.iWatchHit s.pc = false → s.MeetsCacheError false info →
      step s = .next (takeException (.cacheError (cacheErrImage info s.pc pa)) s.ready.dropCacheError).tick) ∧
  (∀ (s : State) (pa : Nat) (cca : BitVec 3), s.beforeFetch = none →
    translate s.pc .fetch 4 s.ready = .ok ((pa, cca), s.ready) → s.iWatchHit s.pc = false →
    s.ready.cacheErrorDue false = none → s.busErrorAt [pa, pa + 1, pa + 2, pa + 3] = true →
      step s = .next (takeException .busErrorFetch s.ready).tick) ∧
  ∀ (s : State) (pa : Nat) (cca : BitVec 3) (i : Instr),
    s.beforeFetch = none → translate s.pc .fetch 4 s.ready = .ok ((pa, cca), s.ready) →
    s.par.cpu.is4650 = true → bit s.cp0.iWatch 0 = true → s.cp0.iWatch.extractLsb' 2 30 = s.pc.extractLsb' 2 30 →
      (s.exl = false → s.erl = false → step s = .next (takeException (.watch true false) s.ready).tick) ∧
      (s.exl = true ∨ s.erl = true → s.ready.cacheErrorDue false = none →
        s.busErrorAt [pa, pa + 1, pa + 2, pa + 3] = false →
        decode s.par.cpu.isa (lo32 (ofBytes s.par.bigEndianMem
          [memRead s.mem pa, memRead s.mem (pa + 1), memRead s.mem (pa + 2), memRead s.mem (pa + 3)])) = .ok i →
        step s = afterTick (exec i { s.ready with watchI := true }))

/-- The fixed windows of kernel mode: a word of kseg0 or kseg1 is the word of the low 512 MB at the same offset, kseg1
uncached; while the caches of an R30xx are swapped and not isolated a cached access has no meaning and is refused (R263).
User mode reaches no address of the upper half: Address Error on every member whose program addresses are 32 bits wide
(R231 to R236, R239, R1023). -/
def Obligations.FixedSegments : Prop :=
  (∀ (s : State) (off : Nat) (k : Access), s.mode? = some .kernel → off < 0x20000000 → off % 4 = 0 →
    (s.par.cpu.is4650 = true → bit s.cp0.cAlg 18 = false ∧ bit s.cp0.cAlg 22 = false) →
      (s.par.cpu.isOrionTlb = true → bit s.cp0.config 2 = false) →
      (s.swapped = false →
        ∃ cca, translate (0xFFFFFFFF80000000#64 + BitVec.ofNat 64 off) k 4 s = .ok ((off, cca), s)) ∧
      (s.swapped = true →
        translate (0xFFFFFFFF80000000#64 + BitVec.ofNat 64 off) k 4 s = .error (.refused .cachesSwapped)) ∧
      ∃ cca, translate (0xFFFFFFFFA0000000#64 + BitVec.ofNat 64 off) k 4 s = .ok ((off, cca), s) ∧
        (s.par.cpu.is4650 = false → cca = 2#3)) ∧
  (∀ (s : State) (va : DWord) (k : Access) (n : Nat), s.mode? = some .user → s.addr64 .user = false →
    isWord va = true → bit va 31 = true → va.toNat % n = 0 →
      translate va k n s = .error (.exc (.addressError va k.isStore) s))

/-- Translation of an aligned kuseg address by each member's unit. R30xx base version (R233): a gigabyte further up; its kseg2 is
where the address says; both are cached (decision D13 of the spec, log entry 41), and refused while the caches are swapped
(log entry 12). R30xx E version (R303, R306 to R308): no matching entry is a refill, an invalid one a TLB exception, a store
to a page without D a Mod exception, otherwise the frame number takes the place of the page number; two matches shut the TLB
down (R318). Orion TLB CPU with ERL clear (R310 to R314): the same with the page of the pair that the address bit
above the offset names, its frame number replacing the bits above the offset whatever the page size; that its bits below a
large page's size are ignored is general knowledge in R312 (log entry 39), and two matches are refused (log entry 39). R4650
with ERL clear (R340 to R344), in
kernel mode too (decision D19 of the spec, log entry 59): beyond the bound an exception, otherwise the base is added to the
page number. With ERL set the window is unmapped and uncached on both (R238, D14; for the R4650 the model's choice, log entry
41). -/
def Obligations.MappedTranslation : Prop :=
  (∀ (s : State) (va : DWord) (k : Access) (n : Nat), s.mode? = some .kernel → s.par.mmu = .fixed → va.toNat % n = 0 →
    s.swapped = false → 0xC0000000 ≤ (lo32 va).toNat → translate va k n s = .ok (((lo32 va).toNat, 3#3), s)) ∧
  ∀ (s : State) (va : DWord) (k : Access) (n : Nat) (m : Mode), s.mode? = some m → va.toNat < 0x80000000 → va.toNat % n = 0 →
    (s.par.mmu = .fixed →
      (s.swapped = false → translate va k n s = .ok ((va.toNat + 0x40000000, 3#3), s)) ∧
      (s.swapped = true → translate va k n s = .error (.refused .cachesSwapped))) ∧
    (s.par.mmu = .tlb64 →
      let hits := s.tlb64Hits (va.extractLsb' 12 20) (s.cp0.entryHi.extractLsb' 6 6)
      (hits = [] → translate va k n s = .error (.exc (.tlbRefill va k.isStore) s)) ∧
        (2 ≤ hits.length → translate va k n s = .error (.exc .tlbShutdown s)) ∧
        ∀ e i, hits = [(e, i)] →
          (e.v = false → translate va k n s = .error (.exc (.tlbInvalid va k.isStore) s)) ∧
          (e.v = true → e.d = false → k = .store → translate va k n s = .error (.exc (.tlbModified va) s)) ∧
          (e.v = true → (e.d = true ∨ k ≠ .store) → (s.swapped = true → e.n = true) → translate va k n s =
            .ok ((e.pfn.toNat * 4096 + va.toNat % 4096, if e.n then 2#3 else 3#3), s))) ∧
    (s.par.mmu = .tlb48 → s.erl = false →
      let hits := s.tlb48Hits 0#2 (va.extractLsb' 13 27) (s.cp0.entryHi.extractLsb' 0 8)
      (hits = [] → translate va k n s = .error (.exc (.tlbRefill va k.isStore) s)) ∧
        (2 ≤ hits.length → translate va k n s = .error (.refused .tlbMultipleMatch)) ∧
        ∀ e i, hits = [(e, i)] →
          let size := 4096 * (e.mask.toNat + 1)
          let page := if va.toNat / size % 2 = 0 then e.even else e.odd
          (page.v = false → translate va k n s = .error (.exc (.tlbInvalid va k.isStore) s)) ∧
          (page.v = true → page.d = false → k = .store → translate va k n s = .error (.exc (.tlbModified va) s)) ∧
          (page.v = true → (page.d = true ∨ k ≠ .store) → bit page.c 2 = false → ∃ pa,
            translate va k n s = .ok ((pa, page.c), s) ∧ pa % size = va.toNat % size ∧
              pa / size = page.pfn.toNat * 4096 / size)) ∧
    (s.par.cpu.is4650 = true → s.erl = false → s.haz.bounds = 0 →
      let bound := if k = .fetch then s.cp0.iBound else s.cp0.dBound
      let base := if k = .fetch then s.cp0.iBase else s.cp0.dBase
      let cca := s.cp0.cAlg.extractLsb' (4 * (va.toNat / 0x20000000)) 3
      ((bound.extractLsb' 12 19).toNat < va.toNat / 4096 →
        translate va k n s = .error (.exc (.bounds va k.isStore) s)) ∧
      (va.toNat / 4096 ≤ (bound.extractLsb' 12 19).toNat → bit cca 2 = false →
        translate va k n s = .ok (((va.toNat / 4096 + base.toNat / 4096) % 2 ^ 20 * 4096 + va.toNat % 4096, cca), s))) ∧
    (s.par.cpu.is4650 = true ∨ s.par.mmu = .tlb48 → s.erl = true → translate va k n s = .ok ((va.toNat, 2#3), s))

/-- A user program with CU0 clear changes nothing of coprocessor 0 and the TLB but LLAddr (by a load linked; R190, R271; log entry
46) and SR.CM (by an isolated load; R105, R262; log entry 12), except by taking an exception: what an instruction leaves, if
it leaves a next state, is the old coprocessor 0 but for these two, or the state after an exception taken from such a
state. -/
def Obligations.UserModeKeepsCoprocessor0 : Prop :=
  ∀ (i : Instr) (s t : State), s.mode? = some .user → s.cu 0#2 = false → exec i s = .next t →
    ∃ u : State, (t = u ∨ ∃ e, t = takeException e u) ∧ u.tlb64 = s.tlb64 ∧ u.tlb48 = s.tlb48 ∧
      u.cp0 = { s.cp0 with llAddr := u.cp0.llAddr, sr := u.cp0.sr } ∧ u.cp0.sr ||| 0x80000#32 = s.cp0.sr ||| 0x80000#32

/-! ### Floating point -/

/-- The moves between general and floating-point registers with an FPA: MFC1 the low word, sign-extended; MTC1 the low
word; DMFC1 and DMTC1 a doubleword, for an odd register of a pair undefined (R840, R841, R844, R845). -/
def Obligations.FpRegisterMoves : Prop :=
  ∀ (s : State) (rt fs : RegNum), s.CopUsable 1#2 → s.par.cpu.hasFpa = true →
    (Completes (.mfc1 rt fs) s fun t =>
      (rt ≠ 0#5 → s.fgrHazard [fs] = false → t.gprVal rt = (lo32 (s.fgr fs)).signExtend 64) ∧
        Frame { gpr := [rt] } s t ∧ Sequential s t) ∧
    (∃ a, s.Reads rt a ∧ Completes (.mtc1 rt fs) s fun t =>
      lo32 (t.fgr fs) = lo32 a ∧ t.fpu.fcr31 = s.fpu.fcr31 ∧ (∀ q, q ≠ fs → t.fgr q = s.fgr q) ∧
        Frame { fpu := true } s t ∧ Sequential s t) ∧
    (s.Has64 →
      (Completes (.dmfc1 rt fs) s fun t =>
        (rt ≠ 0#5 → (s.wideFgr = true ∨ bit fs 0 = false) → s.fgrHazard (s.doubleRegs fs) = false →
          t.gprVal rt = s.fgrDouble fs) ∧ Frame { gpr := [rt] } s t ∧ Sequential s t) ∧
      ∃ a, s.Reads rt a ∧ Completes (.dmtc1 rt fs) s fun t =>
        ((s.wideFgr = true ∨ bit fs 0 = false) → t.fgrDouble fs = a) ∧ t.fpu.fcr31 = s.fpu.fcr31 ∧
          (∀ q, q ≠ fs → (s.wideFgr = true ∨ q &&& 30#5 ≠ fs &&& 30#5) → t.fgr q = s.fgr q) ∧
          Frame { fpu := true } s t ∧ Sequential s t)

/-- CFC1 reads FCR0 and FCR31, CTC1 writes the writable bits of FCR31; a CTC1 that sets an enabled Cause bit or UnImp
takes the Floating Point exception on the R4xxx and R5000, and on the R3081 the interrupt of the FPA's line where SR unmasks
it, with FCR31 written in any case (R826, R827, R842, R843, R891). -/
def Obligations.FpControlMoves : Prop :=
  ∀ (s : State) (rt : RegNum) (n : RegNum), s.CopUsable 1#2 → s.par.cpu.hasFpa = true →
    (Completes (.cfc1 rt n) s fun t =>
      (rt ≠ 0#5 → n = 31#5 → s.haz.fcr ≠ some 31#5 → t.gprVal rt = s.fpu.fcr31.signExtend 64) ∧
        (rt ≠ 0#5 → n = 0#5 → t.gprVal rt = (s.par.cpu.fpImp ++ s.par.fcr0Rev).setWidth 64) ∧
        Frame { gpr := [rt] } s t ∧ Sequential s t) ∧
    (n ≠ 31#5 → Completes (.ctc1 rt n) s fun t => Frame {} s t ∧ Sequential s t) ∧
    ∃ a, s.Reads rt a ∧
      (fpaRequest (lo32 a &&& fcr31Mask s.par.cpu) = false → Completes (.ctc1 rt 31#5) s fun t =>
        t.fpu = { s.fpu with fcr31 := lo32 a &&& fcr31Mask s.par.cpu } ∧ Frame { fpu := true } s t ∧ Sequential s t) ∧
      (fpaRequest (lo32 a &&& fcr31Mask s.par.cpu) = true → s.par.cpu.is30xx = false →
        ∃ u, exec (.ctc1 rt 31#5) s = .next (takeException .floatingPoint u) ∧
          u.fpu = { s.fpu with fcr31 := lo32 a &&& fcr31Mask s.par.cpu } ∧ Frame { fpu := true } s u ∧
          u.pc = s.pc ∧ u.inDelay = s.inDelay) ∧
      ((bit (lo32 a &&& fcr31Mask s.par.cpu) 17 = true ∨
          (lo32 a &&& fcr31Mask s.par.cpu).extractLsb' 12 5 &&& (lo32 a &&& fcr31Mask s.par.cpu).extractLsb' 7 5 ≠ 0#5) →
        s.FpSignals (exec (.ctc1 rt 31#5) s) (· = lo32 a &&& fcr31Mask s.par.cpu)) ∧
      ∀ t, exec (.ctc1 rt 31#5) s = .next t → t.fpu = { s.fpu with fcr31 := lo32 a &&& fcr31Mask s.par.cpu }

/-- The loads and stores of a floating-point register with an FPA: LWC1, LWXC1, SWC1 and SWXC1 a word, LDC1, LDXC1, SDC1 and
SDXC1 a doubleword of a register or a pair; a store changes no other byte of memory (R850 to R857). While the data cache is
isolated LWC1 and SWC1 of the R3081 reach the private array: decision D15 of the spec for R261 and R262, with an array that is
the model's (DESIGN CHOICE, log entry 12). An indexed address that leaves the region of its base has a result that R853 calls
undefined: that such a load completes, with any value in its destination, and that such a store is refused, is the model's
choice (DESIGN CHOICE, log entry 47). -/
def Obligations.FpLoadsAndStores : Prop :=
  (∀ (n : Nat) (mk : RegNum → RegNum → BitVec 16 → Instr), (n, mk) ∈ [(4, Instr.lwc1), (8, Instr.ldc1)] →
    ∀ (s : State) (base ft : RegNum) (off : BitVec 16), s.CopUsable 1#2 → s.par.cpu.hasFpa = true →
      (n = 8 → s.HasIsa .mips2) →
      ∃ b, s.Reads base b ∧ ∀ pa cca, s.Maps (s.normVa (b + off.signExtend 64)) .load n pa cca →
        (s.Readable pa n → Completes (mk base ft off) s fun t =>
          (s.offsetUndefined off n = false →
            (n = 4 → lo32 (t.fgr ft) = lo32 (s.memVal pa 4)) ∧
              (n = 8 → (s.wideFgr = true ∨ bit ft 0 = false) → t.fgrDouble ft = s.memVal pa 8)) ∧
            t.fpu.fcr31 = s.fpu.fcr31 ∧
            (∀ q, q ≠ ft → (n = 4 ∨ s.wideFgr = true ∨ q &&& 30#5 ≠ ft &&& 30#5) → t.fgr q = s.fgr q) ∧
            Frame { fpu := true } s t ∧ Sequential s t) ∧
        (n = 4 → s.isc = true → Completes (mk base ft off) s fun t =>
          lo32 (t.fgr ft) = lo32 (s.isolatedVal pa 4) ∧ t.fpu.fcr31 = s.fpu.fcr31 ∧ (∀ q, q ≠ ft → t.fgr q = s.fgr q) ∧
            IsolatedLoad s t pa ∧ Frame { cp0 := true, fpu := true } s t ∧ Sequential s t)) ∧
  (∀ (n : Nat) (mk : RegNum → RegNum → RegNum → Instr), (n, mk) ∈ [(4, Instr.lwxc1), (8, Instr.ldxc1)] →
    ∀ (s : State) (base index fd : RegNum), s.CopUsable 1#2 → s.HasIsa .mips4 → s.Settled base → s.Settled index →
      let va := s.gprVal base + s.gprVal index
      let others (t : State) : Prop := t.fpu.fcr31 = s.fpu.fcr31 ∧
        (∀ q, q ≠ fd → (n = 4 ∨ s.wideFgr = true ∨ q &&& 30#5 ≠ fd &&& 30#5) → t.fgr q = s.fgr q) ∧
        Frame { fpu := true } s t ∧ Sequential s t
      (va.extractLsb' 62 2 = (s.gprVal base).extractLsb' 62 2 →
        ∀ pa cca, s.Maps va .load n pa cca → s.Readable pa n →
          Completes (mk base index fd) s fun t =>
            (n = 4 → lo32 (t.fgr fd) = lo32 (s.memVal pa 4)) ∧
              (n = 8 → (s.wideFgr = true ∨ bit fd 0 = false) → t.fgrDouble fd = s.memVal pa 8) ∧ others t) ∧
      (va.extractLsb' 62 2 ≠ (s.gprVal base).extractLsb' 62 2 → Completes (mk base index fd) s others)) ∧
  (∀ (n : Nat) (mk : RegNum → RegNum → BitVec 16 → Instr), (n, mk) ∈ [(4, Instr.swc1), (8, Instr.sdc1)] →
    ∀ (s : State) (base ft : RegNum) (off : BitVec 16), s.CopUsable 1#2 → s.par.cpu.hasFpa = true →
      (n = 8 → s.HasIsa .mips2) →
      ∃ b, s.Reads base b ∧ ∀ pa cca, s.Maps (s.normVa (b + off.signExtend 64)) .store n pa cca →
        (s.isc = false → Completes (mk base ft off) s fun t =>
          (s.offsetUndefined off n = false →
            (n = 4 → s.fgrHazard [ft] = false →
              memReadList t.mem (s.lanes pa n) = toBytes s.bigEndianCpu n (zext (lo32 (s.fgr ft)))) ∧
            (n = 8 → (s.wideFgr = true ∨ bit ft 0 = false) → s.fgrHazard (s.doubleRegs ft) = false →
              memReadList t.mem (s.lanes pa n) = toBytes s.bigEndianCpu n (s.fgrDouble ft))) ∧
            Frame { mem := s.lanes pa n } s t ∧ Sequential s t) ∧
        (n = 4 → s.isc = true → Completes (mk base ft off) s fun t =>
          ∃ v, (s.fgrHazard [ft] = false → v = zext (lo32 (s.fgr ft))) ∧ IsolatedStore s t pa 4 v ∧ Sequential s t)) ∧
  ∀ (n : Nat) (mk : RegNum → RegNum → RegNum → Instr), (n, mk) ∈ [(4, Instr.swxc1), (8, Instr.sdxc1)] →
    ∀ (s : State) (base index fs : RegNum), s.CopUsable 1#2 → s.HasIsa .mips4 → s.Settled base → s.Settled index →
      let va := s.gprVal base + s.gprVal index
      (va.extractLsb' 62 2 = (s.gprVal base).extractLsb' 62 2 →
        ∀ pa cca, s.Maps va .store n pa cca →
          Completes (mk base index fs) s fun t =>
            (n = 4 → s.fgrHazard [fs] = false →
              memReadList t.mem (s.lanes pa n) = toBytes s.bigEndianCpu n (zext (lo32 (s.fgr fs)))) ∧
            (n = 8 → (s.wideFgr = true ∨ bit fs 0 = false) → s.fgrHazard (s.doubleRegs fs) = false →
              memReadList t.mem (s.lanes pa n) = toBytes s.bigEndianCpu n (s.fgrDouble fs)) ∧
            Frame { mem := s.lanes pa n } s t ∧ Sequential s t) ∧
      (va.extractLsb' 62 2 ≠ (s.gprVal base).extractLsb' 62 2 →
        exec (mk base index fs) s = .refused .indexedStoreRegion)

/-- The formatted moves: MOV, and MOVF, MOVT, MOVN, MOVZ, which move fs where their condition holds and keep fd where it
does not; Cause and UnImp are cleared, Flags kept (R870 to R874, R891). -/
def Obligations.FpFormattedMoves : Prop :=
  ∀ f : FFmt, ∀ (s : State) (fs fd rt : RegNum) (cc : BitVec 3),
    (∀ src ∈ [fs, fd], s.fgrHazard (s.fprRegs src f.fmt) = false) →
    let done (src : RegNum) (t : State) : Prop := t.HoldsFpr fd f.fmt (s.fprVal src f.fmt) ∧
      t.fpu.fcr31 = setCauseBits s.fpu.fcr31 0 false ∧ FgrsKept s t fd ∧ Frame { fpu := true } s t ∧ Sequential s t
    let mov := match f with | .s => Instr.movS | .d => Instr.movD
    let movf := match f with | .s => Instr.movfS | .d => Instr.movfD
    let movt := match f with | .s => Instr.movtS | .d => Instr.movtD
    let movn := match f with | .s => Instr.movnS | .d => Instr.movnD
    let movz := match f with | .s => Instr.movzS | .d => Instr.movzD
    (s.FpRuns .mips1 f.fmt f.fmt [fs] [fd] → Completes (mov fs fd) s (done fs)) ∧
      (s.FpRuns .mips4 f.fmt f.fmt [fs, fd] [] →
        Completes (movf cc fs fd) s (done (if s.fcc cc then fd else fs)) ∧
        Completes (movt cc fs fd) s (done (if s.fcc cc then fs else fd)) ∧
        ∃ a, s.Reads rt a ∧ Completes (movn rt fs fd) s (done (if a = 0 then fd else fs)) ∧
          Completes (movz rt fs fd) s (done (if a = 0 then fs else fd)))

/-- ADD, SUB, MUL and DIV in both formats: the result rounded to the mode of FCR31 goes to fd, the conditions to Cause
and Flags. Where the member declines the operation, or an enabled condition is met, the floating-point exception, of the
R3081 the FPA's interrupt, and no result; the same of a format or an odd register that the member does not take (R891, R892,
R896, R897, R900 to R903). -/
def Obligations.FpBinaryArithmetic : Prop :=
  ∀ (f : FFmt) (op : FFmt → Rm → DWord → DWord → FpOut) (mk : RegNum → RegNum → RegNum → Instr),
    (f, op, mk) ∈ [(.s, fAdd, Instr.addS), (.s, fSub, Instr.subS), (.s, fMul, Instr.mulS), (.s, fDiv, Instr.divS),
      (.d, fAdd, Instr.addD), (.d, fSub, Instr.subD), (.d, fMul, Instr.mulD), (.d, fDiv, Instr.divD)] →
    ∀ (s : State) (ft fs fd : RegNum),
      (s.FpRejects .mips1 f.fmt f.fmt [fs, ft, fd] → s.FpUnimplemented (exec (mk ft fs fd) s)) ∧
      (s.FpRuns .mips1 f.fmt f.fmt [fs, ft] [fd] → s.FpSettled f.fmt [fs, ft] →
        let a := s.fprVal fs f.fmt
        let b := s.fprVal ft f.fmt
        let o := op f (rmOf s.fpu.fcr31) a b
        let denorm := isDenorm f a || isDenorm f b
        let nan := isNan f a || isNan f b
        (s.FpDelivers o denorm nan false false → Completes (mk ft fs fd) s fun t => Delivered s t fd f.fmt o) ∧
          s.FpEnds (exec (mk ft fs fd) s) (fpDeclines s.par s.fpu.fcr31 denorm nan false false o) o.e)

/-- SQRT, ABS and NEG in both formats, and the conversions between the floating-point formats and to and from
integers: ROUND, TRUNC, CEIL and FLOOR round in their own mode, CVT in the mode of FCR31. Where the member declines the
operation, for its own reasons or because of what a conversion adds, or an enabled condition is met, the exception and no
result; the same of a format or an odd register that the member does not take (R891, R892, R896, R897, R904 to R906, R930 to
R941). -/
def Obligations.FpUnaryArithmetic : Prop :=
  ∀ (lvl : Isa) (f g : Fmt) (k : Word → DWord → FpOut) (extra : Params → DWord → FpOut → Bool) (mk : RegNum → RegNum → Instr),
    (lvl, f, g, k, extra, mk) ∈ [
      (.mips2, .s, .s, fun v => fSqrt .s (rmOf v), noExtra, Instr.sqrtS),
      (.mips2, .d, .d, fun v => fSqrt .d (rmOf v), noExtra, Instr.sqrtD),
      (.mips1, .s, .s, fun _ => fAbs .s, noExtra, Instr.absS), (.mips1, .d, .d, fun _ => fAbs .d, noExtra, Instr.absD),
      (.mips1, .s, .s, fun _ => fNeg .s, noExtra, Instr.negS), (.mips1, .d, .d, fun _ => fNeg .d, noExtra, Instr.negD),
      (.mips1, .d, .s, fun v => fConvert .d .s (rmOf v), noExtra, Instr.cvtSD),
      (.mips1, .s, .d, fun v => fConvert .s .d (rmOf v), noExtra, Instr.cvtDS),
      (.mips1, .w, .s, fun v a => fFromInt .s (rmOf v) (lo32 a).toInt, noExtra, Instr.cvtSW),
      (.mips1, .w, .d, fun v a => fFromInt .d (rmOf v) (lo32 a).toInt, noExtra, Instr.cvtDW),
      (.mips3, .l, .s, fun v a => fFromInt .s (rmOf v) a.toInt, noExtra, Instr.cvtSL),
      (.mips3, .l, .d, fun v a => fFromInt .d (rmOf v) a.toInt, cvtDLExtra, Instr.cvtDL),
      (.mips1, .s, .w, fun v => fToInt .s 32 (rmOf v), cvtWExtra, Instr.cvtWS),
      (.mips1, .d, .w, fun v => fToInt .d 32 (rmOf v), cvtWExtra, Instr.cvtWD),
      (.mips3, .s, .l, fun v => fToInt .s 64 (rmOf v), cvtLExtra, Instr.cvtLS),
      (.mips3, .d, .l, fun v => fToInt .d 64 (rmOf v), cvtLExtra, Instr.cvtLD),
      (.mips2, .s, .w, fun _ => fToInt .s 32 .nearest, cvtWExtra, Instr.roundWS),
      (.mips2, .d, .w, fun _ => fToInt .d 32 .nearest, cvtWExtra, Instr.roundWD),
      (.mips2, .s, .w, fun _ => fToInt .s 32 .zero, cvtWExtra, Instr.truncWS),
      (.mips2, .d, .w, fun _ => fToInt .d 32 .zero, cvtWExtra, Instr.truncWD),
      (.mips2, .s, .w, fun _ => fToInt .s 32 .up, cvtWExtra, Instr.ceilWS),
      (.mips2, .d, .w, fun _ => fToInt .d 32 .up, cvtWExtra, Instr.ceilWD),
      (.mips2, .s, .w, fun _ => fToInt .s 32 .down, cvtWExtra, Instr.floorWS),
      (.mips2, .d, .w, fun _ => fToInt .d 32 .down, cvtWExtra, Instr.floorWD),
      (.mips3, .s, .l, fun _ => fToInt .s 64 .nearest, roundLExtra .s, Instr.roundLS),
      (.mips3, .d, .l, fun _ => fToInt .d 64 .nearest, roundLExtra .d, Instr.roundLD),
      (.mips3, .s, .l, fun _ => fToInt .s 64 .zero, roundLExtra .s, Instr.truncLS),
      (.mips3, .d, .l, fun _ => fToInt .d 64 .zero, roundLExtra .d, Instr.truncLD),
      (.mips3, .s, .l, fun _ => fToInt .s 64 .up, roundLExtra .s, Instr.ceilLS),
      (.mips3, .d, .l, fun _ => fToInt .d 64 .up, roundLExtra .d, Instr.ceilLD),
      (.mips3, .s, .l, fun _ => fToInt .s 64 .down, roundLExtra .s, Instr.floorLS),
      (.mips3, .d, .l, fun _ => fToInt .d 64 .down, roundLExtra .d, Instr.floorLD)] →
    ∀ (s : State) (fs fd : RegNum),
      (s.FpRejects lvl f g [fs, fd] → s.FpUnimplemented (exec (mk fs fd) s)) ∧
      (s.FpRuns lvl f g [fs] [fd] → s.FpSettled f [fs] →
        let a := s.fprVal fs f
        let o := k s.fpu.fcr31 a
        (s.FpDelivers o (denormIn f a) (nanIn f a) false (extra s.par a o) →
          Completes (mk fs fd) s fun t => Delivered s t fd g o) ∧
          s.FpEnds (exec (mk fs fd) s)
            (fpDeclines s.par s.fpu.fcr31 (denormIn f a) (nanIn f a) false (extra s.par a o) o) o.e)

/-- RECIP and RSQRT deliver the result their definition gives for some choice of the approximation (log entry 27). Of a finite
operand other than zero, positive for RSQRT, whichever the choice is: a result that neither overflows nor underflows is a
number within one unit in the last place of the reciprocal, or within two of the reciprocal of the square root (R907,
R908); zero gives Division by Zero with an infinity. Where the member declines the operation, or an enabled condition is met,
the exception and no result (R891, R892). -/
def Obligations.FpApproximations : Prop :=
  (∀ (f : FFmt) (op : FFmt → Rm → DWord → DWord → FpOut) (mk : RegNum → RegNum → Instr),
    (f, op, mk) ∈ [(.s, fRecip, Instr.recipS), (.d, fRecip, Instr.recipD), (.s, fRsqrt, Instr.rsqrtS),
      (.d, fRsqrt, Instr.rsqrtD)] →
    ∀ (s : State) (fs fd : RegNum), s.FpRuns .mips4 f.fmt f.fmt [fs] [fd] → s.FpSettled f.fmt [fs] →
      let a := s.fprVal fs f.fmt
      ((∀ x, s.FpDelivers (op f (rmOf s.fpu.fcr31) x a) (isDenorm f a) (isNan f a) false false) →
        ∃ x, Completes (mk fs fd) s fun t => Delivered s t fd f.fmt (op f (rmOf s.fpu.fcr31) x a)) ∧
      ∃ x, let o := op f (rmOf s.fpu.fcr31) x a
        s.FpEnds (exec (mk fs fd) s) (fpDeclines s.par s.fpu.fcr31 (isDenorm f a) (isNan f a) false false o) o.e) ∧
  ∀ (f : FFmt) (rm : Rm) (a x : DWord) (neg : Bool) (m : Nat) (e : Int), unpackF f a = .fin neg m e →
    (m = 0 → fRecip f rm x a = .cond (fInf f neg) condZ ∧
      (neg = false → fRsqrt f rm x a = .cond (fInf f false) condZ)) ∧
    (m ≠ 0 →
      (∀ o, o = fRecip f rm x a → o.e &&& (condO ||| condU) = 0 → Near f 1 (finValue neg m e)⁻¹ o) ∧
      (neg = false → ∀ o, o = fRsqrt f rm x a → o.e &&& (condO ||| condU) = 0 →
        Near f 2 (Real.sqrt (finValue neg m e))⁻¹ o))

/-- MADD, MSUB, NMADD and NMSUB where neither step traps: the product rounded, then the sum or difference rounded, with
the sign inverted for the negated forms; the conditions of both steps. A product that is declined, or that meets an enabled
condition, ends the instruction with the exception and no result; else the second step, with the conditions of both, may
(R891, R892, R910 to R913). -/
def Obligations.FpMultiplyAdd : Prop :=
  ∀ (f : FFmt) (k : FFmt → Rm → DWord → DWord → FpOut) (mk : RegNum → RegNum → RegNum → RegNum → Instr),
    (f, k, mk) ∈ [
      (.s, fun f m p r => fAdd f m r p, Instr.maddS), (.d, fun f m p r => fAdd f m r p, Instr.maddD),
      (.s, fun f m p r => fSub f m p r, Instr.msubS), (.d, fun f m p r => fSub f m p r, Instr.msubD),
      (.s, fun f m p r => (fAdd f m r p).negated f, Instr.nmaddS), (.d, fun f m p r => (fAdd f m r p).negated f, Instr.nmaddD),
      (.s, fun f m p r => (fSub f m p r).negated f, Instr.nmsubS),
      (.d, fun f m p r => (fSub f m p r).negated f, Instr.nmsubD)] →
    ∀ (s : State) (fr ft fs fd : RegNum), s.FpRuns .mips4 f.fmt f.fmt [fr, fs, ft] [fd] → s.FpSettled f.fmt [fr, fs, ft] →
      let m := rmOf s.fpu.fcr31
      let a := s.fprVal fs f.fmt
      let b := s.fprVal ft f.fmt
      let c := s.fprVal fr f.fmt
      let p := fMul f m a b
      let o := (k f m p.bits c).after p
      let denorm := isDenorm f a || isDenorm f b
      let nan := isNan f a || isNan f b
      let i := mk fr ft fs fd
      (s.FpDelivers p denorm nan false false →
        (s.FpDelivers o (isDenorm f c) (isNan f c || isNan f p.bits) false false →
          Completes i s fun t => Delivered s t fd f.fmt o) ∧
        s.FpEnds (exec i s) (fpDeclines s.par s.fpu.fcr31 (isDenorm f c) (isNan f c || isNan f p.bits) false false o) o.e) ∧
      s.FpEnds (exec i s) (fpDeclines s.par s.fpu.fcr31 denorm nan false false p) p.e

/-- The sixteen compares in both formats: condition code cc becomes less, equal and unordered chosen by the predicate's
low three bits; Invalid for a signalling NaN, and for any NaN where its high bit is set. Where the member declines the compare,
or Invalid is enabled and met, the exception and no condition code; the same of a format or an odd register that the member
does not take (R828, R891, R892, R896, R897, R920). -/
def Obligations.FpCompares : Prop :=
  ∀ (f : FFmt) (cond : BitVec 4) (mk : RegNum → RegNum → BitVec 3 → Instr), (f, cond, mk) ∈ [
      (.s, 0#4, Instr.cFS), (.s, 1#4, Instr.cUnS), (.s, 2#4, Instr.cEqS), (.s, 3#4, Instr.cUeqS),
      (.s, 4#4, Instr.cOltS), (.s, 5#4, Instr.cUltS), (.s, 6#4, Instr.cOleS), (.s, 7#4, Instr.cUleS),
      (.s, 8#4, Instr.cSfS), (.s, 9#4, Instr.cNgleS), (.s, 10#4, Instr.cSeqS), (.s, 11#4, Instr.cNglS),
      (.s, 12#4, Instr.cLtS), (.s, 13#4, Instr.cNgeS), (.s, 14#4, Instr.cLeS), (.s, 15#4, Instr.cNgtS),
      (.d, 0#4, Instr.cFD), (.d, 1#4, Instr.cUnD), (.d, 2#4, Instr.cEqD), (.d, 3#4, Instr.cUeqD),
      (.d, 4#4, Instr.cOltD), (.d, 5#4, Instr.cUltD), (.d, 6#4, Instr.cOleD), (.d, 7#4, Instr.cUleD),
      (.d, 8#4, Instr.cSfD), (.d, 9#4, Instr.cNgleD), (.d, 10#4, Instr.cSeqD), (.d, 11#4, Instr.cNglD),
      (.d, 12#4, Instr.cLtD), (.d, 13#4, Instr.cNgeD), (.d, 14#4, Instr.cLeD), (.d, 15#4, Instr.cNgtD)] →
    ∀ (s : State) (ft fs : RegNum) (cc : BitVec 3),
      (s.FpRejects .mips1 f.fmt f.fmt [fs, ft] → s.FpUnimplemented (exec (mk ft fs cc) s)) ∧
      (s.FpRuns .mips1 f.fmt f.fmt [fs, ft] [] → s.FpSettled f.fmt [fs, ft] →
        let a := s.fprVal fs f.fmt
        let b := s.fprVal ft f.fmt
        let o := FpOut.cond 0 (fCompareCond f cond a b)
        let denorm := isDenorm f a || isDenorm f b
        let nan := isNan f a || isNan f b
        (s.FpDelivers o denorm nan true false →
          Completes (mk ft fs cc) s fun t =>
            t.fpu.fcr31 = setBit (addFlags (setCauseBits s.fpu.fcr31 o.e false) o.e) (fccBit (s.ccOf cc))
                ((bit cond 2 && fLess f a b) || (bit cond 1 && fEqual f a b) || (bit cond 0 && fUnordered f a b)) ∧
              t.fpu.fgr = s.fpu.fgr ∧ Frame { fpu := true } s t ∧ Sequential s t) ∧
          s.FpEnds (exec (mk ft fs cc) s) (fpDeclines s.par s.fpu.fcr31 denorm nan true false o) o.e)

/-- A binary operation that the member does not decline and that meets an enabled condition takes the Floating Point
exception on an R4xxx or R5000, with the conditions in Cause, Flags unchanged and no result (R891 step 5, R1031). When a
member declines (R892): the R3081 a denormalized operand or a tiny result, division by zero, an invalid operation whose trap
is not enabled, a NaN operand but in a compare with that trap enabled, and a conversion to a word that is out of range; the
others a tiny result with FS clear, the R5000 what has too many bits of significance; further cases are a parameter (log
entry 23). A coprocessor 1 word with a format the tables mark U is an Unimplemented Operation (R893; decision D32 of the
spec), and so is a formatted move in a format, or of an odd register, that the member does not take (R891 step 3, R896,
R897). -/
def Obligations.FpExceptionTaken : Prop :=
  (∀ (p : Params) (fcr : Word) (denorm nan cmp extra : Bool) (a : DWord) (o : FpOut) (f : FFmt),
    (fpDeclines p fcr denorm nan cmp extra o = true ↔ extra = true ∨
      if p.cpu.is30xx then denorm = true ∨ o.tiny = true ∨ o.e &&& condZ ≠ 0 ∨ (o.e &&& condV ≠ 0 ∧ bit fcr 11 = false) ∨
        (nan = true ∧ ¬(cmp = true ∧ bit fcr 11 = true))
      else (o.tiny = true ∧ bit fcr 24 = false) ∨ (denorm = true ∧ p.fpDeclined.denormOperand = true) ∨
        (nan = true ∧ p.fpDeclined.nanOperand = true)) ∧
    (cvtWExtra p a o = true ↔ p.cpu.is30xx = true ∧ o.e &&& condV ≠ 0) ∧
    (cvtLExtra p a o = true ↔ p.fpDeclined.longRange = true ∧ o.e &&& condV ≠ 0) ∧
    (roundLExtra f p a o = true ↔ (p.cpu = .r5000 ∧ wideInt f 52 a = true) ∨ cvtLExtra p a o = true) ∧
    (cvtDLExtra p a o = true ↔ p.cpu = .r5000 ∧ 53 < sigBits a.toInt.natAbs)) ∧
  (∀ (s : State) (w : Word), s.par.cpu.hasFpa = true → s.CopUsable 1#2 →
    let op := (w.extractLsb' 26 6).toNat
    let fmt := (w.extractLsb' 21 5).toNat
    let fn := (w.extractLsb' 0 6).toNat
    let lvl := s.par.cpu.isa.rank
    let fns1 := [0, 1, 2, 3, 5, 6, 7, 0x24, 0x30, 0x31, 0x32, 0x33, 0x34, 0x35, 0x36, 0x37, 0x38, 0x39, 0x3A, 0x3B, 0x3C, 0x3D,
      0x3E, 0x3F]
    let fns2 := [4, 12, 13, 14, 15]
    let fns3 := [8, 9, 10, 11, 0x25]
    let fns4 := [0x11, 0x12, 0x13, 0x15, 0x16]
    ((op = 0x11 ∧ ((fmt = 16 ∧ fn = 0x20) ∨ (fmt = 17 ∧ fn = 0x21) ∨
        (fmt = 20 ∧ (fn ∈ fns1 ∨ (2 ≤ lvl ∧ fn ∈ fns2) ∨ (3 ≤ lvl ∧ fn ∈ fns3) ∨ (lvl = 4 ∧ fn ∈ fns4))) ∨
        (fmt = 21 ∧ 3 ≤ lvl ∧ (fn ∈ fns1 ++ fns2 ++ fns3 ∨ (lvl = 4 ∧ fn ∈ fns4))))) ∨
      (op = 0x13 ∧ lvl = 4 ∧ fn ∈ [0x24, 0x25, 0x2C, 0x2D, 0x34, 0x35, 0x3C, 0x3D])) →
    s.FpUnimplemented (runWord s w)) ∧
  (∀ (s : State) (fs fd : RegNum) (f : FFmt), s.FpRejects .mips1 f.fmt f.fmt [fs, fd] →
    s.FpUnimplemented (exec (match f with | .s => .movS fs fd | .d => .movD fs fd) s)) ∧
  ∀ (f : FFmt) (op : FFmt → Rm → DWord → DWord → FpOut) (mk : RegNum → RegNum → RegNum → Instr),
    (f, op, mk) ∈ [(.s, fAdd, Instr.addS), (.s, fSub, Instr.subS), (.s, fMul, Instr.mulS), (.s, fDiv, Instr.divS),
      (.d, fAdd, Instr.addD), (.d, fSub, Instr.subD), (.d, fMul, Instr.mulD), (.d, fDiv, Instr.divD)] →
    ∀ (s : State) (ft fs fd : RegNum), s.FpRuns .mips1 f.fmt f.fmt [fs, ft] [fd] → s.FpSettled f.fmt [fs, ft] →
      s.par.cpu.is30xx = false →
      let a := s.fprVal fs f.fmt
      let b := s.fprVal ft f.fmt
      let o := op f (rmOf s.fpu.fcr31) a b
      fpDeclines s.par s.fpu.fcr31 (isDenorm f a || isDenorm f b) (isNan f a || isNan f b) false false o = false →
        o.e &&& enablesOf s.fpu.fcr31 ≠ 0 →
        ∃ u, exec (mk ft fs fd) s = .next (takeException .floatingPoint u) ∧
          u.fpu.fcr31 = setCauseBits s.fpu.fcr31 o.e false ∧ u.fpu.fgr = s.fpu.fgr ∧ Frame { fpu := true } s u ∧
          u.pc = s.pc ∧ u.inDelay = s.inDelay

/-- Rounding `m * 2^(-k)` to an integer (R890): exact where nothing is cut off, else a neighbour of the number; toward
zero the lower, upward and downward the one on that side, to nearest the nearer one and of two equally near the
even one. -/
def Obligations.RoundingToNeighbour : Prop :=
  ∀ (rm : Rm) (neg : Bool) (m k : Nat),
    let q := (roundNat rm neg m k false).1
    ((roundNat rm neg m k false).2 = true ↔ q * 2 ^ k ≠ m) ∧ q * 2 ^ k < m + 2 ^ k ∧ m < q * 2 ^ k + 2 ^ k ∧
      (rm = .zero → q * 2 ^ k ≤ m) ∧ (rm = .up → if neg then q * 2 ^ k ≤ m else m ≤ q * 2 ^ k) ∧
      (rm = .down → if neg then m ≤ q * 2 ^ k else q * 2 ^ k ≤ m) ∧
      (rm = .nearest → 2 * (q * 2 ^ k) ≤ 2 * m + 2 ^ k ∧ 2 * m ≤ 2 * (q * 2 ^ k) + 2 ^ k ∧
        ((2 * (q * 2 ^ k) = 2 * m + 2 ^ k ∨ 2 * m = 2 * (q * 2 ^ k) + 2 ^ k) → q % 2 = 0))

/-- The finite results of floating-point arithmetic (R890, R898, R900 to R903, R906, R920, R930 to R941): the sum, difference,
product, quotient, square root or conversion of finite operands, exact as a real number, rounded once to the format in the
mode given, with Inexact where the rounded number differs, Overflow and Inexact with an infinity or the largest finite number
by the mode where it is too large, and as a tiny result (R895) where it is below the smallest normal number; an exact zero
has the sign R890 gives it. Converted to an integer, the neighbour the mode names, with Inexact where it differs, or Invalid
and the largest integer where it does not fit. Compared, less and equal as the real numbers are. The sign of zeros, the
result of an overflow by mode, and that both limits are judged on the rounded number is the model's choice (log entry 20);
that a tiny result is a zero of the exact sign with Underflow and Inexact, in every rounding mode, is decision D33 of the
spec (log entry 22). -/
def Obligations.FpFiniteResults : Prop :=
  ∀ (f g : FFmt) (rm : Rm) (a b : DWord) (na nb : Bool) (ma mb : Nat) (ea eb : Int),
    unpackF f a = .fin na ma ea → unpackF f b = .fin nb mb eb →
    let x := finValue na ma ea
    let y := finValue nb mb eb
    Rounded f rm (x + y) (if na = nb then na else decide (rm = .down)) (fAdd f rm a b) ∧
      Rounded f rm (x - y) (if na = !nb then na else decide (rm = .down)) (fSub f rm a b) ∧
      Rounded f rm (x * y) (na != nb) (fMul f rm a b) ∧
      (mb ≠ 0 → Rounded f rm (x / y) (na != nb) (fDiv f rm a b)) ∧
      (na = false ∨ ma = 0 → Rounded f rm (Real.sqrt x) na (fSqrt f rm a)) ∧
      Rounded g rm x na (fConvert f g rm a) ∧
      (∀ n : Int, Rounded g rm n false (fFromInt g rm n)) ∧
      (∀ n ∈ [32, 64], RoundedInt n rm x (fToInt f n rm a)) ∧
      (fLess f a b = true ↔ x < y) ∧ (fEqual f a b = true ↔ x = y) ∧ fUnordered f a b = false

/-- The special results (R894, R898, R900 to R906, R920, R930 to R941). A signalling NaN is Invalid in every operation; a quiet
NaN, with no signalling one, gives some quiet NaN and no condition, and which one is not said (log entry 21); to an integer
any NaN and either infinity is Invalid with the largest integer. Infinities of opposite signs added, or of like signs
subtracted, zero times infinity in either order, zero over zero, infinity over infinity and the square root of a negative
number are Invalid; a finite number other than zero over zero is Division by Zero with an infinity of the product of the
signs. An infinity added to, subtracted from or multiplied by another number, but for those cases, is an infinity of the sign
the numbers give it, exactly; divided by a finite number, zero too, an infinity and dividing one a zero, of the product of
the signs. ABS and NEG change the sign and nothing else, of a denormalized number to a tiny result. A NaN is unordered with
everything, and infinities compare as their signs say. The default quiet NaN is that of decision D27 of the spec (log entry
21). -/
def Obligations.FpSpecialCases : Prop :=
  ∀ (f g : FFmt) (rm : Rm) (a b : DWord),
    (isSNan f a = true ∨ isSNan f b = true →
      ∀ op ∈ [fAdd, fSub, fMul, fDiv], op f rm a b = .cond (defaultNan f) condV) ∧
    (isSNan f a = false → isSNan f b = false → isNan f a = true ∨ isNan f b = true →
      ∀ op ∈ [fAdd, fSub, fMul, fDiv], (op f rm a b).anyNan = true ∧ (op f rm a b).e = 0) ∧
    (∀ row ∈ [(f, fSqrt f rm a), (f, fAbs f a), (f, fNeg f a), (g, fConvert f g rm a)],
      (isSNan f a = true → row.2 = .cond (defaultNan row.1) condV) ∧
      (isSNan f a = false → isNan f a = true → row.2.anyNan = true ∧ row.2.e = 0)) ∧
    (∀ n ∈ [32, 64], (isNan f a = true ∨ ∃ neg, unpackF f a = .inf neg) →
      fToInt f n rm a = .cond (BitVec.ofNat 64 (2 ^ (n - 1) - 1)) condV) ∧
    (∀ x, isNan f (someQuietNan f x) = true ∧ isSNan f (someQuietNan f x) = false) ∧
    (∀ n, unpackF f a = .inf n →
      (unpackF f b = .inf (!n) → fAdd f rm a b = .cond (defaultNan f) condV) ∧
      (unpackF f b = .inf n → fSub f rm a b = .cond (defaultNan f) condV) ∧
      fSqrt f rm a = (if n then .cond (defaultNan f) condV else .exact (fInf f false)) ∧
      fConvert f g rm a = .exact (fInf g n)) ∧
    (∀ n, unpackF f a = .inf n →
      (∀ n' m e, unpackF f b = .fin n' m e →
        fAdd f rm a b = .exact (fInf f n) ∧ fAdd f rm b a = .exact (fInf f n) ∧ fSub f rm a b = .exact (fInf f n) ∧
          fSub f rm b a = .exact (fInf f (!n)) ∧
          (m ≠ 0 → fMul f rm a b = .exact (fInf f (n != n')) ∧ fMul f rm b a = .exact (fInf f (n != n'))) ∧
          fDiv f rm a b = .exact (fInf f (n != n')) ∧ fDiv f rm b a = .exact (fZero f (n != n'))) ∧
      (unpackF f b = .inf n → fAdd f rm a b = .exact (fInf f n)) ∧
      (unpackF f b = .inf (!n) → fSub f rm a b = .exact (fInf f n)) ∧
      ∀ n', unpackF f b = .inf n' → fMul f rm a b = .exact (fInf f (n != n'))) ∧
    (∀ n n' e, (unpackF f a = .inf n ∧ unpackF f b = .fin n' 0 e) ∨ (unpackF f a = .fin n' 0 e ∧ unpackF f b = .inf n) →
      fMul f rm a b = .cond (defaultNan f) condV) ∧
    (∀ n n' e e', unpackF f a = .fin n 0 e → unpackF f b = .fin n' 0 e' → fDiv f rm a b = .cond (defaultNan f) condV) ∧
    (∀ n n', unpackF f a = .inf n → unpackF f b = .inf n' → fDiv f rm a b = .cond (defaultNan f) condV) ∧
    (∀ n n' m e e', m ≠ 0 → unpackF f a = .fin n m e → unpackF f b = .fin n' 0 e' →
      fDiv f rm a b = .cond (fInf f (n != n')) condZ) ∧
    (∀ m e, m ≠ 0 → unpackF f a = .fin true m e → fSqrt f rm a = .cond (defaultNan f) condV) ∧
    (isDenorm f a = true →
      fAbs f a = { bits := fZero f false, e := condU ||| condI, anyNan := false, tiny := true } ∧
      fNeg f a = { bits := fZero f (!bit a f.signBit), e := condU ||| condI, anyNan := false, tiny := true }) ∧
    (isNan f a = false → isDenorm f a = false → ∃ v w, fAbs f a = .exact v ∧ fNeg f a = .exact w ∧
      (∀ i, bit v i = if i = f.signBit then false else bit a i) ∧
      ∀ i, bit w i = if i = f.signBit then !bit a i else bit a i) ∧
    (isNan f a = true ∨ isNan f b = true →
      fUnordered f a b = true ∧ fLess f a b = false ∧ fEqual f a b = false) ∧
    (∀ n, unpackF f a = .inf n →
      (∀ n', unpackF f b = .inf n' → fUnordered f a b = false ∧ fLess f a b = (n && !n') ∧ fEqual f a b = (n == n')) ∧
      ∀ n' m e, unpackF f b = .fin n' m e → fUnordered f a b = false ∧ fUnordered f b a = false ∧
        fLess f a b = n ∧ fLess f b a = !n ∧ fEqual f a b = false ∧ fEqual f b a = false)
end

