-- ==== Sys2Proof/Laws/State.lean ====
section
/-! SUPPORT. One lemma for each field that an update of the state leaves alone, and for the fields it writes what it
writes, so that no proof unfolds a record update. -/

namespace Sys2Proof.Machine

/-! ### State.useFree -/

@[simp] theorem State.useFree_par (s : State) : s.useFree.par = s.par := rfl
@[simp] theorem State.useFree_gpr (s : State) : s.useFree.gpr = s.gpr := rfl
@[simp] theorem State.useFree_hi (s : State) : s.useFree.hi = s.hi := rfl
@[simp] theorem State.useFree_lo (s : State) : s.useFree.lo = s.lo := rfl
@[simp] theorem State.useFree_pc (s : State) : s.useFree.pc = s.pc := rfl
@[simp] theorem State.useFree_nextPc (s : State) : s.useFree.nextPc = s.nextPc := rfl
@[simp] theorem State.useFree_inDelay (s : State) : s.useFree.inDelay = s.inDelay := rfl
@[simp] theorem State.useFree_llBit (s : State) : s.useFree.llBit = s.llBit := rfl
@[simp] theorem State.useFree_link (s : State) : s.useFree.link = s.link := rfl
@[simp] theorem State.useFree_cp0 (s : State) : s.useFree.cp0 = s.cp0 := rfl
@[simp] theorem State.useFree_tlb64 (s : State) : s.useFree.tlb64 = s.tlb64 := rfl
@[simp] theorem State.useFree_tlb48 (s : State) : s.useFree.tlb48 = s.tlb48 := rfl
@[simp] theorem State.useFree_fpu (s : State) : s.useFree.fpu = s.fpu := rfl
@[simp] theorem State.useFree_mem (s : State) : s.useFree.mem = s.mem := rfl
@[simp] theorem State.useFree_icache (s : State) : s.useFree.icache = s.icache := rfl
@[simp] theorem State.useFree_dcache (s : State) : s.useFree.dcache = s.dcache := rfl
@[simp] theorem State.useFree_timerIrq (s : State) : s.useFree.timerIrq = s.timerIrq := rfl
@[simp] theorem State.useFree_watchI (s : State) : s.useFree.watchI = s.watchI := rfl
@[simp] theorem State.useFree_watchD (s : State) : s.useFree.watchD = s.watchD := rfl
@[simp] theorem State.useFree_halted (s : State) : s.useFree.halted = s.halted := rfl
@[simp] theorem State.useFree_hiloUnread (s : State) : s.useFree.hiloUnread = s.hiloUnread := rfl
@[simp] theorem State.useFree_haz (s : State) : s.useFree.haz = s.haz := rfl
@[simp] theorem State.useFree_hazNext (s : State) : s.useFree.hazNext = s.hazNext := rfl
@[simp] theorem State.useFree_inp (s : State) : s.useFree.inp = s.inp := rfl

/-! ### State.setGpr -/

@[simp] theorem State.setGpr_par (s : State) (r : RegNum) (v : DWord) : (s.setGpr r v).par = s.par := by unfold State.setGpr; split <;> rfl
@[simp] theorem State.setGpr_hi (s : State) (r : RegNum) (v : DWord) : (s.setGpr r v).hi = s.hi := by unfold State.setGpr; split <;> rfl
@[simp] theorem State.setGpr_lo (s : State) (r : RegNum) (v : DWord) : (s.setGpr r v).lo = s.lo := by unfold State.setGpr; split <;> rfl
@[simp] theorem State.setGpr_pc (s : State) (r : RegNum) (v : DWord) : (s.setGpr r v).pc = s.pc := by unfold State.setGpr; split <;> rfl
@[simp] theorem State.setGpr_nextPc (s : State) (r : RegNum) (v : DWord) : (s.setGpr r v).nextPc = s.nextPc := by unfold State.setGpr; split <;> rfl
@[simp] theorem State.setGpr_inDelay (s : State) (r : RegNum) (v : DWord) : (s.setGpr r v).inDelay = s.inDelay := by unfold State.setGpr; split <;> rfl
@[simp] theorem State.setGpr_llBit (s : State) (r : RegNum) (v : DWord) : (s.setGpr r v).llBit = s.llBit := by unfold State.setGpr; split <;> rfl
@[simp] theorem State.setGpr_link (s : State) (r : RegNum) (v : DWord) : (s.setGpr r v).link = s.link := by unfold State.setGpr; split <;> rfl
@[simp] theorem State.setGpr_cp0 (s : State) (r : RegNum) (v : DWord) : (s.setGpr r v).cp0 = s.cp0 := by unfold State.setGpr; split <;> rfl
@[simp] theorem State.setGpr_tlb64 (s : State) (r : RegNum) (v : DWord) : (s.setGpr r v).tlb64 = s.tlb64 := by unfold State.setGpr; split <;> rfl
@[simp] theorem State.setGpr_tlb48 (s : State) (r : RegNum) (v : DWord) : (s.setGpr r v).tlb48 = s.tlb48 := by unfold State.setGpr; split <;> rfl
@[simp] theorem State.setGpr_fpu (s : State) (r : RegNum) (v : DWord) : (s.setGpr r v).fpu = s.fpu := by unfold State.setGpr; split <;> rfl
@[simp] theorem State.setGpr_mem (s : State) (r : RegNum) (v : DWord) : (s.setGpr r v).mem = s.mem := by unfold State.setGpr; split <;> rfl
@[simp] theorem State.setGpr_icache (s : State) (r : RegNum) (v : DWord) : (s.setGpr r v).icache = s.icache := by unfold State.setGpr; split <;> rfl
@[simp] theorem State.setGpr_dcache (s : State) (r : RegNum) (v : DWord) : (s.setGpr r v).dcache = s.dcache := by unfold State.setGpr; split <;> rfl
@[simp] theorem State.setGpr_timerIrq (s : State) (r : RegNum) (v : DWord) : (s.setGpr r v).timerIrq = s.timerIrq := by unfold State.setGpr; split <;> rfl
@[simp] theorem State.setGpr_watchI (s : State) (r : RegNum) (v : DWord) : (s.setGpr r v).watchI = s.watchI := by unfold State.setGpr; split <;> rfl
@[simp] theorem State.setGpr_watchD (s : State) (r : RegNum) (v : DWord) : (s.setGpr r v).watchD = s.watchD := by unfold State.setGpr; split <;> rfl
@[simp] theorem State.setGpr_halted (s : State) (r : RegNum) (v : DWord) : (s.setGpr r v).halted = s.halted := by unfold State.setGpr; split <;> rfl
@[simp] theorem State.setGpr_hiloUnread (s : State) (r : RegNum) (v : DWord) : (s.setGpr r v).hiloUnread = s.hiloUnread := by unfold State.setGpr; split <;> rfl
@[simp] theorem State.setGpr_haz (s : State) (r : RegNum) (v : DWord) : (s.setGpr r v).haz = s.haz := by unfold State.setGpr; split <;> rfl
@[simp] theorem State.setGpr_hazNext (s : State) (r : RegNum) (v : DWord) : (s.setGpr r v).hazNext = s.hazNext := by unfold State.setGpr; split <;> rfl
@[simp] theorem State.setGpr_inp (s : State) (r : RegNum) (v : DWord) : (s.setGpr r v).inp = s.inp := by unfold State.setGpr; split <;> rfl
@[simp] theorem State.setGpr_freeCtr (s : State) (r : RegNum) (v : DWord) : (s.setGpr r v).freeCtr = s.freeCtr := by unfold State.setGpr; split <;> rfl

/-! ### State.putGpr -/

@[simp] theorem State.putGpr_par (s : State) (r : RegNum) (v : DWord) : (s.putGpr r v).par = s.par := by simp [State.putGpr]
@[simp] theorem State.putGpr_hi (s : State) (r : RegNum) (v : DWord) : (s.putGpr r v).hi = s.hi := by simp [State.putGpr]
@[simp] theorem State.putGpr_lo (s : State) (r : RegNum) (v : DWord) : (s.putGpr r v).lo = s.lo := by simp [State.putGpr]
@[simp] theorem State.putGpr_pc (s : State) (r : RegNum) (v : DWord) : (s.putGpr r v).pc = s.pc := by simp [State.putGpr]
@[simp] theorem State.putGpr_nextPc (s : State) (r : RegNum) (v : DWord) : (s.putGpr r v).nextPc = s.nextPc := by simp [State.putGpr]
@[simp] theorem State.putGpr_inDelay (s : State) (r : RegNum) (v : DWord) : (s.putGpr r v).inDelay = s.inDelay := by simp [State.putGpr]
@[simp] theorem State.putGpr_llBit (s : State) (r : RegNum) (v : DWord) : (s.putGpr r v).llBit = s.llBit := by simp [State.putGpr]
@[simp] theorem State.putGpr_link (s : State) (r : RegNum) (v : DWord) : (s.putGpr r v).link = s.link := by simp [State.putGpr]
@[simp] theorem State.putGpr_cp0 (s : State) (r : RegNum) (v : DWord) : (s.putGpr r v).cp0 = s.cp0 := by simp [State.putGpr]
@[simp] theorem State.putGpr_tlb64 (s : State) (r : RegNum) (v : DWord) : (s.putGpr r v).tlb64 = s.tlb64 := by simp [State.putGpr]
@[simp] theorem State.putGpr_tlb48 (s : State) (r : RegNum) (v : DWord) : (s.putGpr r v).tlb48 = s.tlb48 := by simp [State.putGpr]
@[simp] theorem State.putGpr_fpu (s : State) (r : RegNum) (v : DWord) : (s.putGpr r v).fpu = s.fpu := by simp [State.putGpr]
@[simp] theorem State.putGpr_mem (s : State) (r : RegNum) (v : DWord) : (s.putGpr r v).mem = s.mem := by simp [State.putGpr]
@[simp] theorem State.putGpr_icache (s : State) (r : RegNum) (v : DWord) : (s.putGpr r v).icache = s.icache := by simp [State.putGpr]
@[simp] theorem State.putGpr_dcache (s : State) (r : RegNum) (v : DWord) : (s.putGpr r v).dcache = s.dcache := by simp [State.putGpr]
@[simp] theorem State.putGpr_timerIrq (s : State) (r : RegNum) (v : DWord) : (s.putGpr r v).timerIrq = s.timerIrq := by simp [State.putGpr]
@[simp] theorem State.putGpr_watchI (s : State) (r : RegNum) (v : DWord) : (s.putGpr r v).watchI = s.watchI := by simp [State.putGpr]
@[simp] theorem State.putGpr_watchD (s : State) (r : RegNum) (v : DWord) : (s.putGpr r v).watchD = s.watchD := by simp [State.putGpr]
@[simp] theorem State.putGpr_halted (s : State) (r : RegNum) (v : DWord) : (s.putGpr r v).halted = s.halted := by simp [State.putGpr]
@[simp] theorem State.putGpr_hiloUnread (s : State) (r : RegNum) (v : DWord) : (s.putGpr r v).hiloUnread = s.hiloUnread := by simp [State.putGpr]
@[simp] theorem State.putGpr_hazNext (s : State) (r : RegNum) (v : DWord) : (s.putGpr r v).hazNext = s.hazNext := by simp [State.putGpr]
@[simp] theorem State.putGpr_inp (s : State) (r : RegNum) (v : DWord) : (s.putGpr r v).inp = s.inp := by simp [State.putGpr]
@[simp] theorem State.putGpr_freeCtr (s : State) (r : RegNum) (v : DWord) : (s.putGpr r v).freeCtr = s.freeCtr := by simp [State.putGpr]

/-! ### State.freeGpr -/

@[simp] theorem State.freeGpr_par (s : State) (r : RegNum) : (s.freeGpr r).par = s.par := by simp [State.freeGpr]
@[simp] theorem State.freeGpr_hi (s : State) (r : RegNum) : (s.freeGpr r).hi = s.hi := by simp [State.freeGpr]
@[simp] theorem State.freeGpr_lo (s : State) (r : RegNum) : (s.freeGpr r).lo = s.lo := by simp [State.freeGpr]
@[simp] theorem State.freeGpr_pc (s : State) (r : RegNum) : (s.freeGpr r).pc = s.pc := by simp [State.freeGpr]
@[simp] theorem State.freeGpr_nextPc (s : State) (r : RegNum) : (s.freeGpr r).nextPc = s.nextPc := by simp [State.freeGpr]
@[simp] theorem State.freeGpr_inDelay (s : State) (r : RegNum) : (s.freeGpr r).inDelay = s.inDelay := by simp [State.freeGpr]
@[simp] theorem State.freeGpr_llBit (s : State) (r : RegNum) : (s.freeGpr r).llBit = s.llBit := by simp [State.freeGpr]
@[simp] theorem State.freeGpr_link (s : State) (r : RegNum) : (s.freeGpr r).link = s.link := by simp [State.freeGpr]
@[simp] theorem State.freeGpr_cp0 (s : State) (r : RegNum) : (s.freeGpr r).cp0 = s.cp0 := by simp [State.freeGpr]
@[simp] theorem State.freeGpr_tlb64 (s : State) (r : RegNum) : (s.freeGpr r).tlb64 = s.tlb64 := by simp [State.freeGpr]
@[simp] theorem State.freeGpr_tlb48 (s : State) (r : RegNum) : (s.freeGpr r).tlb48 = s.tlb48 := by simp [State.freeGpr]
@[simp] theorem State.freeGpr_fpu (s : State) (r : RegNum) : (s.freeGpr r).fpu = s.fpu := by simp [State.freeGpr]
@[simp] theorem State.freeGpr_mem (s : State) (r : RegNum) : (s.freeGpr r).mem = s.mem := by simp [State.freeGpr]
@[simp] theorem State.freeGpr_icache (s : State) (r : RegNum) : (s.freeGpr r).icache = s.icache := by simp [State.freeGpr]
@[simp] theorem State.freeGpr_dcache (s : State) (r : RegNum) : (s.freeGpr r).dcache = s.dcache := by simp [State.freeGpr]
@[simp] theorem State.freeGpr_timerIrq (s : State) (r : RegNum) : (s.freeGpr r).timerIrq = s.timerIrq := by simp [State.freeGpr]
@[simp] theorem State.freeGpr_watchI (s : State) (r : RegNum) : (s.freeGpr r).watchI = s.watchI := by simp [State.freeGpr]
@[simp] theorem State.freeGpr_watchD (s : State) (r : RegNum) : (s.freeGpr r).watchD = s.watchD := by simp [State.freeGpr]
@[simp] theorem State.freeGpr_halted (s : State) (r : RegNum) : (s.freeGpr r).halted = s.halted := by simp [State.freeGpr]
@[simp] theorem State.freeGpr_hiloUnread (s : State) (r : RegNum) : (s.freeGpr r).hiloUnread = s.hiloUnread := by simp [State.freeGpr]
@[simp] theorem State.freeGpr_haz (s : State) (r : RegNum) : (s.freeGpr r).haz = s.haz := by simp [State.freeGpr]
@[simp] theorem State.freeGpr_hazNext (s : State) (r : RegNum) : (s.freeGpr r).hazNext = s.hazNext := by simp [State.freeGpr]
@[simp] theorem State.freeGpr_inp (s : State) (r : RegNum) : (s.freeGpr r).inp = s.inp := by simp [State.freeGpr]

/-! ### State.setHi -/

@[simp] theorem State.setHi_par (s : State) (v : DWord) : (s.setHi v).par = s.par := rfl
@[simp] theorem State.setHi_gpr (s : State) (v : DWord) : (s.setHi v).gpr = s.gpr := rfl
@[simp] theorem State.setHi_lo (s : State) (v : DWord) : (s.setHi v).lo = s.lo := rfl
@[simp] theorem State.setHi_pc (s : State) (v : DWord) : (s.setHi v).pc = s.pc := rfl
@[simp] theorem State.setHi_nextPc (s : State) (v : DWord) : (s.setHi v).nextPc = s.nextPc := rfl
@[simp] theorem State.setHi_inDelay (s : State) (v : DWord) : (s.setHi v).inDelay = s.inDelay := rfl
@[simp] theorem State.setHi_llBit (s : State) (v : DWord) : (s.setHi v).llBit = s.llBit := rfl
@[simp] theorem State.setHi_link (s : State) (v : DWord) : (s.setHi v).link = s.link := rfl
@[simp] theorem State.setHi_cp0 (s : State) (v : DWord) : (s.setHi v).cp0 = s.cp0 := rfl
@[simp] theorem State.setHi_tlb64 (s : State) (v : DWord) : (s.setHi v).tlb64 = s.tlb64 := rfl
@[simp] theorem State.setHi_tlb48 (s : State) (v : DWord) : (s.setHi v).tlb48 = s.tlb48 := rfl
@[simp] theorem State.setHi_fpu (s : State) (v : DWord) : (s.setHi v).fpu = s.fpu := rfl
@[simp] theorem State.setHi_mem (s : State) (v : DWord) : (s.setHi v).mem = s.mem := rfl
@[simp] theorem State.setHi_icache (s : State) (v : DWord) : (s.setHi v).icache = s.icache := rfl
@[simp] theorem State.setHi_dcache (s : State) (v : DWord) : (s.setHi v).dcache = s.dcache := rfl
@[simp] theorem State.setHi_timerIrq (s : State) (v : DWord) : (s.setHi v).timerIrq = s.timerIrq := rfl
@[simp] theorem State.setHi_watchI (s : State) (v : DWord) : (s.setHi v).watchI = s.watchI := rfl
@[simp] theorem State.setHi_watchD (s : State) (v : DWord) : (s.setHi v).watchD = s.watchD := rfl
@[simp] theorem State.setHi_halted (s : State) (v : DWord) : (s.setHi v).halted = s.halted := rfl
@[simp] theorem State.setHi_hiloUnread (s : State) (v : DWord) : (s.setHi v).hiloUnread = s.hiloUnread := rfl
@[simp] theorem State.setHi_haz (s : State) (v : DWord) : (s.setHi v).haz = s.haz := rfl
@[simp] theorem State.setHi_hazNext (s : State) (v : DWord) : (s.setHi v).hazNext = s.hazNext := rfl
@[simp] theorem State.setHi_inp (s : State) (v : DWord) : (s.setHi v).inp = s.inp := rfl
@[simp] theorem State.setHi_freeCtr (s : State) (v : DWord) : (s.setHi v).freeCtr = s.freeCtr := rfl

/-! ### State.setLo -/

@[simp] theorem State.setLo_par (s : State) (v : DWord) : (s.setLo v).par = s.par := rfl
@[simp] theorem State.setLo_gpr (s : State) (v : DWord) : (s.setLo v).gpr = s.gpr := rfl
@[simp] theorem State.setLo_hi (s : State) (v : DWord) : (s.setLo v).hi = s.hi := rfl
@[simp] theorem State.setLo_pc (s : State) (v : DWord) : (s.setLo v).pc = s.pc := rfl
@[simp] theorem State.setLo_nextPc (s : State) (v : DWord) : (s.setLo v).nextPc = s.nextPc := rfl
@[simp] theorem State.setLo_inDelay (s : State) (v : DWord) : (s.setLo v).inDelay = s.inDelay := rfl
@[simp] theorem State.setLo_llBit (s : State) (v : DWord) : (s.setLo v).llBit = s.llBit := rfl
@[simp] theorem State.setLo_link (s : State) (v : DWord) : (s.setLo v).link = s.link := rfl
@[simp] theorem State.setLo_cp0 (s : State) (v : DWord) : (s.setLo v).cp0 = s.cp0 := rfl
@[simp] theorem State.setLo_tlb64 (s : State) (v : DWord) : (s.setLo v).tlb64 = s.tlb64 := rfl
@[simp] theorem State.setLo_tlb48 (s : State) (v : DWord) : (s.setLo v).tlb48 = s.tlb48 := rfl
@[simp] theorem State.setLo_fpu (s : State) (v : DWord) : (s.setLo v).fpu = s.fpu := rfl
@[simp] theorem State.setLo_mem (s : State) (v : DWord) : (s.setLo v).mem = s.mem := rfl
@[simp] theorem State.setLo_icache (s : State) (v : DWord) : (s.setLo v).icache = s.icache := rfl
@[simp] theorem State.setLo_dcache (s : State) (v : DWord) : (s.setLo v).dcache = s.dcache := rfl
@[simp] theorem State.setLo_timerIrq (s : State) (v : DWord) : (s.setLo v).timerIrq = s.timerIrq := rfl
@[simp] theorem State.setLo_watchI (s : State) (v : DWord) : (s.setLo v).watchI = s.watchI := rfl
@[simp] theorem State.setLo_watchD (s : State) (v : DWord) : (s.setLo v).watchD = s.watchD := rfl
@[simp] theorem State.setLo_halted (s : State) (v : DWord) : (s.setLo v).halted = s.halted := rfl
@[simp] theorem State.setLo_hiloUnread (s : State) (v : DWord) : (s.setLo v).hiloUnread = s.hiloUnread := rfl
@[simp] theorem State.setLo_haz (s : State) (v : DWord) : (s.setLo v).haz = s.haz := rfl
@[simp] theorem State.setLo_hazNext (s : State) (v : DWord) : (s.setLo v).hazNext = s.hazNext := rfl
@[simp] theorem State.setLo_inp (s : State) (v : DWord) : (s.setLo v).inp = s.inp := rfl
@[simp] theorem State.setLo_freeCtr (s : State) (v : DWord) : (s.setLo v).freeCtr = s.freeCtr := rfl

/-! ### State.putHilo -/

@[simp] theorem State.putHilo_par (s : State) (h l : DWord) : (s.putHilo h l).par = s.par := rfl
@[simp] theorem State.putHilo_gpr (s : State) (h l : DWord) : (s.putHilo h l).gpr = s.gpr := rfl
@[simp] theorem State.putHilo_pc (s : State) (h l : DWord) : (s.putHilo h l).pc = s.pc := rfl
@[simp] theorem State.putHilo_nextPc (s : State) (h l : DWord) : (s.putHilo h l).nextPc = s.nextPc := rfl
@[simp] theorem State.putHilo_inDelay (s : State) (h l : DWord) : (s.putHilo h l).inDelay = s.inDelay := rfl
@[simp] theorem State.putHilo_llBit (s : State) (h l : DWord) : (s.putHilo h l).llBit = s.llBit := rfl
@[simp] theorem State.putHilo_link (s : State) (h l : DWord) : (s.putHilo h l).link = s.link := rfl
@[simp] theorem State.putHilo_cp0 (s : State) (h l : DWord) : (s.putHilo h l).cp0 = s.cp0 := rfl
@[simp] theorem State.putHilo_tlb64 (s : State) (h l : DWord) : (s.putHilo h l).tlb64 = s.tlb64 := rfl
@[simp] theorem State.putHilo_tlb48 (s : State) (h l : DWord) : (s.putHilo h l).tlb48 = s.tlb48 := rfl
@[simp] theorem State.putHilo_fpu (s : State) (h l : DWord) : (s.putHilo h l).fpu = s.fpu := rfl
@[simp] theorem State.putHilo_mem (s : State) (h l : DWord) : (s.putHilo h l).mem = s.mem := rfl
@[simp] theorem State.putHilo_icache (s : State) (h l : DWord) : (s.putHilo h l).icache = s.icache := rfl
@[simp] theorem State.putHilo_dcache (s : State) (h l : DWord) : (s.putHilo h l).dcache = s.dcache := rfl
@[simp] theorem State.putHilo_timerIrq (s : State) (h l : DWord) : (s.putHilo h l).timerIrq = s.timerIrq := rfl
@[simp] theorem State.putHilo_watchI (s : State) (h l : DWord) : (s.putHilo h l).watchI = s.watchI := rfl
@[simp] theorem State.putHilo_watchD (s : State) (h l : DWord) : (s.putHilo h l).watchD = s.watchD := rfl
@[simp] theorem State.putHilo_halted (s : State) (h l : DWord) : (s.putHilo h l).halted = s.halted := rfl
@[simp] theorem State.putHilo_haz (s : State) (h l : DWord) : (s.putHilo h l).haz = s.haz := rfl
@[simp] theorem State.putHilo_hazNext (s : State) (h l : DWord) : (s.putHilo h l).hazNext = s.hazNext := rfl
@[simp] theorem State.putHilo_inp (s : State) (h l : DWord) : (s.putHilo h l).inp = s.inp := rfl
@[simp] theorem State.putHilo_freeCtr (s : State) (h l : DWord) : (s.putHilo h l).freeCtr = s.freeCtr := rfl

/-! ### State.setSr -/

@[simp] theorem State.setSr_par (s : State) (v : Word) : (s.setSr v).par = s.par := rfl
@[simp] theorem State.setSr_gpr (s : State) (v : Word) : (s.setSr v).gpr = s.gpr := rfl
@[simp] theorem State.setSr_hi (s : State) (v : Word) : (s.setSr v).hi = s.hi := rfl
@[simp] theorem State.setSr_lo (s : State) (v : Word) : (s.setSr v).lo = s.lo := rfl
@[simp] theorem State.setSr_pc (s : State) (v : Word) : (s.setSr v).pc = s.pc := rfl
@[simp] theorem State.setSr_nextPc (s : State) (v : Word) : (s.setSr v).nextPc = s.nextPc := rfl
@[simp] theorem State.setSr_inDelay (s : State) (v : Word) : (s.setSr v).inDelay = s.inDelay := rfl
@[simp] theorem State.setSr_llBit (s : State) (v : Word) : (s.setSr v).llBit = s.llBit := rfl
@[simp] theorem State.setSr_link (s : State) (v : Word) : (s.setSr v).link = s.link := rfl
@[simp] theorem State.setSr_tlb64 (s : State) (v : Word) : (s.setSr v).tlb64 = s.tlb64 := rfl
@[simp] theorem State.setSr_tlb48 (s : State) (v : Word) : (s.setSr v).tlb48 = s.tlb48 := rfl
@[simp] theorem State.setSr_fpu (s : State) (v : Word) : (s.setSr v).fpu = s.fpu := rfl
@[simp] theorem State.setSr_mem (s : State) (v : Word) : (s.setSr v).mem = s.mem := rfl
@[simp] theorem State.setSr_icache (s : State) (v : Word) : (s.setSr v).icache = s.icache := rfl
@[simp] theorem State.setSr_dcache (s : State) (v : Word) : (s.setSr v).dcache = s.dcache := rfl
@[simp] theorem State.setSr_timerIrq (s : State) (v : Word) : (s.setSr v).timerIrq = s.timerIrq := rfl
@[simp] theorem State.setSr_watchI (s : State) (v : Word) : (s.setSr v).watchI = s.watchI := rfl
@[simp] theorem State.setSr_watchD (s : State) (v : Word) : (s.setSr v).watchD = s.watchD := rfl
@[simp] theorem State.setSr_halted (s : State) (v : Word) : (s.setSr v).halted = s.halted := rfl
@[simp] theorem State.setSr_hiloUnread (s : State) (v : Word) : (s.setSr v).hiloUnread = s.hiloUnread := rfl
@[simp] theorem State.setSr_haz (s : State) (v : Word) : (s.setSr v).haz = s.haz := rfl
@[simp] theorem State.setSr_hazNext (s : State) (v : Word) : (s.setSr v).hazNext = s.hazNext := rfl
@[simp] theorem State.setSr_inp (s : State) (v : Word) : (s.setSr v).inp = s.inp := rfl
@[simp] theorem State.setSr_freeCtr (s : State) (v : Word) : (s.setSr v).freeCtr = s.freeCtr := rfl

/-! ### State.delayGpr -/

@[simp] theorem State.delayGpr_par (s : State) (l : Isa) (b : Bool) (r : RegNum) : (s.delayGpr l b r).par = s.par := by unfold State.delayGpr; split <;> rfl
@[simp] theorem State.delayGpr_gpr (s : State) (l : Isa) (b : Bool) (r : RegNum) : (s.delayGpr l b r).gpr = s.gpr := by unfold State.delayGpr; split <;> rfl
@[simp] theorem State.delayGpr_hi (s : State) (l : Isa) (b : Bool) (r : RegNum) : (s.delayGpr l b r).hi = s.hi := by unfold State.delayGpr; split <;> rfl
@[simp] theorem State.delayGpr_lo (s : State) (l : Isa) (b : Bool) (r : RegNum) : (s.delayGpr l b r).lo = s.lo := by unfold State.delayGpr; split <;> rfl
@[simp] theorem State.delayGpr_pc (s : State) (l : Isa) (b : Bool) (r : RegNum) : (s.delayGpr l b r).pc = s.pc := by unfold State.delayGpr; split <;> rfl
@[simp] theorem State.delayGpr_nextPc (s : State) (l : Isa) (b : Bool) (r : RegNum) : (s.delayGpr l b r).nextPc = s.nextPc := by unfold State.delayGpr; split <;> rfl
@[simp] theorem State.delayGpr_inDelay (s : State) (l : Isa) (b : Bool) (r : RegNum) : (s.delayGpr l b r).inDelay = s.inDelay := by unfold State.delayGpr; split <;> rfl
@[simp] theorem State.delayGpr_llBit (s : State) (l : Isa) (b : Bool) (r : RegNum) : (s.delayGpr l b r).llBit = s.llBit := by unfold State.delayGpr; split <;> rfl
@[simp] theorem State.delayGpr_link (s : State) (l : Isa) (b : Bool) (r : RegNum) : (s.delayGpr l b r).link = s.link := by unfold State.delayGpr; split <;> rfl
@[simp] theorem State.delayGpr_cp0 (s : State) (l : Isa) (b : Bool) (r : RegNum) : (s.delayGpr l b r).cp0 = s.cp0 := by unfold State.delayGpr; split <;> rfl
@[simp] theorem State.delayGpr_tlb64 (s : State) (l : Isa) (b : Bool) (r : RegNum) : (s.delayGpr l b r).tlb64 = s.tlb64 := by unfold State.delayGpr; split <;> rfl
@[simp] theorem State.delayGpr_tlb48 (s : State) (l : Isa) (b : Bool) (r : RegNum) : (s.delayGpr l b r).tlb48 = s.tlb48 := by unfold State.delayGpr; split <;> rfl
@[simp] theorem State.delayGpr_fpu (s : State) (l : Isa) (b : Bool) (r : RegNum) : (s.delayGpr l b r).fpu = s.fpu := by unfold State.delayGpr; split <;> rfl
@[simp] theorem State.delayGpr_mem (s : State) (l : Isa) (b : Bool) (r : RegNum) : (s.delayGpr l b r).mem = s.mem := by unfold State.delayGpr; split <;> rfl
@[simp] theorem State.delayGpr_icache (s : State) (l : Isa) (b : Bool) (r : RegNum) : (s.delayGpr l b r).icache = s.icache := by unfold State.delayGpr; split <;> rfl
@[simp] theorem State.delayGpr_dcache (s : State) (l : Isa) (b : Bool) (r : RegNum) : (s.delayGpr l b r).dcache = s.dcache := by unfold State.delayGpr; split <;> rfl
@[simp] theorem State.delayGpr_timerIrq (s : State) (l : Isa) (b : Bool) (r : RegNum) : (s.delayGpr l b r).timerIrq = s.timerIrq := by unfold State.delayGpr; split <;> rfl
@[simp] theorem State.delayGpr_watchI (s : State) (l : Isa) (b : Bool) (r : RegNum) : (s.delayGpr l b r).watchI = s.watchI := by unfold State.delayGpr; split <;> rfl
@[simp] theorem State.delayGpr_watchD (s : State) (l : Isa) (b : Bool) (r : RegNum) : (s.delayGpr l b r).watchD = s.watchD := by unfold State.delayGpr; split <;> rfl
@[simp] theorem State.delayGpr_halted (s : State) (l : Isa) (b : Bool) (r : RegNum) : (s.delayGpr l b r).halted = s.halted := by unfold State.delayGpr; split <;> rfl
@[simp] theorem State.delayGpr_hiloUnread (s : State) (l : Isa) (b : Bool) (r : RegNum) : (s.delayGpr l b r).hiloUnread = s.hiloUnread := by unfold State.delayGpr; split <;> rfl
@[simp] theorem State.delayGpr_haz (s : State) (l : Isa) (b : Bool) (r : RegNum) : (s.delayGpr l b r).haz = s.haz := by unfold State.delayGpr; split <;> rfl
@[simp] theorem State.delayGpr_inp (s : State) (l : Isa) (b : Bool) (r : RegNum) : (s.delayGpr l b r).inp = s.inp := by unfold State.delayGpr; split <;> rfl
@[simp] theorem State.delayGpr_freeCtr (s : State) (l : Isa) (b : Bool) (r : RegNum) : (s.delayGpr l b r).freeCtr = s.freeCtr := by unfold State.delayGpr; split <;> rfl

/-! ### State.advance -/

@[simp] theorem State.advance_par (s : State) : s.advance.par = s.par := rfl
@[simp] theorem State.advance_gpr (s : State) : s.advance.gpr = s.gpr := rfl
@[simp] theorem State.advance_hi (s : State) : s.advance.hi = s.hi := rfl
@[simp] theorem State.advance_lo (s : State) : s.advance.lo = s.lo := rfl
@[simp] theorem State.advance_llBit (s : State) : s.advance.llBit = s.llBit := rfl
@[simp] theorem State.advance_link (s : State) : s.advance.link = s.link := rfl
@[simp] theorem State.advance_cp0 (s : State) : s.advance.cp0 = s.cp0 := rfl
@[simp] theorem State.advance_tlb64 (s : State) : s.advance.tlb64 = s.tlb64 := rfl
@[simp] theorem State.advance_tlb48 (s : State) : s.advance.tlb48 = s.tlb48 := rfl
@[simp] theorem State.advance_fpu (s : State) : s.advance.fpu = s.fpu := rfl
@[simp] theorem State.advance_mem (s : State) : s.advance.mem = s.mem := rfl
@[simp] theorem State.advance_icache (s : State) : s.advance.icache = s.icache := rfl
@[simp] theorem State.advance_dcache (s : State) : s.advance.dcache = s.dcache := rfl
@[simp] theorem State.advance_timerIrq (s : State) : s.advance.timerIrq = s.timerIrq := rfl
@[simp] theorem State.advance_watchI (s : State) : s.advance.watchI = s.watchI := rfl
@[simp] theorem State.advance_watchD (s : State) : s.advance.watchD = s.watchD := rfl
@[simp] theorem State.advance_halted (s : State) : s.advance.halted = s.halted := rfl
@[simp] theorem State.advance_hiloUnread (s : State) : s.advance.hiloUnread = s.hiloUnread := rfl
@[simp] theorem State.advance_inp (s : State) : s.advance.inp = s.inp := rfl
@[simp] theorem State.advance_freeCtr (s : State) : s.advance.freeCtr = s.freeCtr := rfl

/-! ### State.advanceBranch -/

@[simp] theorem State.advanceBranch_par (s : State) (b : Bool) (a : DWord) : (s.advanceBranch b a).par = s.par := rfl
@[simp] theorem State.advanceBranch_gpr (s : State) (b : Bool) (a : DWord) : (s.advanceBranch b a).gpr = s.gpr := rfl
@[simp] theorem State.advanceBranch_hi (s : State) (b : Bool) (a : DWord) : (s.advanceBranch b a).hi = s.hi := rfl
@[simp] theorem State.advanceBranch_lo (s : State) (b : Bool) (a : DWord) : (s.advanceBranch b a).lo = s.lo := rfl
@[simp] theorem State.advanceBranch_llBit (s : State) (b : Bool) (a : DWord) : (s.advanceBranch b a).llBit = s.llBit := rfl
@[simp] theorem State.advanceBranch_link (s : State) (b : Bool) (a : DWord) : (s.advanceBranch b a).link = s.link := rfl
@[simp] theorem State.advanceBranch_cp0 (s : State) (b : Bool) (a : DWord) : (s.advanceBranch b a).cp0 = s.cp0 := rfl
@[simp] theorem State.advanceBranch_tlb64 (s : State) (b : Bool) (a : DWord) : (s.advanceBranch b a).tlb64 = s.tlb64 := rfl
@[simp] theorem State.advanceBranch_tlb48 (s : State) (b : Bool) (a : DWord) : (s.advanceBranch b a).tlb48 = s.tlb48 := rfl
@[simp] theorem State.advanceBranch_fpu (s : State) (b : Bool) (a : DWord) : (s.advanceBranch b a).fpu = s.fpu := rfl
@[simp] theorem State.advanceBranch_mem (s : State) (b : Bool) (a : DWord) : (s.advanceBranch b a).mem = s.mem := rfl
@[simp] theorem State.advanceBranch_icache (s : State) (b : Bool) (a : DWord) : (s.advanceBranch b a).icache = s.icache := rfl
@[simp] theorem State.advanceBranch_dcache (s : State) (b : Bool) (a : DWord) : (s.advanceBranch b a).dcache = s.dcache := rfl
@[simp] theorem State.advanceBranch_timerIrq (s : State) (b : Bool) (a : DWord) : (s.advanceBranch b a).timerIrq = s.timerIrq := rfl
@[simp] theorem State.advanceBranch_watchI (s : State) (b : Bool) (a : DWord) : (s.advanceBranch b a).watchI = s.watchI := rfl
@[simp] theorem State.advanceBranch_watchD (s : State) (b : Bool) (a : DWord) : (s.advanceBranch b a).watchD = s.watchD := rfl
@[simp] theorem State.advanceBranch_halted (s : State) (b : Bool) (a : DWord) : (s.advanceBranch b a).halted = s.halted := rfl
@[simp] theorem State.advanceBranch_hiloUnread (s : State) (b : Bool) (a : DWord) : (s.advanceBranch b a).hiloUnread = s.hiloUnread := rfl
@[simp] theorem State.advanceBranch_inp (s : State) (b : Bool) (a : DWord) : (s.advanceBranch b a).inp = s.inp := rfl
@[simp] theorem State.advanceBranch_freeCtr (s : State) (b : Bool) (a : DWord) : (s.advanceBranch b a).freeCtr = s.freeCtr := rfl

/-! ### State.advanceNullify -/

@[simp] theorem State.advanceNullify_par (s : State) : s.advanceNullify.par = s.par := rfl
@[simp] theorem State.advanceNullify_gpr (s : State) : s.advanceNullify.gpr = s.gpr := rfl
@[simp] theorem State.advanceNullify_hi (s : State) : s.advanceNullify.hi = s.hi := rfl
@[simp] theorem State.advanceNullify_lo (s : State) : s.advanceNullify.lo = s.lo := rfl
@[simp] theorem State.advanceNullify_llBit (s : State) : s.advanceNullify.llBit = s.llBit := rfl
@[simp] theorem State.advanceNullify_link (s : State) : s.advanceNullify.link = s.link := rfl
@[simp] theorem State.advanceNullify_cp0 (s : State) : s.advanceNullify.cp0 = s.cp0 := rfl
@[simp] theorem State.advanceNullify_tlb64 (s : State) : s.advanceNullify.tlb64 = s.tlb64 := rfl
@[simp] theorem State.advanceNullify_tlb48 (s : State) : s.advanceNullify.tlb48 = s.tlb48 := rfl
@[simp] theorem State.advanceNullify_fpu (s : State) : s.advanceNullify.fpu = s.fpu := rfl
@[simp] theorem State.advanceNullify_mem (s : State) : s.advanceNullify.mem = s.mem := rfl
@[simp] theorem State.advanceNullify_icache (s : State) : s.advanceNullify.icache = s.icache := rfl
@[simp] theorem State.advanceNullify_dcache (s : State) : s.advanceNullify.dcache = s.dcache := rfl
@[simp] theorem State.advanceNullify_timerIrq (s : State) : s.advanceNullify.timerIrq = s.timerIrq := rfl
@[simp] theorem State.advanceNullify_watchI (s : State) : s.advanceNullify.watchI = s.watchI := rfl
@[simp] theorem State.advanceNullify_watchD (s : State) : s.advanceNullify.watchD = s.watchD := rfl
@[simp] theorem State.advanceNullify_halted (s : State) : s.advanceNullify.halted = s.halted := rfl
@[simp] theorem State.advanceNullify_hiloUnread (s : State) : s.advanceNullify.hiloUnread = s.hiloUnread := rfl
@[simp] theorem State.advanceNullify_inp (s : State) : s.advanceNullify.inp = s.inp := rfl
@[simp] theorem State.advanceNullify_freeCtr (s : State) : s.advanceNullify.freeCtr = s.freeCtr := rfl

/-! ### State.gotoWith -/

@[simp] theorem State.gotoWith_par (s : State) (a : DWord) (h : Hazards) : (s.gotoWith a h).par = s.par := rfl
@[simp] theorem State.gotoWith_gpr (s : State) (a : DWord) (h : Hazards) : (s.gotoWith a h).gpr = s.gpr := rfl
@[simp] theorem State.gotoWith_hi (s : State) (a : DWord) (h : Hazards) : (s.gotoWith a h).hi = s.hi := rfl
@[simp] theorem State.gotoWith_lo (s : State) (a : DWord) (h : Hazards) : (s.gotoWith a h).lo = s.lo := rfl
@[simp] theorem State.gotoWith_llBit (s : State) (a : DWord) (h : Hazards) : (s.gotoWith a h).llBit = s.llBit := rfl
@[simp] theorem State.gotoWith_link (s : State) (a : DWord) (h : Hazards) : (s.gotoWith a h).link = s.link := rfl
@[simp] theorem State.gotoWith_cp0 (s : State) (a : DWord) (h : Hazards) : (s.gotoWith a h).cp0 = s.cp0 := rfl
@[simp] theorem State.gotoWith_tlb64 (s : State) (a : DWord) (h : Hazards) : (s.gotoWith a h).tlb64 = s.tlb64 := rfl
@[simp] theorem State.gotoWith_tlb48 (s : State) (a : DWord) (h : Hazards) : (s.gotoWith a h).tlb48 = s.tlb48 := rfl
@[simp] theorem State.gotoWith_fpu (s : State) (a : DWord) (h : Hazards) : (s.gotoWith a h).fpu = s.fpu := rfl
@[simp] theorem State.gotoWith_mem (s : State) (a : DWord) (h : Hazards) : (s.gotoWith a h).mem = s.mem := rfl
@[simp] theorem State.gotoWith_icache (s : State) (a : DWord) (h : Hazards) : (s.gotoWith a h).icache = s.icache := rfl
@[simp] theorem State.gotoWith_dcache (s : State) (a : DWord) (h : Hazards) : (s.gotoWith a h).dcache = s.dcache := rfl
@[simp] theorem State.gotoWith_timerIrq (s : State) (a : DWord) (h : Hazards) : (s.gotoWith a h).timerIrq = s.timerIrq := rfl
@[simp] theorem State.gotoWith_watchI (s : State) (a : DWord) (h : Hazards) : (s.gotoWith a h).watchI = s.watchI := rfl
@[simp] theorem State.gotoWith_watchD (s : State) (a : DWord) (h : Hazards) : (s.gotoWith a h).watchD = s.watchD := rfl
@[simp] theorem State.gotoWith_halted (s : State) (a : DWord) (h : Hazards) : (s.gotoWith a h).halted = s.halted := rfl
@[simp] theorem State.gotoWith_hiloUnread (s : State) (a : DWord) (h : Hazards) : (s.gotoWith a h).hiloUnread = s.hiloUnread := rfl
@[simp] theorem State.gotoWith_inp (s : State) (a : DWord) (h : Hazards) : (s.gotoWith a h).inp = s.inp := rfl
@[simp] theorem State.gotoWith_freeCtr (s : State) (a : DWord) (h : Hazards) : (s.gotoWith a h).freeCtr = s.freeCtr := rfl

/-! ### State.setFcr31 -/

@[simp] theorem State.setFcr31_par (s : State) (v : Word) : (s.setFcr31 v).par = s.par := rfl
@[simp] theorem State.setFcr31_gpr (s : State) (v : Word) : (s.setFcr31 v).gpr = s.gpr := rfl
@[simp] theorem State.setFcr31_hi (s : State) (v : Word) : (s.setFcr31 v).hi = s.hi := rfl
@[simp] theorem State.setFcr31_lo (s : State) (v : Word) : (s.setFcr31 v).lo = s.lo := rfl
@[simp] theorem State.setFcr31_pc (s : State) (v : Word) : (s.setFcr31 v).pc = s.pc := rfl
@[simp] theorem State.setFcr31_nextPc (s : State) (v : Word) : (s.setFcr31 v).nextPc = s.nextPc := rfl
@[simp] theorem State.setFcr31_inDelay (s : State) (v : Word) : (s.setFcr31 v).inDelay = s.inDelay := rfl
@[simp] theorem State.setFcr31_llBit (s : State) (v : Word) : (s.setFcr31 v).llBit = s.llBit := rfl
@[simp] theorem State.setFcr31_link (s : State) (v : Word) : (s.setFcr31 v).link = s.link := rfl
@[simp] theorem State.setFcr31_cp0 (s : State) (v : Word) : (s.setFcr31 v).cp0 = s.cp0 := rfl
@[simp] theorem State.setFcr31_tlb64 (s : State) (v : Word) : (s.setFcr31 v).tlb64 = s.tlb64 := rfl
@[simp] theorem State.setFcr31_tlb48 (s : State) (v : Word) : (s.setFcr31 v).tlb48 = s.tlb48 := rfl
@[simp] theorem State.setFcr31_mem (s : State) (v : Word) : (s.setFcr31 v).mem = s.mem := rfl
@[simp] theorem State.setFcr31_icache (s : State) (v : Word) : (s.setFcr31 v).icache = s.icache := rfl
@[simp] theorem State.setFcr31_dcache (s : State) (v : Word) : (s.setFcr31 v).dcache = s.dcache := rfl
@[simp] theorem State.setFcr31_timerIrq (s : State) (v : Word) : (s.setFcr31 v).timerIrq = s.timerIrq := rfl
@[simp] theorem State.setFcr31_watchI (s : State) (v : Word) : (s.setFcr31 v).watchI = s.watchI := rfl
@[simp] theorem State.setFcr31_watchD (s : State) (v : Word) : (s.setFcr31 v).watchD = s.watchD := rfl
@[simp] theorem State.setFcr31_halted (s : State) (v : Word) : (s.setFcr31 v).halted = s.halted := rfl
@[simp] theorem State.setFcr31_hiloUnread (s : State) (v : Word) : (s.setFcr31 v).hiloUnread = s.hiloUnread := rfl
@[simp] theorem State.setFcr31_haz (s : State) (v : Word) : (s.setFcr31 v).haz = s.haz := rfl
@[simp] theorem State.setFcr31_hazNext (s : State) (v : Word) : (s.setFcr31 v).hazNext = s.hazNext := rfl
@[simp] theorem State.setFcr31_inp (s : State) (v : Word) : (s.setFcr31 v).inp = s.inp := rfl
@[simp] theorem State.setFcr31_freeCtr (s : State) (v : Word) : (s.setFcr31 v).freeCtr = s.freeCtr := rfl

/-! ### State.setFcc -/

@[simp] theorem State.setFcc_par (s : State) (cc : BitVec 3) (b : Bool) : (s.setFcc cc b).par = s.par := rfl
@[simp] theorem State.setFcc_gpr (s : State) (cc : BitVec 3) (b : Bool) : (s.setFcc cc b).gpr = s.gpr := rfl
@[simp] theorem State.setFcc_hi (s : State) (cc : BitVec 3) (b : Bool) : (s.setFcc cc b).hi = s.hi := rfl
@[simp] theorem State.setFcc_lo (s : State) (cc : BitVec 3) (b : Bool) : (s.setFcc cc b).lo = s.lo := rfl
@[simp] theorem State.setFcc_pc (s : State) (cc : BitVec 3) (b : Bool) : (s.setFcc cc b).pc = s.pc := rfl
@[simp] theorem State.setFcc_nextPc (s : State) (cc : BitVec 3) (b : Bool) : (s.setFcc cc b).nextPc = s.nextPc := rfl
@[simp] theorem State.setFcc_inDelay (s : State) (cc : BitVec 3) (b : Bool) : (s.setFcc cc b).inDelay = s.inDelay := rfl
@[simp] theorem State.setFcc_llBit (s : State) (cc : BitVec 3) (b : Bool) : (s.setFcc cc b).llBit = s.llBit := rfl
@[simp] theorem State.setFcc_link (s : State) (cc : BitVec 3) (b : Bool) : (s.setFcc cc b).link = s.link := rfl
@[simp] theorem State.setFcc_cp0 (s : State) (cc : BitVec 3) (b : Bool) : (s.setFcc cc b).cp0 = s.cp0 := rfl
@[simp] theorem State.setFcc_tlb64 (s : State) (cc : BitVec 3) (b : Bool) : (s.setFcc cc b).tlb64 = s.tlb64 := rfl
@[simp] theorem State.setFcc_tlb48 (s : State) (cc : BitVec 3) (b : Bool) : (s.setFcc cc b).tlb48 = s.tlb48 := rfl
@[simp] theorem State.setFcc_mem (s : State) (cc : BitVec 3) (b : Bool) : (s.setFcc cc b).mem = s.mem := rfl
@[simp] theorem State.setFcc_icache (s : State) (cc : BitVec 3) (b : Bool) : (s.setFcc cc b).icache = s.icache := rfl
@[simp] theorem State.setFcc_dcache (s : State) (cc : BitVec 3) (b : Bool) : (s.setFcc cc b).dcache = s.dcache := rfl
@[simp] theorem State.setFcc_timerIrq (s : State) (cc : BitVec 3) (b : Bool) : (s.setFcc cc b).timerIrq = s.timerIrq := rfl
@[simp] theorem State.setFcc_watchI (s : State) (cc : BitVec 3) (b : Bool) : (s.setFcc cc b).watchI = s.watchI := rfl
@[simp] theorem State.setFcc_watchD (s : State) (cc : BitVec 3) (b : Bool) : (s.setFcc cc b).watchD = s.watchD := rfl
@[simp] theorem State.setFcc_halted (s : State) (cc : BitVec 3) (b : Bool) : (s.setFcc cc b).halted = s.halted := rfl
@[simp] theorem State.setFcc_hiloUnread (s : State) (cc : BitVec 3) (b : Bool) : (s.setFcc cc b).hiloUnread = s.hiloUnread := rfl
@[simp] theorem State.setFcc_haz (s : State) (cc : BitVec 3) (b : Bool) : (s.setFcc cc b).haz = s.haz := rfl
@[simp] theorem State.setFcc_hazNext (s : State) (cc : BitVec 3) (b : Bool) : (s.setFcc cc b).hazNext = s.hazNext := rfl
@[simp] theorem State.setFcc_inp (s : State) (cc : BitVec 3) (b : Bool) : (s.setFcc cc b).inp = s.inp := rfl
@[simp] theorem State.setFcc_freeCtr (s : State) (cc : BitVec 3) (b : Bool) : (s.setFcc cc b).freeCtr = s.freeCtr := rfl

/-! ### State.delayCond -/

@[simp] theorem State.delayCond_par (s : State) (n : Nat) : (s.delayCond n).par = s.par := by unfold State.delayCond; split <;> rfl
@[simp] theorem State.delayCond_gpr (s : State) (n : Nat) : (s.delayCond n).gpr = s.gpr := by unfold State.delayCond; split <;> rfl
@[simp] theorem State.delayCond_hi (s : State) (n : Nat) : (s.delayCond n).hi = s.hi := by unfold State.delayCond; split <;> rfl
@[simp] theorem State.delayCond_lo (s : State) (n : Nat) : (s.delayCond n).lo = s.lo := by unfold State.delayCond; split <;> rfl
@[simp] theorem State.delayCond_pc (s : State) (n : Nat) : (s.delayCond n).pc = s.pc := by unfold State.delayCond; split <;> rfl
@[simp] theorem State.delayCond_nextPc (s : State) (n : Nat) : (s.delayCond n).nextPc = s.nextPc := by unfold State.delayCond; split <;> rfl
@[simp] theorem State.delayCond_inDelay (s : State) (n : Nat) : (s.delayCond n).inDelay = s.inDelay := by unfold State.delayCond; split <;> rfl
@[simp] theorem State.delayCond_llBit (s : State) (n : Nat) : (s.delayCond n).llBit = s.llBit := by unfold State.delayCond; split <;> rfl
@[simp] theorem State.delayCond_link (s : State) (n : Nat) : (s.delayCond n).link = s.link := by unfold State.delayCond; split <;> rfl
@[simp] theorem State.delayCond_cp0 (s : State) (n : Nat) : (s.delayCond n).cp0 = s.cp0 := by unfold State.delayCond; split <;> rfl
@[simp] theorem State.delayCond_tlb64 (s : State) (n : Nat) : (s.delayCond n).tlb64 = s.tlb64 := by unfold State.delayCond; split <;> rfl
@[simp] theorem State.delayCond_tlb48 (s : State) (n : Nat) : (s.delayCond n).tlb48 = s.tlb48 := by unfold State.delayCond; split <;> rfl
@[simp] theorem State.delayCond_fpu (s : State) (n : Nat) : (s.delayCond n).fpu = s.fpu := by unfold State.delayCond; split <;> rfl
@[simp] theorem State.delayCond_mem (s : State) (n : Nat) : (s.delayCond n).mem = s.mem := by unfold State.delayCond; split <;> rfl
@[simp] theorem State.delayCond_icache (s : State) (n : Nat) : (s.delayCond n).icache = s.icache := by unfold State.delayCond; split <;> rfl
@[simp] theorem State.delayCond_dcache (s : State) (n : Nat) : (s.delayCond n).dcache = s.dcache := by unfold State.delayCond; split <;> rfl
@[simp] theorem State.delayCond_timerIrq (s : State) (n : Nat) : (s.delayCond n).timerIrq = s.timerIrq := by unfold State.delayCond; split <;> rfl
@[simp] theorem State.delayCond_watchI (s : State) (n : Nat) : (s.delayCond n).watchI = s.watchI := by unfold State.delayCond; split <;> rfl
@[simp] theorem State.delayCond_watchD (s : State) (n : Nat) : (s.delayCond n).watchD = s.watchD := by unfold State.delayCond; split <;> rfl
@[simp] theorem State.delayCond_halted (s : State) (n : Nat) : (s.delayCond n).halted = s.halted := by unfold State.delayCond; split <;> rfl
@[simp] theorem State.delayCond_hiloUnread (s : State) (n : Nat) : (s.delayCond n).hiloUnread = s.hiloUnread := by unfold State.delayCond; split <;> rfl
@[simp] theorem State.delayCond_haz (s : State) (n : Nat) : (s.delayCond n).haz = s.haz := by unfold State.delayCond; split <;> rfl
@[simp] theorem State.delayCond_inp (s : State) (n : Nat) : (s.delayCond n).inp = s.inp := by unfold State.delayCond; split <;> rfl
@[simp] theorem State.delayCond_freeCtr (s : State) (n : Nat) : (s.delayCond n).freeCtr = s.freeCtr := by unfold State.delayCond; split <;> rfl

/-! ### State.setFgr -/

@[simp] theorem State.setFgr_par (s : State) (r : RegNum) (v : DWord) : (s.setFgr r v).par = s.par := rfl
@[simp] theorem State.setFgr_gpr (s : State) (r : RegNum) (v : DWord) : (s.setFgr r v).gpr = s.gpr := rfl
@[simp] theorem State.setFgr_hi (s : State) (r : RegNum) (v : DWord) : (s.setFgr r v).hi = s.hi := rfl
@[simp] theorem State.setFgr_lo (s : State) (r : RegNum) (v : DWord) : (s.setFgr r v).lo = s.lo := rfl
@[simp] theorem State.setFgr_pc (s : State) (r : RegNum) (v : DWord) : (s.setFgr r v).pc = s.pc := rfl
@[simp] theorem State.setFgr_nextPc (s : State) (r : RegNum) (v : DWord) : (s.setFgr r v).nextPc = s.nextPc := rfl
@[simp] theorem State.setFgr_inDelay (s : State) (r : RegNum) (v : DWord) : (s.setFgr r v).inDelay = s.inDelay := rfl
@[simp] theorem State.setFgr_llBit (s : State) (r : RegNum) (v : DWord) : (s.setFgr r v).llBit = s.llBit := rfl
@[simp] theorem State.setFgr_link (s : State) (r : RegNum) (v : DWord) : (s.setFgr r v).link = s.link := rfl
@[simp] theorem State.setFgr_cp0 (s : State) (r : RegNum) (v : DWord) : (s.setFgr r v).cp0 = s.cp0 := rfl
@[simp] theorem State.setFgr_tlb64 (s : State) (r : RegNum) (v : DWord) : (s.setFgr r v).tlb64 = s.tlb64 := rfl
@[simp] theorem State.setFgr_tlb48 (s : State) (r : RegNum) (v : DWord) : (s.setFgr r v).tlb48 = s.tlb48 := rfl
@[simp] theorem State.setFgr_mem (s : State) (r : RegNum) (v : DWord) : (s.setFgr r v).mem = s.mem := rfl
@[simp] theorem State.setFgr_icache (s : State) (r : RegNum) (v : DWord) : (s.setFgr r v).icache = s.icache := rfl
@[simp] theorem State.setFgr_dcache (s : State) (r : RegNum) (v : DWord) : (s.setFgr r v).dcache = s.dcache := rfl
@[simp] theorem State.setFgr_timerIrq (s : State) (r : RegNum) (v : DWord) : (s.setFgr r v).timerIrq = s.timerIrq := rfl
@[simp] theorem State.setFgr_watchI (s : State) (r : RegNum) (v : DWord) : (s.setFgr r v).watchI = s.watchI := rfl
@[simp] theorem State.setFgr_watchD (s : State) (r : RegNum) (v : DWord) : (s.setFgr r v).watchD = s.watchD := rfl
@[simp] theorem State.setFgr_halted (s : State) (r : RegNum) (v : DWord) : (s.setFgr r v).halted = s.halted := rfl
@[simp] theorem State.setFgr_hiloUnread (s : State) (r : RegNum) (v : DWord) : (s.setFgr r v).hiloUnread = s.hiloUnread := rfl
@[simp] theorem State.setFgr_haz (s : State) (r : RegNum) (v : DWord) : (s.setFgr r v).haz = s.haz := rfl
@[simp] theorem State.setFgr_hazNext (s : State) (r : RegNum) (v : DWord) : (s.setFgr r v).hazNext = s.hazNext := rfl
@[simp] theorem State.setFgr_inp (s : State) (r : RegNum) (v : DWord) : (s.setFgr r v).inp = s.inp := rfl
@[simp] theorem State.setFgr_freeCtr (s : State) (r : RegNum) (v : DWord) : (s.setFgr r v).freeCtr = s.freeCtr := rfl

/-! ### State.setFgrLo -/

@[simp] theorem State.setFgrLo_par (s : State) (r : RegNum) (v : DWord) : (s.setFgrLo r v).par = s.par := rfl
@[simp] theorem State.setFgrLo_gpr (s : State) (r : RegNum) (v : DWord) : (s.setFgrLo r v).gpr = s.gpr := rfl
@[simp] theorem State.setFgrLo_hi (s : State) (r : RegNum) (v : DWord) : (s.setFgrLo r v).hi = s.hi := rfl
@[simp] theorem State.setFgrLo_lo (s : State) (r : RegNum) (v : DWord) : (s.setFgrLo r v).lo = s.lo := rfl
@[simp] theorem State.setFgrLo_pc (s : State) (r : RegNum) (v : DWord) : (s.setFgrLo r v).pc = s.pc := rfl
@[simp] theorem State.setFgrLo_nextPc (s : State) (r : RegNum) (v : DWord) : (s.setFgrLo r v).nextPc = s.nextPc := rfl
@[simp] theorem State.setFgrLo_inDelay (s : State) (r : RegNum) (v : DWord) : (s.setFgrLo r v).inDelay = s.inDelay := rfl
@[simp] theorem State.setFgrLo_llBit (s : State) (r : RegNum) (v : DWord) : (s.setFgrLo r v).llBit = s.llBit := rfl
@[simp] theorem State.setFgrLo_link (s : State) (r : RegNum) (v : DWord) : (s.setFgrLo r v).link = s.link := rfl
@[simp] theorem State.setFgrLo_cp0 (s : State) (r : RegNum) (v : DWord) : (s.setFgrLo r v).cp0 = s.cp0 := rfl
@[simp] theorem State.setFgrLo_tlb64 (s : State) (r : RegNum) (v : DWord) : (s.setFgrLo r v).tlb64 = s.tlb64 := rfl
@[simp] theorem State.setFgrLo_tlb48 (s : State) (r : RegNum) (v : DWord) : (s.setFgrLo r v).tlb48 = s.tlb48 := rfl
@[simp] theorem State.setFgrLo_mem (s : State) (r : RegNum) (v : DWord) : (s.setFgrLo r v).mem = s.mem := rfl
@[simp] theorem State.setFgrLo_icache (s : State) (r : RegNum) (v : DWord) : (s.setFgrLo r v).icache = s.icache := rfl
@[simp] theorem State.setFgrLo_dcache (s : State) (r : RegNum) (v : DWord) : (s.setFgrLo r v).dcache = s.dcache := rfl
@[simp] theorem State.setFgrLo_timerIrq (s : State) (r : RegNum) (v : DWord) : (s.setFgrLo r v).timerIrq = s.timerIrq := rfl
@[simp] theorem State.setFgrLo_watchI (s : State) (r : RegNum) (v : DWord) : (s.setFgrLo r v).watchI = s.watchI := rfl
@[simp] theorem State.setFgrLo_watchD (s : State) (r : RegNum) (v : DWord) : (s.setFgrLo r v).watchD = s.watchD := rfl
@[simp] theorem State.setFgrLo_halted (s : State) (r : RegNum) (v : DWord) : (s.setFgrLo r v).halted = s.halted := rfl
@[simp] theorem State.setFgrLo_hiloUnread (s : State) (r : RegNum) (v : DWord) : (s.setFgrLo r v).hiloUnread = s.hiloUnread := rfl
@[simp] theorem State.setFgrLo_haz (s : State) (r : RegNum) (v : DWord) : (s.setFgrLo r v).haz = s.haz := rfl
@[simp] theorem State.setFgrLo_hazNext (s : State) (r : RegNum) (v : DWord) : (s.setFgrLo r v).hazNext = s.hazNext := rfl
@[simp] theorem State.setFgrLo_inp (s : State) (r : RegNum) (v : DWord) : (s.setFgrLo r v).inp = s.inp := rfl
@[simp] theorem State.setFgrLo_freeCtr (s : State) (r : RegNum) (v : DWord) : (s.setFgrLo r v).freeCtr = s.freeCtr := rfl

/-! ### State.setTag -/

@[simp] theorem State.setTag_par (s : State) (r : RegNum) (t : FprTag) : (s.setTag r t).par = s.par := rfl
@[simp] theorem State.setTag_gpr (s : State) (r : RegNum) (t : FprTag) : (s.setTag r t).gpr = s.gpr := rfl
@[simp] theorem State.setTag_hi (s : State) (r : RegNum) (t : FprTag) : (s.setTag r t).hi = s.hi := rfl
@[simp] theorem State.setTag_lo (s : State) (r : RegNum) (t : FprTag) : (s.setTag r t).lo = s.lo := rfl
@[simp] theorem State.setTag_pc (s : State) (r : RegNum) (t : FprTag) : (s.setTag r t).pc = s.pc := rfl
@[simp] theorem State.setTag_nextPc (s : State) (r : RegNum) (t : FprTag) : (s.setTag r t).nextPc = s.nextPc := rfl
@[simp] theorem State.setTag_inDelay (s : State) (r : RegNum) (t : FprTag) : (s.setTag r t).inDelay = s.inDelay := rfl
@[simp] theorem State.setTag_llBit (s : State) (r : RegNum) (t : FprTag) : (s.setTag r t).llBit = s.llBit := rfl
@[simp] theorem State.setTag_link (s : State) (r : RegNum) (t : FprTag) : (s.setTag r t).link = s.link := rfl
@[simp] theorem State.setTag_cp0 (s : State) (r : RegNum) (t : FprTag) : (s.setTag r t).cp0 = s.cp0 := rfl
@[simp] theorem State.setTag_tlb64 (s : State) (r : RegNum) (t : FprTag) : (s.setTag r t).tlb64 = s.tlb64 := rfl
@[simp] theorem State.setTag_tlb48 (s : State) (r : RegNum) (t : FprTag) : (s.setTag r t).tlb48 = s.tlb48 := rfl
@[simp] theorem State.setTag_mem (s : State) (r : RegNum) (t : FprTag) : (s.setTag r t).mem = s.mem := rfl
@[simp] theorem State.setTag_icache (s : State) (r : RegNum) (t : FprTag) : (s.setTag r t).icache = s.icache := rfl
@[simp] theorem State.setTag_dcache (s : State) (r : RegNum) (t : FprTag) : (s.setTag r t).dcache = s.dcache := rfl
@[simp] theorem State.setTag_timerIrq (s : State) (r : RegNum) (t : FprTag) : (s.setTag r t).timerIrq = s.timerIrq := rfl
@[simp] theorem State.setTag_watchI (s : State) (r : RegNum) (t : FprTag) : (s.setTag r t).watchI = s.watchI := rfl
@[simp] theorem State.setTag_watchD (s : State) (r : RegNum) (t : FprTag) : (s.setTag r t).watchD = s.watchD := rfl
@[simp] theorem State.setTag_halted (s : State) (r : RegNum) (t : FprTag) : (s.setTag r t).halted = s.halted := rfl
@[simp] theorem State.setTag_hiloUnread (s : State) (r : RegNum) (t : FprTag) : (s.setTag r t).hiloUnread = s.hiloUnread := rfl
@[simp] theorem State.setTag_haz (s : State) (r : RegNum) (t : FprTag) : (s.setTag r t).haz = s.haz := rfl
@[simp] theorem State.setTag_hazNext (s : State) (r : RegNum) (t : FprTag) : (s.setTag r t).hazNext = s.hazNext := rfl
@[simp] theorem State.setTag_inp (s : State) (r : RegNum) (t : FprTag) : (s.setTag r t).inp = s.inp := rfl
@[simp] theorem State.setTag_freeCtr (s : State) (r : RegNum) (t : FprTag) : (s.setTag r t).freeCtr = s.freeCtr := rfl

/-! ### State.setRaw -/

@[simp] theorem State.setRaw_par (s : State) (r : RegNum) : (s.setRaw r).par = s.par := rfl
@[simp] theorem State.setRaw_gpr (s : State) (r : RegNum) : (s.setRaw r).gpr = s.gpr := rfl
@[simp] theorem State.setRaw_hi (s : State) (r : RegNum) : (s.setRaw r).hi = s.hi := rfl
@[simp] theorem State.setRaw_lo (s : State) (r : RegNum) : (s.setRaw r).lo = s.lo := rfl
@[simp] theorem State.setRaw_pc (s : State) (r : RegNum) : (s.setRaw r).pc = s.pc := rfl
@[simp] theorem State.setRaw_nextPc (s : State) (r : RegNum) : (s.setRaw r).nextPc = s.nextPc := rfl
@[simp] theorem State.setRaw_inDelay (s : State) (r : RegNum) : (s.setRaw r).inDelay = s.inDelay := rfl
@[simp] theorem State.setRaw_llBit (s : State) (r : RegNum) : (s.setRaw r).llBit = s.llBit := rfl
@[simp] theorem State.setRaw_link (s : State) (r : RegNum) : (s.setRaw r).link = s.link := rfl
@[simp] theorem State.setRaw_cp0 (s : State) (r : RegNum) : (s.setRaw r).cp0 = s.cp0 := rfl
@[simp] theorem State.setRaw_tlb64 (s : State) (r : RegNum) : (s.setRaw r).tlb64 = s.tlb64 := rfl
@[simp] theorem State.setRaw_tlb48 (s : State) (r : RegNum) : (s.setRaw r).tlb48 = s.tlb48 := rfl
@[simp] theorem State.setRaw_mem (s : State) (r : RegNum) : (s.setRaw r).mem = s.mem := rfl
@[simp] theorem State.setRaw_icache (s : State) (r : RegNum) : (s.setRaw r).icache = s.icache := rfl
@[simp] theorem State.setRaw_dcache (s : State) (r : RegNum) : (s.setRaw r).dcache = s.dcache := rfl
@[simp] theorem State.setRaw_timerIrq (s : State) (r : RegNum) : (s.setRaw r).timerIrq = s.timerIrq := rfl
@[simp] theorem State.setRaw_watchI (s : State) (r : RegNum) : (s.setRaw r).watchI = s.watchI := rfl
@[simp] theorem State.setRaw_watchD (s : State) (r : RegNum) : (s.setRaw r).watchD = s.watchD := rfl
@[simp] theorem State.setRaw_halted (s : State) (r : RegNum) : (s.setRaw r).halted = s.halted := rfl
@[simp] theorem State.setRaw_hiloUnread (s : State) (r : RegNum) : (s.setRaw r).hiloUnread = s.hiloUnread := rfl
@[simp] theorem State.setRaw_haz (s : State) (r : RegNum) : (s.setRaw r).haz = s.haz := rfl
@[simp] theorem State.setRaw_hazNext (s : State) (r : RegNum) : (s.setRaw r).hazNext = s.hazNext := rfl
@[simp] theorem State.setRaw_inp (s : State) (r : RegNum) : (s.setRaw r).inp = s.inp := rfl
@[simp] theorem State.setRaw_freeCtr (s : State) (r : RegNum) : (s.setRaw r).freeCtr = s.freeCtr := rfl

/-! ### State.setFormat -/

@[simp] theorem State.setFormat_par (s : State) (r : RegNum) (f : Fmt) : (s.setFormat r f).par = s.par := by unfold State.setFormat; dsimp only; split <;> rfl
@[simp] theorem State.setFormat_gpr (s : State) (r : RegNum) (f : Fmt) : (s.setFormat r f).gpr = s.gpr := by unfold State.setFormat; dsimp only; split <;> rfl
@[simp] theorem State.setFormat_hi (s : State) (r : RegNum) (f : Fmt) : (s.setFormat r f).hi = s.hi := by unfold State.setFormat; dsimp only; split <;> rfl
@[simp] theorem State.setFormat_lo (s : State) (r : RegNum) (f : Fmt) : (s.setFormat r f).lo = s.lo := by unfold State.setFormat; dsimp only; split <;> rfl
@[simp] theorem State.setFormat_pc (s : State) (r : RegNum) (f : Fmt) : (s.setFormat r f).pc = s.pc := by unfold State.setFormat; dsimp only; split <;> rfl
@[simp] theorem State.setFormat_nextPc (s : State) (r : RegNum) (f : Fmt) : (s.setFormat r f).nextPc = s.nextPc := by unfold State.setFormat; dsimp only; split <;> rfl
@[simp] theorem State.setFormat_inDelay (s : State) (r : RegNum) (f : Fmt) : (s.setFormat r f).inDelay = s.inDelay := by unfold State.setFormat; dsimp only; split <;> rfl
@[simp] theorem State.setFormat_llBit (s : State) (r : RegNum) (f : Fmt) : (s.setFormat r f).llBit = s.llBit := by unfold State.setFormat; dsimp only; split <;> rfl
@[simp] theorem State.setFormat_link (s : State) (r : RegNum) (f : Fmt) : (s.setFormat r f).link = s.link := by unfold State.setFormat; dsimp only; split <;> rfl
@[simp] theorem State.setFormat_cp0 (s : State) (r : RegNum) (f : Fmt) : (s.setFormat r f).cp0 = s.cp0 := by unfold State.setFormat; dsimp only; split <;> rfl
@[simp] theorem State.setFormat_tlb64 (s : State) (r : RegNum) (f : Fmt) : (s.setFormat r f).tlb64 = s.tlb64 := by unfold State.setFormat; dsimp only; split <;> rfl
@[simp] theorem State.setFormat_tlb48 (s : State) (r : RegNum) (f : Fmt) : (s.setFormat r f).tlb48 = s.tlb48 := by unfold State.setFormat; dsimp only; split <;> rfl
@[simp] theorem State.setFormat_mem (s : State) (r : RegNum) (f : Fmt) : (s.setFormat r f).mem = s.mem := by unfold State.setFormat; dsimp only; split <;> rfl
@[simp] theorem State.setFormat_icache (s : State) (r : RegNum) (f : Fmt) : (s.setFormat r f).icache = s.icache := by unfold State.setFormat; dsimp only; split <;> rfl
@[simp] theorem State.setFormat_dcache (s : State) (r : RegNum) (f : Fmt) : (s.setFormat r f).dcache = s.dcache := by unfold State.setFormat; dsimp only; split <;> rfl
@[simp] theorem State.setFormat_timerIrq (s : State) (r : RegNum) (f : Fmt) : (s.setFormat r f).timerIrq = s.timerIrq := by unfold State.setFormat; dsimp only; split <;> rfl
@[simp] theorem State.setFormat_watchI (s : State) (r : RegNum) (f : Fmt) : (s.setFormat r f).watchI = s.watchI := by unfold State.setFormat; dsimp only; split <;> rfl
@[simp] theorem State.setFormat_watchD (s : State) (r : RegNum) (f : Fmt) : (s.setFormat r f).watchD = s.watchD := by unfold State.setFormat; dsimp only; split <;> rfl
@[simp] theorem State.setFormat_halted (s : State) (r : RegNum) (f : Fmt) : (s.setFormat r f).halted = s.halted := by unfold State.setFormat; dsimp only; split <;> rfl
@[simp] theorem State.setFormat_hiloUnread (s : State) (r : RegNum) (f : Fmt) : (s.setFormat r f).hiloUnread = s.hiloUnread := by unfold State.setFormat; dsimp only; split <;> rfl
@[simp] theorem State.setFormat_haz (s : State) (r : RegNum) (f : Fmt) : (s.setFormat r f).haz = s.haz := by unfold State.setFormat; dsimp only; split <;> rfl
@[simp] theorem State.setFormat_hazNext (s : State) (r : RegNum) (f : Fmt) : (s.setFormat r f).hazNext = s.hazNext := by unfold State.setFormat; dsimp only; split <;> rfl
@[simp] theorem State.setFormat_inp (s : State) (r : RegNum) (f : Fmt) : (s.setFormat r f).inp = s.inp := by unfold State.setFormat; dsimp only; split <;> rfl
@[simp] theorem State.setFormat_freeCtr (s : State) (r : RegNum) (f : Fmt) : (s.setFormat r f).freeCtr = s.freeCtr := by unfold State.setFormat; dsimp only; split <;> rfl

/-! ### State.setFgrWord -/

@[simp] theorem State.setFgrWord_par (s : State) (r : RegNum) (v : DWord) : (s.setFgrWord r v).par = s.par := by unfold State.setFgrWord; dsimp only; split <;> simp
@[simp] theorem State.setFgrWord_gpr (s : State) (r : RegNum) (v : DWord) : (s.setFgrWord r v).gpr = s.gpr := by unfold State.setFgrWord; dsimp only; split <;> simp
@[simp] theorem State.setFgrWord_hi (s : State) (r : RegNum) (v : DWord) : (s.setFgrWord r v).hi = s.hi := by unfold State.setFgrWord; dsimp only; split <;> simp
@[simp] theorem State.setFgrWord_lo (s : State) (r : RegNum) (v : DWord) : (s.setFgrWord r v).lo = s.lo := by unfold State.setFgrWord; dsimp only; split <;> simp
@[simp] theorem State.setFgrWord_pc (s : State) (r : RegNum) (v : DWord) : (s.setFgrWord r v).pc = s.pc := by unfold State.setFgrWord; dsimp only; split <;> simp
@[simp] theorem State.setFgrWord_nextPc (s : State) (r : RegNum) (v : DWord) : (s.setFgrWord r v).nextPc = s.nextPc := by unfold State.setFgrWord; dsimp only; split <;> simp
@[simp] theorem State.setFgrWord_inDelay (s : State) (r : RegNum) (v : DWord) : (s.setFgrWord r v).inDelay = s.inDelay := by unfold State.setFgrWord; dsimp only; split <;> simp
@[simp] theorem State.setFgrWord_llBit (s : State) (r : RegNum) (v : DWord) : (s.setFgrWord r v).llBit = s.llBit := by unfold State.setFgrWord; dsimp only; split <;> simp
@[simp] theorem State.setFgrWord_link (s : State) (r : RegNum) (v : DWord) : (s.setFgrWord r v).link = s.link := by unfold State.setFgrWord; dsimp only; split <;> simp
@[simp] theorem State.setFgrWord_cp0 (s : State) (r : RegNum) (v : DWord) : (s.setFgrWord r v).cp0 = s.cp0 := by unfold State.setFgrWord; dsimp only; split <;> simp
@[simp] theorem State.setFgrWord_tlb64 (s : State) (r : RegNum) (v : DWord) : (s.setFgrWord r v).tlb64 = s.tlb64 := by unfold State.setFgrWord; dsimp only; split <;> simp
@[simp] theorem State.setFgrWord_tlb48 (s : State) (r : RegNum) (v : DWord) : (s.setFgrWord r v).tlb48 = s.tlb48 := by unfold State.setFgrWord; dsimp only; split <;> simp
@[simp] theorem State.setFgrWord_mem (s : State) (r : RegNum) (v : DWord) : (s.setFgrWord r v).mem = s.mem := by unfold State.setFgrWord; dsimp only; split <;> simp
@[simp] theorem State.setFgrWord_icache (s : State) (r : RegNum) (v : DWord) : (s.setFgrWord r v).icache = s.icache := by unfold State.setFgrWord; dsimp only; split <;> simp
@[simp] theorem State.setFgrWord_dcache (s : State) (r : RegNum) (v : DWord) : (s.setFgrWord r v).dcache = s.dcache := by unfold State.setFgrWord; dsimp only; split <;> simp
@[simp] theorem State.setFgrWord_timerIrq (s : State) (r : RegNum) (v : DWord) : (s.setFgrWord r v).timerIrq = s.timerIrq := by unfold State.setFgrWord; dsimp only; split <;> simp
@[simp] theorem State.setFgrWord_watchI (s : State) (r : RegNum) (v : DWord) : (s.setFgrWord r v).watchI = s.watchI := by unfold State.setFgrWord; dsimp only; split <;> simp
@[simp] theorem State.setFgrWord_watchD (s : State) (r : RegNum) (v : DWord) : (s.setFgrWord r v).watchD = s.watchD := by unfold State.setFgrWord; dsimp only; split <;> simp
@[simp] theorem State.setFgrWord_halted (s : State) (r : RegNum) (v : DWord) : (s.setFgrWord r v).halted = s.halted := by unfold State.setFgrWord; dsimp only; split <;> simp
@[simp] theorem State.setFgrWord_hiloUnread (s : State) (r : RegNum) (v : DWord) : (s.setFgrWord r v).hiloUnread = s.hiloUnread := by unfold State.setFgrWord; dsimp only; split <;> simp
@[simp] theorem State.setFgrWord_haz (s : State) (r : RegNum) (v : DWord) : (s.setFgrWord r v).haz = s.haz := by unfold State.setFgrWord; dsimp only; split <;> simp
@[simp] theorem State.setFgrWord_hazNext (s : State) (r : RegNum) (v : DWord) : (s.setFgrWord r v).hazNext = s.hazNext := by unfold State.setFgrWord; dsimp only; split <;> simp
@[simp] theorem State.setFgrWord_inp (s : State) (r : RegNum) (v : DWord) : (s.setFgrWord r v).inp = s.inp := by unfold State.setFgrWord; dsimp only; split <;> simp

/-! ### State.setFgrDouble -/

@[simp] theorem State.setFgrDouble_par (s : State) (r : RegNum) (v : DWord) : (s.setFgrDouble r v).par = s.par := by unfold State.setFgrDouble; dsimp only; split <;> simp
@[simp] theorem State.setFgrDouble_gpr (s : State) (r : RegNum) (v : DWord) : (s.setFgrDouble r v).gpr = s.gpr := by unfold State.setFgrDouble; dsimp only; split <;> simp
@[simp] theorem State.setFgrDouble_hi (s : State) (r : RegNum) (v : DWord) : (s.setFgrDouble r v).hi = s.hi := by unfold State.setFgrDouble; dsimp only; split <;> simp
@[simp] theorem State.setFgrDouble_lo (s : State) (r : RegNum) (v : DWord) : (s.setFgrDouble r v).lo = s.lo := by unfold State.setFgrDouble; dsimp only; split <;> simp
@[simp] theorem State.setFgrDouble_pc (s : State) (r : RegNum) (v : DWord) : (s.setFgrDouble r v).pc = s.pc := by unfold State.setFgrDouble; dsimp only; split <;> simp
@[simp] theorem State.setFgrDouble_nextPc (s : State) (r : RegNum) (v : DWord) : (s.setFgrDouble r v).nextPc = s.nextPc := by unfold State.setFgrDouble; dsimp only; split <;> simp
@[simp] theorem State.setFgrDouble_inDelay (s : State) (r : RegNum) (v : DWord) : (s.setFgrDouble r v).inDelay = s.inDelay := by unfold State.setFgrDouble; dsimp only; split <;> simp
@[simp] theorem State.setFgrDouble_llBit (s : State) (r : RegNum) (v : DWord) : (s.setFgrDouble r v).llBit = s.llBit := by unfold State.setFgrDouble; dsimp only; split <;> simp
@[simp] theorem State.setFgrDouble_link (s : State) (r : RegNum) (v : DWord) : (s.setFgrDouble r v).link = s.link := by unfold State.setFgrDouble; dsimp only; split <;> simp
@[simp] theorem State.setFgrDouble_cp0 (s : State) (r : RegNum) (v : DWord) : (s.setFgrDouble r v).cp0 = s.cp0 := by unfold State.setFgrDouble; dsimp only; split <;> simp
@[simp] theorem State.setFgrDouble_tlb64 (s : State) (r : RegNum) (v : DWord) : (s.setFgrDouble r v).tlb64 = s.tlb64 := by unfold State.setFgrDouble; dsimp only; split <;> simp
@[simp] theorem State.setFgrDouble_tlb48 (s : State) (r : RegNum) (v : DWord) : (s.setFgrDouble r v).tlb48 = s.tlb48 := by unfold State.setFgrDouble; dsimp only; split <;> simp
@[simp] theorem State.setFgrDouble_mem (s : State) (r : RegNum) (v : DWord) : (s.setFgrDouble r v).mem = s.mem := by unfold State.setFgrDouble; dsimp only; split <;> simp
@[simp] theorem State.setFgrDouble_icache (s : State) (r : RegNum) (v : DWord) : (s.setFgrDouble r v).icache = s.icache := by unfold State.setFgrDouble; dsimp only; split <;> simp
@[simp] theorem State.setFgrDouble_dcache (s : State) (r : RegNum) (v : DWord) : (s.setFgrDouble r v).dcache = s.dcache := by unfold State.setFgrDouble; dsimp only; split <;> simp
@[simp] theorem State.setFgrDouble_timerIrq (s : State) (r : RegNum) (v : DWord) : (s.setFgrDouble r v).timerIrq = s.timerIrq := by unfold State.setFgrDouble; dsimp only; split <;> simp
@[simp] theorem State.setFgrDouble_watchI (s : State) (r : RegNum) (v : DWord) : (s.setFgrDouble r v).watchI = s.watchI := by unfold State.setFgrDouble; dsimp only; split <;> simp
@[simp] theorem State.setFgrDouble_watchD (s : State) (r : RegNum) (v : DWord) : (s.setFgrDouble r v).watchD = s.watchD := by unfold State.setFgrDouble; dsimp only; split <;> simp
@[simp] theorem State.setFgrDouble_halted (s : State) (r : RegNum) (v : DWord) : (s.setFgrDouble r v).halted = s.halted := by unfold State.setFgrDouble; dsimp only; split <;> simp
@[simp] theorem State.setFgrDouble_hiloUnread (s : State) (r : RegNum) (v : DWord) : (s.setFgrDouble r v).hiloUnread = s.hiloUnread := by unfold State.setFgrDouble; dsimp only; split <;> simp
@[simp] theorem State.setFgrDouble_haz (s : State) (r : RegNum) (v : DWord) : (s.setFgrDouble r v).haz = s.haz := by unfold State.setFgrDouble; dsimp only; split <;> simp
@[simp] theorem State.setFgrDouble_hazNext (s : State) (r : RegNum) (v : DWord) : (s.setFgrDouble r v).hazNext = s.hazNext := by unfold State.setFgrDouble; dsimp only; split <;> simp
@[simp] theorem State.setFgrDouble_inp (s : State) (r : RegNum) (v : DWord) : (s.setFgrDouble r v).inp = s.inp := by unfold State.setFgrDouble; dsimp only; split <;> simp
@[simp] theorem State.setFgrDouble_freeCtr (s : State) (r : RegNum) (v : DWord) : (s.setFgrDouble r v).freeCtr = s.freeCtr := by unfold State.setFgrDouble; dsimp only; split <;> simp

/-! ### State.delayFgr -/

@[simp] theorem State.delayFgr_par (s : State) (l : Isa) (rs : List RegNum) : (s.delayFgr l rs).par = s.par := by unfold State.delayFgr; split <;> rfl
@[simp] theorem State.delayFgr_gpr (s : State) (l : Isa) (rs : List RegNum) : (s.delayFgr l rs).gpr = s.gpr := by unfold State.delayFgr; split <;> rfl
@[simp] theorem State.delayFgr_hi (s : State) (l : Isa) (rs : List RegNum) : (s.delayFgr l rs).hi = s.hi := by unfold State.delayFgr; split <;> rfl
@[simp] theorem State.delayFgr_lo (s : State) (l : Isa) (rs : List RegNum) : (s.delayFgr l rs).lo = s.lo := by unfold State.delayFgr; split <;> rfl
@[simp] theorem State.delayFgr_pc (s : State) (l : Isa) (rs : List RegNum) : (s.delayFgr l rs).pc = s.pc := by unfold State.delayFgr; split <;> rfl
@[simp] theorem State.delayFgr_nextPc (s : State) (l : Isa) (rs : List RegNum) : (s.delayFgr l rs).nextPc = s.nextPc := by unfold State.delayFgr; split <;> rfl
@[simp] theorem State.delayFgr_inDelay (s : State) (l : Isa) (rs : List RegNum) : (s.delayFgr l rs).inDelay = s.inDelay := by unfold State.delayFgr; split <;> rfl
@[simp] theorem State.delayFgr_llBit (s : State) (l : Isa) (rs : List RegNum) : (s.delayFgr l rs).llBit = s.llBit := by unfold State.delayFgr; split <;> rfl
@[simp] theorem State.delayFgr_link (s : State) (l : Isa) (rs : List RegNum) : (s.delayFgr l rs).link = s.link := by unfold State.delayFgr; split <;> rfl
@[simp] theorem State.delayFgr_cp0 (s : State) (l : Isa) (rs : List RegNum) : (s.delayFgr l rs).cp0 = s.cp0 := by unfold State.delayFgr; split <;> rfl
@[simp] theorem State.delayFgr_tlb64 (s : State) (l : Isa) (rs : List RegNum) : (s.delayFgr l rs).tlb64 = s.tlb64 := by unfold State.delayFgr; split <;> rfl
@[simp] theorem State.delayFgr_tlb48 (s : State) (l : Isa) (rs : List RegNum) : (s.delayFgr l rs).tlb48 = s.tlb48 := by unfold State.delayFgr; split <;> rfl
@[simp] theorem State.delayFgr_fpu (s : State) (l : Isa) (rs : List RegNum) : (s.delayFgr l rs).fpu = s.fpu := by unfold State.delayFgr; split <;> rfl
@[simp] theorem State.delayFgr_mem (s : State) (l : Isa) (rs : List RegNum) : (s.delayFgr l rs).mem = s.mem := by unfold State.delayFgr; split <;> rfl
@[simp] theorem State.delayFgr_icache (s : State) (l : Isa) (rs : List RegNum) : (s.delayFgr l rs).icache = s.icache := by unfold State.delayFgr; split <;> rfl
@[simp] theorem State.delayFgr_dcache (s : State) (l : Isa) (rs : List RegNum) : (s.delayFgr l rs).dcache = s.dcache := by unfold State.delayFgr; split <;> rfl
@[simp] theorem State.delayFgr_timerIrq (s : State) (l : Isa) (rs : List RegNum) : (s.delayFgr l rs).timerIrq = s.timerIrq := by unfold State.delayFgr; split <;> rfl
@[simp] theorem State.delayFgr_watchI (s : State) (l : Isa) (rs : List RegNum) : (s.delayFgr l rs).watchI = s.watchI := by unfold State.delayFgr; split <;> rfl
@[simp] theorem State.delayFgr_watchD (s : State) (l : Isa) (rs : List RegNum) : (s.delayFgr l rs).watchD = s.watchD := by unfold State.delayFgr; split <;> rfl
@[simp] theorem State.delayFgr_halted (s : State) (l : Isa) (rs : List RegNum) : (s.delayFgr l rs).halted = s.halted := by unfold State.delayFgr; split <;> rfl
@[simp] theorem State.delayFgr_hiloUnread (s : State) (l : Isa) (rs : List RegNum) : (s.delayFgr l rs).hiloUnread = s.hiloUnread := by unfold State.delayFgr; split <;> rfl
@[simp] theorem State.delayFgr_haz (s : State) (l : Isa) (rs : List RegNum) : (s.delayFgr l rs).haz = s.haz := by unfold State.delayFgr; split <;> rfl
@[simp] theorem State.delayFgr_inp (s : State) (l : Isa) (rs : List RegNum) : (s.delayFgr l rs).inp = s.inp := by unfold State.delayFgr; split <;> rfl
@[simp] theorem State.delayFgr_freeCtr (s : State) (l : Isa) (rs : List RegNum) : (s.delayFgr l rs).freeCtr = s.freeCtr := by unfold State.delayFgr; split <;> rfl

/-! ### State.setFpr -/

@[simp] theorem State.setFpr_par (s : State) (r : RegNum) (f : Fmt) (v : DWord) : (s.setFpr r f v).par = s.par := by unfold State.setFpr; dsimp only; (repeat' split) <;> simp
@[simp] theorem State.setFpr_gpr (s : State) (r : RegNum) (f : Fmt) (v : DWord) : (s.setFpr r f v).gpr = s.gpr := by unfold State.setFpr; dsimp only; (repeat' split) <;> simp
@[simp] theorem State.setFpr_hi (s : State) (r : RegNum) (f : Fmt) (v : DWord) : (s.setFpr r f v).hi = s.hi := by unfold State.setFpr; dsimp only; (repeat' split) <;> simp
@[simp] theorem State.setFpr_lo (s : State) (r : RegNum) (f : Fmt) (v : DWord) : (s.setFpr r f v).lo = s.lo := by unfold State.setFpr; dsimp only; (repeat' split) <;> simp
@[simp] theorem State.setFpr_pc (s : State) (r : RegNum) (f : Fmt) (v : DWord) : (s.setFpr r f v).pc = s.pc := by unfold State.setFpr; dsimp only; (repeat' split) <;> simp
@[simp] theorem State.setFpr_nextPc (s : State) (r : RegNum) (f : Fmt) (v : DWord) : (s.setFpr r f v).nextPc = s.nextPc := by unfold State.setFpr; dsimp only; (repeat' split) <;> simp
@[simp] theorem State.setFpr_inDelay (s : State) (r : RegNum) (f : Fmt) (v : DWord) : (s.setFpr r f v).inDelay = s.inDelay := by unfold State.setFpr; dsimp only; (repeat' split) <;> simp
@[simp] theorem State.setFpr_llBit (s : State) (r : RegNum) (f : Fmt) (v : DWord) : (s.setFpr r f v).llBit = s.llBit := by unfold State.setFpr; dsimp only; (repeat' split) <;> simp
@[simp] theorem State.setFpr_link (s : State) (r : RegNum) (f : Fmt) (v : DWord) : (s.setFpr r f v).link = s.link := by unfold State.setFpr; dsimp only; (repeat' split) <;> simp
@[simp] theorem State.setFpr_cp0 (s : State) (r : RegNum) (f : Fmt) (v : DWord) : (s.setFpr r f v).cp0 = s.cp0 := by unfold State.setFpr; dsimp only; (repeat' split) <;> simp
@[simp] theorem State.setFpr_tlb64 (s : State) (r : RegNum) (f : Fmt) (v : DWord) : (s.setFpr r f v).tlb64 = s.tlb64 := by unfold State.setFpr; dsimp only; (repeat' split) <;> simp
@[simp] theorem State.setFpr_tlb48 (s : State) (r : RegNum) (f : Fmt) (v : DWord) : (s.setFpr r f v).tlb48 = s.tlb48 := by unfold State.setFpr; dsimp only; (repeat' split) <;> simp
@[simp] theorem State.setFpr_mem (s : State) (r : RegNum) (f : Fmt) (v : DWord) : (s.setFpr r f v).mem = s.mem := by unfold State.setFpr; dsimp only; (repeat' split) <;> simp
@[simp] theorem State.setFpr_icache (s : State) (r : RegNum) (f : Fmt) (v : DWord) : (s.setFpr r f v).icache = s.icache := by unfold State.setFpr; dsimp only; (repeat' split) <;> simp
@[simp] theorem State.setFpr_dcache (s : State) (r : RegNum) (f : Fmt) (v : DWord) : (s.setFpr r f v).dcache = s.dcache := by unfold State.setFpr; dsimp only; (repeat' split) <;> simp
@[simp] theorem State.setFpr_timerIrq (s : State) (r : RegNum) (f : Fmt) (v : DWord) : (s.setFpr r f v).timerIrq = s.timerIrq := by unfold State.setFpr; dsimp only; (repeat' split) <;> simp
@[simp] theorem State.setFpr_watchI (s : State) (r : RegNum) (f : Fmt) (v : DWord) : (s.setFpr r f v).watchI = s.watchI := by unfold State.setFpr; dsimp only; (repeat' split) <;> simp
@[simp] theorem State.setFpr_watchD (s : State) (r : RegNum) (f : Fmt) (v : DWord) : (s.setFpr r f v).watchD = s.watchD := by unfold State.setFpr; dsimp only; (repeat' split) <;> simp
@[simp] theorem State.setFpr_halted (s : State) (r : RegNum) (f : Fmt) (v : DWord) : (s.setFpr r f v).halted = s.halted := by unfold State.setFpr; dsimp only; (repeat' split) <;> simp
@[simp] theorem State.setFpr_hiloUnread (s : State) (r : RegNum) (f : Fmt) (v : DWord) : (s.setFpr r f v).hiloUnread = s.hiloUnread := by unfold State.setFpr; dsimp only; (repeat' split) <;> simp
@[simp] theorem State.setFpr_haz (s : State) (r : RegNum) (f : Fmt) (v : DWord) : (s.setFpr r f v).haz = s.haz := by unfold State.setFpr; dsimp only; (repeat' split) <;> simp
@[simp] theorem State.setFpr_hazNext (s : State) (r : RegNum) (f : Fmt) (v : DWord) : (s.setFpr r f v).hazNext = s.hazNext := by unfold State.setFpr; dsimp only; (repeat' split) <;> simp
@[simp] theorem State.setFpr_inp (s : State) (r : RegNum) (f : Fmt) (v : DWord) : (s.setFpr r f v).inp = s.inp := by unfold State.setFpr; dsimp only; (repeat' split) <;> simp

/-! ### State.freeFpr -/

@[simp] theorem State.freeFpr_par (s : State) (r : RegNum) : (s.freeFpr r).par = s.par := by unfold State.freeFpr; dsimp only; split <;> simp
@[simp] theorem State.freeFpr_gpr (s : State) (r : RegNum) : (s.freeFpr r).gpr = s.gpr := by unfold State.freeFpr; dsimp only; split <;> simp
@[simp] theorem State.freeFpr_hi (s : State) (r : RegNum) : (s.freeFpr r).hi = s.hi := by unfold State.freeFpr; dsimp only; split <;> simp
@[simp] theorem State.freeFpr_lo (s : State) (r : RegNum) : (s.freeFpr r).lo = s.lo := by unfold State.freeFpr; dsimp only; split <;> simp
@[simp] theorem State.freeFpr_pc (s : State) (r : RegNum) : (s.freeFpr r).pc = s.pc := by unfold State.freeFpr; dsimp only; split <;> simp
@[simp] theorem State.freeFpr_nextPc (s : State) (r : RegNum) : (s.freeFpr r).nextPc = s.nextPc := by unfold State.freeFpr; dsimp only; split <;> simp
@[simp] theorem State.freeFpr_inDelay (s : State) (r : RegNum) : (s.freeFpr r).inDelay = s.inDelay := by unfold State.freeFpr; dsimp only; split <;> simp
@[simp] theorem State.freeFpr_llBit (s : State) (r : RegNum) : (s.freeFpr r).llBit = s.llBit := by unfold State.freeFpr; dsimp only; split <;> simp
@[simp] theorem State.freeFpr_link (s : State) (r : RegNum) : (s.freeFpr r).link = s.link := by unfold State.freeFpr; dsimp only; split <;> simp
@[simp] theorem State.freeFpr_cp0 (s : State) (r : RegNum) : (s.freeFpr r).cp0 = s.cp0 := by unfold State.freeFpr; dsimp only; split <;> simp
@[simp] theorem State.freeFpr_tlb64 (s : State) (r : RegNum) : (s.freeFpr r).tlb64 = s.tlb64 := by unfold State.freeFpr; dsimp only; split <;> simp
@[simp] theorem State.freeFpr_tlb48 (s : State) (r : RegNum) : (s.freeFpr r).tlb48 = s.tlb48 := by unfold State.freeFpr; dsimp only; split <;> simp
@[simp] theorem State.freeFpr_mem (s : State) (r : RegNum) : (s.freeFpr r).mem = s.mem := by unfold State.freeFpr; dsimp only; split <;> simp
@[simp] theorem State.freeFpr_icache (s : State) (r : RegNum) : (s.freeFpr r).icache = s.icache := by unfold State.freeFpr; dsimp only; split <;> simp
@[simp] theorem State.freeFpr_dcache (s : State) (r : RegNum) : (s.freeFpr r).dcache = s.dcache := by unfold State.freeFpr; dsimp only; split <;> simp
@[simp] theorem State.freeFpr_timerIrq (s : State) (r : RegNum) : (s.freeFpr r).timerIrq = s.timerIrq := by unfold State.freeFpr; dsimp only; split <;> simp
@[simp] theorem State.freeFpr_watchI (s : State) (r : RegNum) : (s.freeFpr r).watchI = s.watchI := by unfold State.freeFpr; dsimp only; split <;> simp
@[simp] theorem State.freeFpr_watchD (s : State) (r : RegNum) : (s.freeFpr r).watchD = s.watchD := by unfold State.freeFpr; dsimp only; split <;> simp
@[simp] theorem State.freeFpr_halted (s : State) (r : RegNum) : (s.freeFpr r).halted = s.halted := by unfold State.freeFpr; dsimp only; split <;> simp
@[simp] theorem State.freeFpr_hiloUnread (s : State) (r : RegNum) : (s.freeFpr r).hiloUnread = s.hiloUnread := by unfold State.freeFpr; dsimp only; split <;> simp
@[simp] theorem State.freeFpr_haz (s : State) (r : RegNum) : (s.freeFpr r).haz = s.haz := by unfold State.freeFpr; dsimp only; split <;> simp
@[simp] theorem State.freeFpr_hazNext (s : State) (r : RegNum) : (s.freeFpr r).hazNext = s.hazNext := by unfold State.freeFpr; dsimp only; split <;> simp
@[simp] theorem State.freeFpr_inp (s : State) (r : RegNum) : (s.freeFpr r).inp = s.inp := by unfold State.freeFpr; dsimp only; split <;> simp

/-! ### State.ctcFcr31 -/

@[simp] theorem State.ctcFcr31_par (s : State) (v : Word) : (s.ctcFcr31 v).par = s.par := by unfold State.ctcFcr31; dsimp only; split <;> simp
@[simp] theorem State.ctcFcr31_gpr (s : State) (v : Word) : (s.ctcFcr31 v).gpr = s.gpr := by unfold State.ctcFcr31; dsimp only; split <;> simp
@[simp] theorem State.ctcFcr31_hi (s : State) (v : Word) : (s.ctcFcr31 v).hi = s.hi := by unfold State.ctcFcr31; dsimp only; split <;> simp
@[simp] theorem State.ctcFcr31_lo (s : State) (v : Word) : (s.ctcFcr31 v).lo = s.lo := by unfold State.ctcFcr31; dsimp only; split <;> simp
@[simp] theorem State.ctcFcr31_pc (s : State) (v : Word) : (s.ctcFcr31 v).pc = s.pc := by unfold State.ctcFcr31; dsimp only; split <;> simp
@[simp] theorem State.ctcFcr31_nextPc (s : State) (v : Word) : (s.ctcFcr31 v).nextPc = s.nextPc := by unfold State.ctcFcr31; dsimp only; split <;> simp
@[simp] theorem State.ctcFcr31_inDelay (s : State) (v : Word) : (s.ctcFcr31 v).inDelay = s.inDelay := by unfold State.ctcFcr31; dsimp only; split <;> simp
@[simp] theorem State.ctcFcr31_llBit (s : State) (v : Word) : (s.ctcFcr31 v).llBit = s.llBit := by unfold State.ctcFcr31; dsimp only; split <;> simp
@[simp] theorem State.ctcFcr31_link (s : State) (v : Word) : (s.ctcFcr31 v).link = s.link := by unfold State.ctcFcr31; dsimp only; split <;> simp
@[simp] theorem State.ctcFcr31_cp0 (s : State) (v : Word) : (s.ctcFcr31 v).cp0 = s.cp0 := by unfold State.ctcFcr31; dsimp only; split <;> simp
@[simp] theorem State.ctcFcr31_tlb64 (s : State) (v : Word) : (s.ctcFcr31 v).tlb64 = s.tlb64 := by unfold State.ctcFcr31; dsimp only; split <;> simp
@[simp] theorem State.ctcFcr31_tlb48 (s : State) (v : Word) : (s.ctcFcr31 v).tlb48 = s.tlb48 := by unfold State.ctcFcr31; dsimp only; split <;> simp
@[simp] theorem State.ctcFcr31_mem (s : State) (v : Word) : (s.ctcFcr31 v).mem = s.mem := by unfold State.ctcFcr31; dsimp only; split <;> simp
@[simp] theorem State.ctcFcr31_icache (s : State) (v : Word) : (s.ctcFcr31 v).icache = s.icache := by unfold State.ctcFcr31; dsimp only; split <;> simp
@[simp] theorem State.ctcFcr31_dcache (s : State) (v : Word) : (s.ctcFcr31 v).dcache = s.dcache := by unfold State.ctcFcr31; dsimp only; split <;> simp
@[simp] theorem State.ctcFcr31_timerIrq (s : State) (v : Word) : (s.ctcFcr31 v).timerIrq = s.timerIrq := by unfold State.ctcFcr31; dsimp only; split <;> simp
@[simp] theorem State.ctcFcr31_watchI (s : State) (v : Word) : (s.ctcFcr31 v).watchI = s.watchI := by unfold State.ctcFcr31; dsimp only; split <;> simp
@[simp] theorem State.ctcFcr31_watchD (s : State) (v : Word) : (s.ctcFcr31 v).watchD = s.watchD := by unfold State.ctcFcr31; dsimp only; split <;> simp
@[simp] theorem State.ctcFcr31_halted (s : State) (v : Word) : (s.ctcFcr31 v).halted = s.halted := by unfold State.ctcFcr31; dsimp only; split <;> simp
@[simp] theorem State.ctcFcr31_hiloUnread (s : State) (v : Word) : (s.ctcFcr31 v).hiloUnread = s.hiloUnread := by unfold State.ctcFcr31; dsimp only; split <;> simp
@[simp] theorem State.ctcFcr31_haz (s : State) (v : Word) : (s.ctcFcr31 v).haz = s.haz := by unfold State.ctcFcr31; dsimp only; split <;> simp
@[simp] theorem State.ctcFcr31_inp (s : State) (v : Word) : (s.ctcFcr31 v).inp = s.inp := by unfold State.ctcFcr31; dsimp only; split <;> simp
@[simp] theorem State.ctcFcr31_freeCtr (s : State) (v : Word) : (s.ctcFcr31 v).freeCtr = s.freeCtr := by unfold State.ctcFcr31; dsimp only; split <;> simp

/-! ### State.setMem -/

@[simp] theorem State.setMem_par (s : State) (a n : Nat) (v : DWord) : (s.setMem a n v).par = s.par := rfl
@[simp] theorem State.setMem_gpr (s : State) (a n : Nat) (v : DWord) : (s.setMem a n v).gpr = s.gpr := rfl
@[simp] theorem State.setMem_hi (s : State) (a n : Nat) (v : DWord) : (s.setMem a n v).hi = s.hi := rfl
@[simp] theorem State.setMem_lo (s : State) (a n : Nat) (v : DWord) : (s.setMem a n v).lo = s.lo := rfl
@[simp] theorem State.setMem_pc (s : State) (a n : Nat) (v : DWord) : (s.setMem a n v).pc = s.pc := rfl
@[simp] theorem State.setMem_nextPc (s : State) (a n : Nat) (v : DWord) : (s.setMem a n v).nextPc = s.nextPc := rfl
@[simp] theorem State.setMem_inDelay (s : State) (a n : Nat) (v : DWord) : (s.setMem a n v).inDelay = s.inDelay := rfl
@[simp] theorem State.setMem_llBit (s : State) (a n : Nat) (v : DWord) : (s.setMem a n v).llBit = s.llBit := rfl
@[simp] theorem State.setMem_link (s : State) (a n : Nat) (v : DWord) : (s.setMem a n v).link = s.link := rfl
@[simp] theorem State.setMem_cp0 (s : State) (a n : Nat) (v : DWord) : (s.setMem a n v).cp0 = s.cp0 := rfl
@[simp] theorem State.setMem_tlb64 (s : State) (a n : Nat) (v : DWord) : (s.setMem a n v).tlb64 = s.tlb64 := rfl
@[simp] theorem State.setMem_tlb48 (s : State) (a n : Nat) (v : DWord) : (s.setMem a n v).tlb48 = s.tlb48 := rfl
@[simp] theorem State.setMem_fpu (s : State) (a n : Nat) (v : DWord) : (s.setMem a n v).fpu = s.fpu := rfl
@[simp] theorem State.setMem_icache (s : State) (a n : Nat) (v : DWord) : (s.setMem a n v).icache = s.icache := rfl
@[simp] theorem State.setMem_dcache (s : State) (a n : Nat) (v : DWord) : (s.setMem a n v).dcache = s.dcache := rfl
@[simp] theorem State.setMem_timerIrq (s : State) (a n : Nat) (v : DWord) : (s.setMem a n v).timerIrq = s.timerIrq := rfl
@[simp] theorem State.setMem_watchI (s : State) (a n : Nat) (v : DWord) : (s.setMem a n v).watchI = s.watchI := rfl
@[simp] theorem State.setMem_watchD (s : State) (a n : Nat) (v : DWord) : (s.setMem a n v).watchD = s.watchD := rfl
@[simp] theorem State.setMem_halted (s : State) (a n : Nat) (v : DWord) : (s.setMem a n v).halted = s.halted := rfl
@[simp] theorem State.setMem_hiloUnread (s : State) (a n : Nat) (v : DWord) : (s.setMem a n v).hiloUnread = s.hiloUnread := rfl
@[simp] theorem State.setMem_haz (s : State) (a n : Nat) (v : DWord) : (s.setMem a n v).haz = s.haz := rfl
@[simp] theorem State.setMem_hazNext (s : State) (a n : Nat) (v : DWord) : (s.setMem a n v).hazNext = s.hazNext := rfl
@[simp] theorem State.setMem_inp (s : State) (a n : Nat) (v : DWord) : (s.setMem a n v).inp = s.inp := rfl
@[simp] theorem State.setMem_freeCtr (s : State) (a n : Nat) (v : DWord) : (s.setMem a n v).freeCtr = s.freeCtr := rfl

/-! ### State.setLink -/

@[simp] theorem State.setLink_par (s : State) (l : Link) : (s.setLink l).par = s.par := rfl
@[simp] theorem State.setLink_gpr (s : State) (l : Link) : (s.setLink l).gpr = s.gpr := rfl
@[simp] theorem State.setLink_hi (s : State) (l : Link) : (s.setLink l).hi = s.hi := rfl
@[simp] theorem State.setLink_lo (s : State) (l : Link) : (s.setLink l).lo = s.lo := rfl
@[simp] theorem State.setLink_pc (s : State) (l : Link) : (s.setLink l).pc = s.pc := rfl
@[simp] theorem State.setLink_nextPc (s : State) (l : Link) : (s.setLink l).nextPc = s.nextPc := rfl
@[simp] theorem State.setLink_inDelay (s : State) (l : Link) : (s.setLink l).inDelay = s.inDelay := rfl
@[simp] theorem State.setLink_tlb64 (s : State) (l : Link) : (s.setLink l).tlb64 = s.tlb64 := rfl
@[simp] theorem State.setLink_tlb48 (s : State) (l : Link) : (s.setLink l).tlb48 = s.tlb48 := rfl
@[simp] theorem State.setLink_fpu (s : State) (l : Link) : (s.setLink l).fpu = s.fpu := rfl
@[simp] theorem State.setLink_mem (s : State) (l : Link) : (s.setLink l).mem = s.mem := rfl
@[simp] theorem State.setLink_icache (s : State) (l : Link) : (s.setLink l).icache = s.icache := rfl
@[simp] theorem State.setLink_dcache (s : State) (l : Link) : (s.setLink l).dcache = s.dcache := rfl
@[simp] theorem State.setLink_timerIrq (s : State) (l : Link) : (s.setLink l).timerIrq = s.timerIrq := rfl
@[simp] theorem State.setLink_watchI (s : State) (l : Link) : (s.setLink l).watchI = s.watchI := rfl
@[simp] theorem State.setLink_watchD (s : State) (l : Link) : (s.setLink l).watchD = s.watchD := rfl
@[simp] theorem State.setLink_halted (s : State) (l : Link) : (s.setLink l).halted = s.halted := rfl
@[simp] theorem State.setLink_hiloUnread (s : State) (l : Link) : (s.setLink l).hiloUnread = s.hiloUnread := rfl
@[simp] theorem State.setLink_haz (s : State) (l : Link) : (s.setLink l).haz = s.haz := rfl
@[simp] theorem State.setLink_hazNext (s : State) (l : Link) : (s.setLink l).hazNext = s.hazNext := rfl
@[simp] theorem State.setLink_inp (s : State) (l : Link) : (s.setLink l).inp = s.inp := rfl
@[simp] theorem State.setLink_freeCtr (s : State) (l : Link) : (s.setLink l).freeCtr = s.freeCtr := rfl

/-! ### State.noteHiloRead -/

@[simp] theorem State.noteHiloRead_par (s : State) (b : Bool) (r : RegNum) : (s.noteHiloRead b r).par = s.par := rfl
@[simp] theorem State.noteHiloRead_gpr (s : State) (b : Bool) (r : RegNum) : (s.noteHiloRead b r).gpr = s.gpr := rfl
@[simp] theorem State.noteHiloRead_hi (s : State) (b : Bool) (r : RegNum) : (s.noteHiloRead b r).hi = s.hi := rfl
@[simp] theorem State.noteHiloRead_lo (s : State) (b : Bool) (r : RegNum) : (s.noteHiloRead b r).lo = s.lo := rfl
@[simp] theorem State.noteHiloRead_pc (s : State) (b : Bool) (r : RegNum) : (s.noteHiloRead b r).pc = s.pc := rfl
@[simp] theorem State.noteHiloRead_nextPc (s : State) (b : Bool) (r : RegNum) : (s.noteHiloRead b r).nextPc = s.nextPc := rfl
@[simp] theorem State.noteHiloRead_inDelay (s : State) (b : Bool) (r : RegNum) : (s.noteHiloRead b r).inDelay = s.inDelay := rfl
@[simp] theorem State.noteHiloRead_llBit (s : State) (b : Bool) (r : RegNum) : (s.noteHiloRead b r).llBit = s.llBit := rfl
@[simp] theorem State.noteHiloRead_link (s : State) (b : Bool) (r : RegNum) : (s.noteHiloRead b r).link = s.link := rfl
@[simp] theorem State.noteHiloRead_cp0 (s : State) (b : Bool) (r : RegNum) : (s.noteHiloRead b r).cp0 = s.cp0 := rfl
@[simp] theorem State.noteHiloRead_tlb64 (s : State) (b : Bool) (r : RegNum) : (s.noteHiloRead b r).tlb64 = s.tlb64 := rfl
@[simp] theorem State.noteHiloRead_tlb48 (s : State) (b : Bool) (r : RegNum) : (s.noteHiloRead b r).tlb48 = s.tlb48 := rfl
@[simp] theorem State.noteHiloRead_fpu (s : State) (b : Bool) (r : RegNum) : (s.noteHiloRead b r).fpu = s.fpu := rfl
@[simp] theorem State.noteHiloRead_mem (s : State) (b : Bool) (r : RegNum) : (s.noteHiloRead b r).mem = s.mem := rfl
@[simp] theorem State.noteHiloRead_icache (s : State) (b : Bool) (r : RegNum) : (s.noteHiloRead b r).icache = s.icache := rfl
@[simp] theorem State.noteHiloRead_dcache (s : State) (b : Bool) (r : RegNum) : (s.noteHiloRead b r).dcache = s.dcache := rfl
@[simp] theorem State.noteHiloRead_timerIrq (s : State) (b : Bool) (r : RegNum) : (s.noteHiloRead b r).timerIrq = s.timerIrq := rfl
@[simp] theorem State.noteHiloRead_watchI (s : State) (b : Bool) (r : RegNum) : (s.noteHiloRead b r).watchI = s.watchI := rfl
@[simp] theorem State.noteHiloRead_watchD (s : State) (b : Bool) (r : RegNum) : (s.noteHiloRead b r).watchD = s.watchD := rfl
@[simp] theorem State.noteHiloRead_halted (s : State) (b : Bool) (r : RegNum) : (s.noteHiloRead b r).halted = s.halted := rfl
@[simp] theorem State.noteHiloRead_haz (s : State) (b : Bool) (r : RegNum) : (s.noteHiloRead b r).haz = s.haz := rfl
@[simp] theorem State.noteHiloRead_inp (s : State) (b : Bool) (r : RegNum) : (s.noteHiloRead b r).inp = s.inp := rfl
@[simp] theorem State.noteHiloRead_freeCtr (s : State) (b : Bool) (r : RegNum) : (s.noteHiloRead b r).freeCtr = s.freeCtr := rfl

/-! ### State.returnHilo -/

@[simp] theorem State.returnHilo_par (s : State) : s.returnHilo.par = s.par := by unfold State.returnHilo; split <;> rfl
@[simp] theorem State.returnHilo_gpr (s : State) : s.returnHilo.gpr = s.gpr := by unfold State.returnHilo; split <;> rfl
@[simp] theorem State.returnHilo_pc (s : State) : s.returnHilo.pc = s.pc := by unfold State.returnHilo; split <;> rfl
@[simp] theorem State.returnHilo_nextPc (s : State) : s.returnHilo.nextPc = s.nextPc := by unfold State.returnHilo; split <;> rfl
@[simp] theorem State.returnHilo_inDelay (s : State) : s.returnHilo.inDelay = s.inDelay := by unfold State.returnHilo; split <;> rfl
@[simp] theorem State.returnHilo_llBit (s : State) : s.returnHilo.llBit = s.llBit := by unfold State.returnHilo; split <;> rfl
@[simp] theorem State.returnHilo_link (s : State) : s.returnHilo.link = s.link := by unfold State.returnHilo; split <;> rfl
@[simp] theorem State.returnHilo_cp0 (s : State) : s.returnHilo.cp0 = s.cp0 := by unfold State.returnHilo; split <;> rfl
@[simp] theorem State.returnHilo_tlb64 (s : State) : s.returnHilo.tlb64 = s.tlb64 := by unfold State.returnHilo; split <;> rfl
@[simp] theorem State.returnHilo_tlb48 (s : State) : s.returnHilo.tlb48 = s.tlb48 := by unfold State.returnHilo; split <;> rfl
@[simp] theorem State.returnHilo_fpu (s : State) : s.returnHilo.fpu = s.fpu := by unfold State.returnHilo; split <;> rfl
@[simp] theorem State.returnHilo_mem (s : State) : s.returnHilo.mem = s.mem := by unfold State.returnHilo; split <;> rfl
@[simp] theorem State.returnHilo_icache (s : State) : s.returnHilo.icache = s.icache := by unfold State.returnHilo; split <;> rfl
@[simp] theorem State.returnHilo_dcache (s : State) : s.returnHilo.dcache = s.dcache := by unfold State.returnHilo; split <;> rfl
@[simp] theorem State.returnHilo_timerIrq (s : State) : s.returnHilo.timerIrq = s.timerIrq := by unfold State.returnHilo; split <;> rfl
@[simp] theorem State.returnHilo_watchI (s : State) : s.returnHilo.watchI = s.watchI := by unfold State.returnHilo; split <;> rfl
@[simp] theorem State.returnHilo_watchD (s : State) : s.returnHilo.watchD = s.watchD := by unfold State.returnHilo; split <;> rfl
@[simp] theorem State.returnHilo_halted (s : State) : s.returnHilo.halted = s.halted := by unfold State.returnHilo; split <;> rfl
@[simp] theorem State.returnHilo_hiloUnread (s : State) : s.returnHilo.hiloUnread = s.hiloUnread := by unfold State.returnHilo; split <;> rfl
@[simp] theorem State.returnHilo_hazNext (s : State) : s.returnHilo.hazNext = s.hazNext := by unfold State.returnHilo; split <;> rfl
@[simp] theorem State.returnHilo_inp (s : State) : s.returnHilo.inp = s.inp := by unfold State.returnHilo; split <;> rfl

/-! ### State.popMode -/

@[simp] theorem State.popMode_par (s : State) : s.popMode.par = s.par := by simp [State.popMode]
@[simp] theorem State.popMode_gpr (s : State) : s.popMode.gpr = s.gpr := by simp [State.popMode]
@[simp] theorem State.popMode_pc (s : State) : s.popMode.pc = s.pc := by simp [State.popMode]
@[simp] theorem State.popMode_nextPc (s : State) : s.popMode.nextPc = s.nextPc := by simp [State.popMode]
@[simp] theorem State.popMode_inDelay (s : State) : s.popMode.inDelay = s.inDelay := by simp [State.popMode]
@[simp] theorem State.popMode_llBit (s : State) : s.popMode.llBit = s.llBit := by simp [State.popMode]
@[simp] theorem State.popMode_link (s : State) : s.popMode.link = s.link := by simp [State.popMode]
@[simp] theorem State.popMode_tlb64 (s : State) : s.popMode.tlb64 = s.tlb64 := by simp [State.popMode]
@[simp] theorem State.popMode_tlb48 (s : State) : s.popMode.tlb48 = s.tlb48 := by simp [State.popMode]
@[simp] theorem State.popMode_fpu (s : State) : s.popMode.fpu = s.fpu := by simp [State.popMode]
@[simp] theorem State.popMode_mem (s : State) : s.popMode.mem = s.mem := by simp [State.popMode]
@[simp] theorem State.popMode_icache (s : State) : s.popMode.icache = s.icache := by simp [State.popMode]
@[simp] theorem State.popMode_dcache (s : State) : s.popMode.dcache = s.dcache := by simp [State.popMode]
@[simp] theorem State.popMode_timerIrq (s : State) : s.popMode.timerIrq = s.timerIrq := by simp [State.popMode]
@[simp] theorem State.popMode_watchI (s : State) : s.popMode.watchI = s.watchI := by simp [State.popMode]
@[simp] theorem State.popMode_watchD (s : State) : s.popMode.watchD = s.watchD := by simp [State.popMode]
@[simp] theorem State.popMode_halted (s : State) : s.popMode.halted = s.halted := by simp [State.popMode]
@[simp] theorem State.popMode_hiloUnread (s : State) : s.popMode.hiloUnread = s.hiloUnread := by simp [State.popMode]
@[simp] theorem State.popMode_hazNext (s : State) : s.popMode.hazNext = s.hazNext := by simp [State.popMode]
@[simp] theorem State.popMode_inp (s : State) : s.popMode.inp = s.inp := by simp [State.popMode]

/-! ### State.dropCacheError -/

@[simp] theorem State.dropCacheError_par (s : State) : s.dropCacheError.par = s.par := rfl
@[simp] theorem State.dropCacheError_gpr (s : State) : s.dropCacheError.gpr = s.gpr := rfl
@[simp] theorem State.dropCacheError_hi (s : State) : s.dropCacheError.hi = s.hi := rfl
@[simp] theorem State.dropCacheError_lo (s : State) : s.dropCacheError.lo = s.lo := rfl
@[simp] theorem State.dropCacheError_pc (s : State) : s.dropCacheError.pc = s.pc := rfl
@[simp] theorem State.dropCacheError_nextPc (s : State) : s.dropCacheError.nextPc = s.nextPc := rfl
@[simp] theorem State.dropCacheError_inDelay (s : State) : s.dropCacheError.inDelay = s.inDelay := rfl
@[simp] theorem State.dropCacheError_llBit (s : State) : s.dropCacheError.llBit = s.llBit := rfl
@[simp] theorem State.dropCacheError_link (s : State) : s.dropCacheError.link = s.link := rfl
@[simp] theorem State.dropCacheError_cp0 (s : State) : s.dropCacheError.cp0 = s.cp0 := rfl
@[simp] theorem State.dropCacheError_tlb64 (s : State) : s.dropCacheError.tlb64 = s.tlb64 := rfl
@[simp] theorem State.dropCacheError_tlb48 (s : State) : s.dropCacheError.tlb48 = s.tlb48 := rfl
@[simp] theorem State.dropCacheError_fpu (s : State) : s.dropCacheError.fpu = s.fpu := rfl
@[simp] theorem State.dropCacheError_mem (s : State) : s.dropCacheError.mem = s.mem := rfl
@[simp] theorem State.dropCacheError_icache (s : State) : s.dropCacheError.icache = s.icache := rfl
@[simp] theorem State.dropCacheError_dcache (s : State) : s.dropCacheError.dcache = s.dcache := rfl
@[simp] theorem State.dropCacheError_timerIrq (s : State) : s.dropCacheError.timerIrq = s.timerIrq := rfl
@[simp] theorem State.dropCacheError_watchI (s : State) : s.dropCacheError.watchI = s.watchI := rfl
@[simp] theorem State.dropCacheError_watchD (s : State) : s.dropCacheError.watchD = s.watchD := rfl
@[simp] theorem State.dropCacheError_halted (s : State) : s.dropCacheError.halted = s.halted := rfl
@[simp] theorem State.dropCacheError_hiloUnread (s : State) : s.dropCacheError.hiloUnread = s.hiloUnread := rfl
@[simp] theorem State.dropCacheError_haz (s : State) : s.dropCacheError.haz = s.haz := rfl
@[simp] theorem State.dropCacheError_hazNext (s : State) : s.dropCacheError.hazNext = s.hazNext := rfl
@[simp] theorem State.dropCacheError_freeCtr (s : State) : s.dropCacheError.freeCtr = s.freeCtr := rfl

/-! ### State.noteCp0Write -/

@[simp] theorem State.noteCp0Write_par (s : State) (n : Cp0Name) (v : DWord) : (s.noteCp0Write n v).par = s.par := rfl
@[simp] theorem State.noteCp0Write_gpr (s : State) (n : Cp0Name) (v : DWord) : (s.noteCp0Write n v).gpr = s.gpr := rfl
@[simp] theorem State.noteCp0Write_hi (s : State) (n : Cp0Name) (v : DWord) : (s.noteCp0Write n v).hi = s.hi := rfl
@[simp] theorem State.noteCp0Write_lo (s : State) (n : Cp0Name) (v : DWord) : (s.noteCp0Write n v).lo = s.lo := rfl
@[simp] theorem State.noteCp0Write_pc (s : State) (n : Cp0Name) (v : DWord) : (s.noteCp0Write n v).pc = s.pc := rfl
@[simp] theorem State.noteCp0Write_nextPc (s : State) (n : Cp0Name) (v : DWord) : (s.noteCp0Write n v).nextPc = s.nextPc := rfl
@[simp] theorem State.noteCp0Write_inDelay (s : State) (n : Cp0Name) (v : DWord) : (s.noteCp0Write n v).inDelay = s.inDelay := rfl
@[simp] theorem State.noteCp0Write_llBit (s : State) (n : Cp0Name) (v : DWord) : (s.noteCp0Write n v).llBit = s.llBit := rfl
@[simp] theorem State.noteCp0Write_link (s : State) (n : Cp0Name) (v : DWord) : (s.noteCp0Write n v).link = s.link := rfl
@[simp] theorem State.noteCp0Write_cp0 (s : State) (n : Cp0Name) (v : DWord) : (s.noteCp0Write n v).cp0 = s.cp0 := rfl
@[simp] theorem State.noteCp0Write_tlb64 (s : State) (n : Cp0Name) (v : DWord) : (s.noteCp0Write n v).tlb64 = s.tlb64 := rfl
@[simp] theorem State.noteCp0Write_tlb48 (s : State) (n : Cp0Name) (v : DWord) : (s.noteCp0Write n v).tlb48 = s.tlb48 := rfl
@[simp] theorem State.noteCp0Write_fpu (s : State) (n : Cp0Name) (v : DWord) : (s.noteCp0Write n v).fpu = s.fpu := rfl
@[simp] theorem State.noteCp0Write_mem (s : State) (n : Cp0Name) (v : DWord) : (s.noteCp0Write n v).mem = s.mem := rfl
@[simp] theorem State.noteCp0Write_icache (s : State) (n : Cp0Name) (v : DWord) : (s.noteCp0Write n v).icache = s.icache := rfl
@[simp] theorem State.noteCp0Write_dcache (s : State) (n : Cp0Name) (v : DWord) : (s.noteCp0Write n v).dcache = s.dcache := rfl
@[simp] theorem State.noteCp0Write_timerIrq (s : State) (n : Cp0Name) (v : DWord) : (s.noteCp0Write n v).timerIrq = s.timerIrq := rfl
@[simp] theorem State.noteCp0Write_watchI (s : State) (n : Cp0Name) (v : DWord) : (s.noteCp0Write n v).watchI = s.watchI := rfl
@[simp] theorem State.noteCp0Write_watchD (s : State) (n : Cp0Name) (v : DWord) : (s.noteCp0Write n v).watchD = s.watchD := rfl
@[simp] theorem State.noteCp0Write_halted (s : State) (n : Cp0Name) (v : DWord) : (s.noteCp0Write n v).halted = s.halted := rfl
@[simp] theorem State.noteCp0Write_hiloUnread (s : State) (n : Cp0Name) (v : DWord) : (s.noteCp0Write n v).hiloUnread = s.hiloUnread := rfl
@[simp] theorem State.noteCp0Write_haz (s : State) (n : Cp0Name) (v : DWord) : (s.noteCp0Write n v).haz = s.haz := rfl
@[simp] theorem State.noteCp0Write_inp (s : State) (n : Cp0Name) (v : DWord) : (s.noteCp0Write n v).inp = s.inp := rfl
@[simp] theorem State.noteCp0Write_freeCtr (s : State) (n : Cp0Name) (v : DWord) : (s.noteCp0Write n v).freeCtr = s.freeCtr := rfl

/-! ### State.noteLinkSlot -/

@[simp] theorem State.noteLinkSlot_par (s : State) : s.noteLinkSlot.par = s.par := rfl
@[simp] theorem State.noteLinkSlot_gpr (s : State) : s.noteLinkSlot.gpr = s.gpr := rfl
@[simp] theorem State.noteLinkSlot_hi (s : State) : s.noteLinkSlot.hi = s.hi := rfl
@[simp] theorem State.noteLinkSlot_lo (s : State) : s.noteLinkSlot.lo = s.lo := rfl
@[simp] theorem State.noteLinkSlot_pc (s : State) : s.noteLinkSlot.pc = s.pc := rfl
@[simp] theorem State.noteLinkSlot_nextPc (s : State) : s.noteLinkSlot.nextPc = s.nextPc := rfl
@[simp] theorem State.noteLinkSlot_inDelay (s : State) : s.noteLinkSlot.inDelay = s.inDelay := rfl
@[simp] theorem State.noteLinkSlot_llBit (s : State) : s.noteLinkSlot.llBit = s.llBit := rfl
@[simp] theorem State.noteLinkSlot_link (s : State) : s.noteLinkSlot.link = s.link := rfl
@[simp] theorem State.noteLinkSlot_cp0 (s : State) : s.noteLinkSlot.cp0 = s.cp0 := rfl
@[simp] theorem State.noteLinkSlot_tlb64 (s : State) : s.noteLinkSlot.tlb64 = s.tlb64 := rfl
@[simp] theorem State.noteLinkSlot_tlb48 (s : State) : s.noteLinkSlot.tlb48 = s.tlb48 := rfl
@[simp] theorem State.noteLinkSlot_fpu (s : State) : s.noteLinkSlot.fpu = s.fpu := rfl
@[simp] theorem State.noteLinkSlot_mem (s : State) : s.noteLinkSlot.mem = s.mem := rfl
@[simp] theorem State.noteLinkSlot_icache (s : State) : s.noteLinkSlot.icache = s.icache := rfl
@[simp] theorem State.noteLinkSlot_dcache (s : State) : s.noteLinkSlot.dcache = s.dcache := rfl
@[simp] theorem State.noteLinkSlot_timerIrq (s : State) : s.noteLinkSlot.timerIrq = s.timerIrq := rfl
@[simp] theorem State.noteLinkSlot_watchI (s : State) : s.noteLinkSlot.watchI = s.watchI := rfl
@[simp] theorem State.noteLinkSlot_watchD (s : State) : s.noteLinkSlot.watchD = s.watchD := rfl
@[simp] theorem State.noteLinkSlot_halted (s : State) : s.noteLinkSlot.halted = s.halted := rfl
@[simp] theorem State.noteLinkSlot_hiloUnread (s : State) : s.noteLinkSlot.hiloUnread = s.hiloUnread := rfl
@[simp] theorem State.noteLinkSlot_haz (s : State) : s.noteLinkSlot.haz = s.haz := rfl
@[simp] theorem State.noteLinkSlot_inp (s : State) : s.noteLinkSlot.inp = s.inp := rfl
@[simp] theorem State.noteLinkSlot_freeCtr (s : State) : s.noteLinkSlot.freeCtr = s.freeCtr := rfl

/-! ### State.freeDouble -/

@[simp] theorem State.freeDouble_par (s : State) (a : Nat) : (s.freeDouble a).par = s.par := rfl
@[simp] theorem State.freeDouble_gpr (s : State) (a : Nat) : (s.freeDouble a).gpr = s.gpr := rfl
@[simp] theorem State.freeDouble_hi (s : State) (a : Nat) : (s.freeDouble a).hi = s.hi := rfl
@[simp] theorem State.freeDouble_lo (s : State) (a : Nat) : (s.freeDouble a).lo = s.lo := rfl
@[simp] theorem State.freeDouble_pc (s : State) (a : Nat) : (s.freeDouble a).pc = s.pc := rfl
@[simp] theorem State.freeDouble_nextPc (s : State) (a : Nat) : (s.freeDouble a).nextPc = s.nextPc := rfl
@[simp] theorem State.freeDouble_inDelay (s : State) (a : Nat) : (s.freeDouble a).inDelay = s.inDelay := rfl
@[simp] theorem State.freeDouble_llBit (s : State) (a : Nat) : (s.freeDouble a).llBit = s.llBit := rfl
@[simp] theorem State.freeDouble_link (s : State) (a : Nat) : (s.freeDouble a).link = s.link := rfl
@[simp] theorem State.freeDouble_cp0 (s : State) (a : Nat) : (s.freeDouble a).cp0 = s.cp0 := rfl
@[simp] theorem State.freeDouble_tlb64 (s : State) (a : Nat) : (s.freeDouble a).tlb64 = s.tlb64 := rfl
@[simp] theorem State.freeDouble_tlb48 (s : State) (a : Nat) : (s.freeDouble a).tlb48 = s.tlb48 := rfl
@[simp] theorem State.freeDouble_fpu (s : State) (a : Nat) : (s.freeDouble a).fpu = s.fpu := rfl
@[simp] theorem State.freeDouble_icache (s : State) (a : Nat) : (s.freeDouble a).icache = s.icache := rfl
@[simp] theorem State.freeDouble_dcache (s : State) (a : Nat) : (s.freeDouble a).dcache = s.dcache := rfl
@[simp] theorem State.freeDouble_timerIrq (s : State) (a : Nat) : (s.freeDouble a).timerIrq = s.timerIrq := rfl
@[simp] theorem State.freeDouble_watchI (s : State) (a : Nat) : (s.freeDouble a).watchI = s.watchI := rfl
@[simp] theorem State.freeDouble_watchD (s : State) (a : Nat) : (s.freeDouble a).watchD = s.watchD := rfl
@[simp] theorem State.freeDouble_halted (s : State) (a : Nat) : (s.freeDouble a).halted = s.halted := rfl
@[simp] theorem State.freeDouble_hiloUnread (s : State) (a : Nat) : (s.freeDouble a).hiloUnread = s.hiloUnread := rfl
@[simp] theorem State.freeDouble_haz (s : State) (a : Nat) : (s.freeDouble a).haz = s.haz := rfl
@[simp] theorem State.freeDouble_hazNext (s : State) (a : Nat) : (s.freeDouble a).hazNext = s.hazNext := rfl
@[simp] theorem State.freeDouble_inp (s : State) (a : Nat) : (s.freeDouble a).inp = s.inp := rfl

/-! ### State.writeTlb64 -/

@[simp] theorem State.writeTlb64_par (s : State) (i : BitVec 6) : (s.writeTlb64 i).par = s.par := rfl
@[simp] theorem State.writeTlb64_gpr (s : State) (i : BitVec 6) : (s.writeTlb64 i).gpr = s.gpr := rfl
@[simp] theorem State.writeTlb64_hi (s : State) (i : BitVec 6) : (s.writeTlb64 i).hi = s.hi := rfl
@[simp] theorem State.writeTlb64_lo (s : State) (i : BitVec 6) : (s.writeTlb64 i).lo = s.lo := rfl
@[simp] theorem State.writeTlb64_pc (s : State) (i : BitVec 6) : (s.writeTlb64 i).pc = s.pc := rfl
@[simp] theorem State.writeTlb64_nextPc (s : State) (i : BitVec 6) : (s.writeTlb64 i).nextPc = s.nextPc := rfl
@[simp] theorem State.writeTlb64_inDelay (s : State) (i : BitVec 6) : (s.writeTlb64 i).inDelay = s.inDelay := rfl
@[simp] theorem State.writeTlb64_llBit (s : State) (i : BitVec 6) : (s.writeTlb64 i).llBit = s.llBit := rfl
@[simp] theorem State.writeTlb64_link (s : State) (i : BitVec 6) : (s.writeTlb64 i).link = s.link := rfl
@[simp] theorem State.writeTlb64_cp0 (s : State) (i : BitVec 6) : (s.writeTlb64 i).cp0 = s.cp0 := rfl
@[simp] theorem State.writeTlb64_tlb48 (s : State) (i : BitVec 6) : (s.writeTlb64 i).tlb48 = s.tlb48 := rfl
@[simp] theorem State.writeTlb64_fpu (s : State) (i : BitVec 6) : (s.writeTlb64 i).fpu = s.fpu := rfl
@[simp] theorem State.writeTlb64_mem (s : State) (i : BitVec 6) : (s.writeTlb64 i).mem = s.mem := rfl
@[simp] theorem State.writeTlb64_icache (s : State) (i : BitVec 6) : (s.writeTlb64 i).icache = s.icache := rfl
@[simp] theorem State.writeTlb64_dcache (s : State) (i : BitVec 6) : (s.writeTlb64 i).dcache = s.dcache := rfl
@[simp] theorem State.writeTlb64_timerIrq (s : State) (i : BitVec 6) : (s.writeTlb64 i).timerIrq = s.timerIrq := rfl
@[simp] theorem State.writeTlb64_watchI (s : State) (i : BitVec 6) : (s.writeTlb64 i).watchI = s.watchI := rfl
@[simp] theorem State.writeTlb64_watchD (s : State) (i : BitVec 6) : (s.writeTlb64 i).watchD = s.watchD := rfl
@[simp] theorem State.writeTlb64_halted (s : State) (i : BitVec 6) : (s.writeTlb64 i).halted = s.halted := rfl
@[simp] theorem State.writeTlb64_hiloUnread (s : State) (i : BitVec 6) : (s.writeTlb64 i).hiloUnread = s.hiloUnread := rfl
@[simp] theorem State.writeTlb64_haz (s : State) (i : BitVec 6) : (s.writeTlb64 i).haz = s.haz := rfl
@[simp] theorem State.writeTlb64_hazNext (s : State) (i : BitVec 6) : (s.writeTlb64 i).hazNext = s.hazNext := rfl
@[simp] theorem State.writeTlb64_inp (s : State) (i : BitVec 6) : (s.writeTlb64 i).inp = s.inp := rfl
@[simp] theorem State.writeTlb64_freeCtr (s : State) (i : BitVec 6) : (s.writeTlb64 i).freeCtr = s.freeCtr := rfl

/-! ### State.readTlb64 -/

@[simp] theorem State.readTlb64_par (s : State) : s.readTlb64.par = s.par := rfl
@[simp] theorem State.readTlb64_gpr (s : State) : s.readTlb64.gpr = s.gpr := rfl
@[simp] theorem State.readTlb64_hi (s : State) : s.readTlb64.hi = s.hi := rfl
@[simp] theorem State.readTlb64_lo (s : State) : s.readTlb64.lo = s.lo := rfl
@[simp] theorem State.readTlb64_pc (s : State) : s.readTlb64.pc = s.pc := rfl
@[simp] theorem State.readTlb64_nextPc (s : State) : s.readTlb64.nextPc = s.nextPc := rfl
@[simp] theorem State.readTlb64_inDelay (s : State) : s.readTlb64.inDelay = s.inDelay := rfl
@[simp] theorem State.readTlb64_llBit (s : State) : s.readTlb64.llBit = s.llBit := rfl
@[simp] theorem State.readTlb64_link (s : State) : s.readTlb64.link = s.link := rfl
@[simp] theorem State.readTlb64_tlb64 (s : State) : s.readTlb64.tlb64 = s.tlb64 := rfl
@[simp] theorem State.readTlb64_tlb48 (s : State) : s.readTlb64.tlb48 = s.tlb48 := rfl
@[simp] theorem State.readTlb64_fpu (s : State) : s.readTlb64.fpu = s.fpu := rfl
@[simp] theorem State.readTlb64_mem (s : State) : s.readTlb64.mem = s.mem := rfl
@[simp] theorem State.readTlb64_icache (s : State) : s.readTlb64.icache = s.icache := rfl
@[simp] theorem State.readTlb64_dcache (s : State) : s.readTlb64.dcache = s.dcache := rfl
@[simp] theorem State.readTlb64_timerIrq (s : State) : s.readTlb64.timerIrq = s.timerIrq := rfl
@[simp] theorem State.readTlb64_watchI (s : State) : s.readTlb64.watchI = s.watchI := rfl
@[simp] theorem State.readTlb64_watchD (s : State) : s.readTlb64.watchD = s.watchD := rfl
@[simp] theorem State.readTlb64_halted (s : State) : s.readTlb64.halted = s.halted := rfl
@[simp] theorem State.readTlb64_hiloUnread (s : State) : s.readTlb64.hiloUnread = s.hiloUnread := rfl
@[simp] theorem State.readTlb64_haz (s : State) : s.readTlb64.haz = s.haz := rfl
@[simp] theorem State.readTlb64_hazNext (s : State) : s.readTlb64.hazNext = s.hazNext := rfl
@[simp] theorem State.readTlb64_inp (s : State) : s.readTlb64.inp = s.inp := rfl
@[simp] theorem State.readTlb64_freeCtr (s : State) : s.readTlb64.freeCtr = s.freeCtr := rfl

/-! ### State.setTlb48 -/

@[simp] theorem State.setTlb48_par (s : State) (i : Nat) (h : i < 48) : (s.setTlb48 i h).par = s.par := rfl
@[simp] theorem State.setTlb48_gpr (s : State) (i : Nat) (h : i < 48) : (s.setTlb48 i h).gpr = s.gpr := rfl
@[simp] theorem State.setTlb48_hi (s : State) (i : Nat) (h : i < 48) : (s.setTlb48 i h).hi = s.hi := rfl
@[simp] theorem State.setTlb48_lo (s : State) (i : Nat) (h : i < 48) : (s.setTlb48 i h).lo = s.lo := rfl
@[simp] theorem State.setTlb48_pc (s : State) (i : Nat) (h : i < 48) : (s.setTlb48 i h).pc = s.pc := rfl
@[simp] theorem State.setTlb48_nextPc (s : State) (i : Nat) (h : i < 48) : (s.setTlb48 i h).nextPc = s.nextPc := rfl
@[simp] theorem State.setTlb48_inDelay (s : State) (i : Nat) (h : i < 48) : (s.setTlb48 i h).inDelay = s.inDelay := rfl
@[simp] theorem State.setTlb48_llBit (s : State) (i : Nat) (h : i < 48) : (s.setTlb48 i h).llBit = s.llBit := rfl
@[simp] theorem State.setTlb48_link (s : State) (i : Nat) (h : i < 48) : (s.setTlb48 i h).link = s.link := rfl
@[simp] theorem State.setTlb48_cp0 (s : State) (i : Nat) (h : i < 48) : (s.setTlb48 i h).cp0 = s.cp0 := rfl
@[simp] theorem State.setTlb48_tlb64 (s : State) (i : Nat) (h : i < 48) : (s.setTlb48 i h).tlb64 = s.tlb64 := rfl
@[simp] theorem State.setTlb48_fpu (s : State) (i : Nat) (h : i < 48) : (s.setTlb48 i h).fpu = s.fpu := rfl
@[simp] theorem State.setTlb48_mem (s : State) (i : Nat) (h : i < 48) : (s.setTlb48 i h).mem = s.mem := rfl
@[simp] theorem State.setTlb48_icache (s : State) (i : Nat) (h : i < 48) : (s.setTlb48 i h).icache = s.icache := rfl
@[simp] theorem State.setTlb48_dcache (s : State) (i : Nat) (h : i < 48) : (s.setTlb48 i h).dcache = s.dcache := rfl
@[simp] theorem State.setTlb48_timerIrq (s : State) (i : Nat) (h : i < 48) : (s.setTlb48 i h).timerIrq = s.timerIrq := rfl
@[simp] theorem State.setTlb48_watchI (s : State) (i : Nat) (h : i < 48) : (s.setTlb48 i h).watchI = s.watchI := rfl
@[simp] theorem State.setTlb48_watchD (s : State) (i : Nat) (h : i < 48) : (s.setTlb48 i h).watchD = s.watchD := rfl
@[simp] theorem State.setTlb48_halted (s : State) (i : Nat) (h : i < 48) : (s.setTlb48 i h).halted = s.halted := rfl
@[simp] theorem State.setTlb48_hiloUnread (s : State) (i : Nat) (h : i < 48) : (s.setTlb48 i h).hiloUnread = s.hiloUnread := rfl
@[simp] theorem State.setTlb48_haz (s : State) (i : Nat) (h : i < 48) : (s.setTlb48 i h).haz = s.haz := rfl
@[simp] theorem State.setTlb48_hazNext (s : State) (i : Nat) (h : i < 48) : (s.setTlb48 i h).hazNext = s.hazNext := rfl
@[simp] theorem State.setTlb48_inp (s : State) (i : Nat) (h : i < 48) : (s.setTlb48 i h).inp = s.inp := rfl
@[simp] theorem State.setTlb48_freeCtr (s : State) (i : Nat) (h : i < 48) : (s.setTlb48 i h).freeCtr = s.freeCtr := rfl

/-! ### State.loadTlb48 -/

@[simp] theorem State.loadTlb48_par (s : State) (e : Tlb48Entry) : (s.loadTlb48 e).par = s.par := rfl
@[simp] theorem State.loadTlb48_gpr (s : State) (e : Tlb48Entry) : (s.loadTlb48 e).gpr = s.gpr := rfl
@[simp] theorem State.loadTlb48_hi (s : State) (e : Tlb48Entry) : (s.loadTlb48 e).hi = s.hi := rfl
@[simp] theorem State.loadTlb48_lo (s : State) (e : Tlb48Entry) : (s.loadTlb48 e).lo = s.lo := rfl
@[simp] theorem State.loadTlb48_pc (s : State) (e : Tlb48Entry) : (s.loadTlb48 e).pc = s.pc := rfl
@[simp] theorem State.loadTlb48_nextPc (s : State) (e : Tlb48Entry) : (s.loadTlb48 e).nextPc = s.nextPc := rfl
@[simp] theorem State.loadTlb48_inDelay (s : State) (e : Tlb48Entry) : (s.loadTlb48 e).inDelay = s.inDelay := rfl
@[simp] theorem State.loadTlb48_llBit (s : State) (e : Tlb48Entry) : (s.loadTlb48 e).llBit = s.llBit := rfl
@[simp] theorem State.loadTlb48_link (s : State) (e : Tlb48Entry) : (s.loadTlb48 e).link = s.link := rfl
@[simp] theorem State.loadTlb48_tlb64 (s : State) (e : Tlb48Entry) : (s.loadTlb48 e).tlb64 = s.tlb64 := rfl
@[simp] theorem State.loadTlb48_tlb48 (s : State) (e : Tlb48Entry) : (s.loadTlb48 e).tlb48 = s.tlb48 := rfl
@[simp] theorem State.loadTlb48_fpu (s : State) (e : Tlb48Entry) : (s.loadTlb48 e).fpu = s.fpu := rfl
@[simp] theorem State.loadTlb48_mem (s : State) (e : Tlb48Entry) : (s.loadTlb48 e).mem = s.mem := rfl
@[simp] theorem State.loadTlb48_icache (s : State) (e : Tlb48Entry) : (s.loadTlb48 e).icache = s.icache := rfl
@[simp] theorem State.loadTlb48_dcache (s : State) (e : Tlb48Entry) : (s.loadTlb48 e).dcache = s.dcache := rfl
@[simp] theorem State.loadTlb48_timerIrq (s : State) (e : Tlb48Entry) : (s.loadTlb48 e).timerIrq = s.timerIrq := rfl
@[simp] theorem State.loadTlb48_watchI (s : State) (e : Tlb48Entry) : (s.loadTlb48 e).watchI = s.watchI := rfl
@[simp] theorem State.loadTlb48_watchD (s : State) (e : Tlb48Entry) : (s.loadTlb48 e).watchD = s.watchD := rfl
@[simp] theorem State.loadTlb48_halted (s : State) (e : Tlb48Entry) : (s.loadTlb48 e).halted = s.halted := rfl
@[simp] theorem State.loadTlb48_hiloUnread (s : State) (e : Tlb48Entry) : (s.loadTlb48 e).hiloUnread = s.hiloUnread := rfl
@[simp] theorem State.loadTlb48_haz (s : State) (e : Tlb48Entry) : (s.loadTlb48 e).haz = s.haz := rfl
@[simp] theorem State.loadTlb48_hazNext (s : State) (e : Tlb48Entry) : (s.loadTlb48 e).hazNext = s.hazNext := rfl
@[simp] theorem State.loadTlb48_inp (s : State) (e : Tlb48Entry) : (s.loadTlb48 e).inp = s.inp := rfl
@[simp] theorem State.loadTlb48_freeCtr (s : State) (e : Tlb48Entry) : (s.loadTlb48 e).freeCtr = s.freeCtr := rfl

/-! ### State.setCp0 -/

@[simp] theorem State.setCp0_par (s : State) (n : Cp0Name) (v : DWord) : (s.setCp0 n v).par = s.par := by cases n <;> rfl
@[simp] theorem State.setCp0_gpr (s : State) (n : Cp0Name) (v : DWord) : (s.setCp0 n v).gpr = s.gpr := by cases n <;> rfl
@[simp] theorem State.setCp0_hi (s : State) (n : Cp0Name) (v : DWord) : (s.setCp0 n v).hi = s.hi := by cases n <;> rfl
@[simp] theorem State.setCp0_lo (s : State) (n : Cp0Name) (v : DWord) : (s.setCp0 n v).lo = s.lo := by cases n <;> rfl
@[simp] theorem State.setCp0_pc (s : State) (n : Cp0Name) (v : DWord) : (s.setCp0 n v).pc = s.pc := by cases n <;> rfl
@[simp] theorem State.setCp0_nextPc (s : State) (n : Cp0Name) (v : DWord) : (s.setCp0 n v).nextPc = s.nextPc := by cases n <;> rfl
@[simp] theorem State.setCp0_inDelay (s : State) (n : Cp0Name) (v : DWord) : (s.setCp0 n v).inDelay = s.inDelay := by cases n <;> rfl
@[simp] theorem State.setCp0_llBit (s : State) (n : Cp0Name) (v : DWord) : (s.setCp0 n v).llBit = s.llBit := by cases n <;> rfl
@[simp] theorem State.setCp0_link (s : State) (n : Cp0Name) (v : DWord) : (s.setCp0 n v).link = s.link := by cases n <;> rfl
@[simp] theorem State.setCp0_tlb64 (s : State) (n : Cp0Name) (v : DWord) : (s.setCp0 n v).tlb64 = s.tlb64 := by cases n <;> rfl
@[simp] theorem State.setCp0_tlb48 (s : State) (n : Cp0Name) (v : DWord) : (s.setCp0 n v).tlb48 = s.tlb48 := by cases n <;> rfl
@[simp] theorem State.setCp0_fpu (s : State) (n : Cp0Name) (v : DWord) : (s.setCp0 n v).fpu = s.fpu := by cases n <;> rfl
@[simp] theorem State.setCp0_mem (s : State) (n : Cp0Name) (v : DWord) : (s.setCp0 n v).mem = s.mem := by cases n <;> rfl
@[simp] theorem State.setCp0_icache (s : State) (n : Cp0Name) (v : DWord) : (s.setCp0 n v).icache = s.icache := by cases n <;> rfl
@[simp] theorem State.setCp0_dcache (s : State) (n : Cp0Name) (v : DWord) : (s.setCp0 n v).dcache = s.dcache := by cases n <;> rfl
@[simp] theorem State.setCp0_watchI (s : State) (n : Cp0Name) (v : DWord) : (s.setCp0 n v).watchI = s.watchI := by cases n <;> rfl
@[simp] theorem State.setCp0_watchD (s : State) (n : Cp0Name) (v : DWord) : (s.setCp0 n v).watchD = s.watchD := by cases n <;> rfl
@[simp] theorem State.setCp0_hiloUnread (s : State) (n : Cp0Name) (v : DWord) : (s.setCp0 n v).hiloUnread = s.hiloUnread := by cases n <;> rfl
@[simp] theorem State.setCp0_haz (s : State) (n : Cp0Name) (v : DWord) : (s.setCp0 n v).haz = s.haz := by cases n <;> rfl
@[simp] theorem State.setCp0_hazNext (s : State) (n : Cp0Name) (v : DWord) : (s.setCp0 n v).hazNext = s.hazNext := by cases n <;> rfl
@[simp] theorem State.setCp0_inp (s : State) (n : Cp0Name) (v : DWord) : (s.setCp0 n v).inp = s.inp := by cases n <;> rfl
@[simp] theorem State.setCp0_freeCtr (s : State) (n : Cp0Name) (v : DWord) : (s.setCp0 n v).freeCtr = s.freeCtr := by cases n <;> rfl

/-! ### The fields an update writes -/

@[simp] theorem State.useFree_freeCtr (s : State) : s.useFree.freeCtr = s.freeCtr + 1 := rfl
@[simp] theorem State.setHi_hi (s : State) (v : DWord) : (s.setHi v).hi = s.narrow v := rfl
@[simp] theorem State.setLo_lo (s : State) (v : DWord) : (s.setLo v).lo = s.narrow v := rfl
@[simp] theorem State.putHilo_hi (s : State) (h l : DWord) : (s.putHilo h l).hi = s.narrow h := rfl
@[simp] theorem State.putHilo_lo (s : State) (h l : DWord) : (s.putHilo h l).lo = s.narrow l := rfl
@[simp] theorem State.putHilo_hiloUnread (s : State) (h l : DWord) : (s.putHilo h l).hiloUnread = true := rfl
@[simp] theorem State.setSr_cp0 (s : State) (v : Word) : (s.setSr v).cp0 = { s.cp0 with sr := v } := rfl
@[simp] theorem State.advance_pc (s : State) : s.advance.pc = s.nextPc := rfl
@[simp] theorem State.advance_nextPc (s : State) : s.advance.nextPc = s.pcNorm (s.nextPc + 4) := rfl
@[simp] theorem State.advance_inDelay (s : State) : s.advance.inDelay = false := rfl
@[simp] theorem State.advanceBranch_pc (s : State) (b : Bool) (a : DWord) : (s.advanceBranch b a).pc = s.nextPc := rfl
@[simp] theorem State.advanceBranch_nextPc (s : State) (b : Bool) (a : DWord) :
    (s.advanceBranch b a).nextPc = if b then a else s.pcNorm (s.nextPc + 4) := rfl
@[simp] theorem State.advanceBranch_inDelay (s : State) (b : Bool) (a : DWord) :
    (s.advanceBranch b a).inDelay = true := rfl
@[simp] theorem State.advanceNullify_pc (s : State) : s.advanceNullify.pc = s.pcNorm (s.nextPc + 4) := rfl
@[simp] theorem State.advanceNullify_nextPc (s : State) : s.advanceNullify.nextPc = s.pcNorm (s.nextPc + 8) := rfl
@[simp] theorem State.advanceNullify_inDelay (s : State) : s.advanceNullify.inDelay = false := rfl
@[simp] theorem State.gotoWith_pc (s : State) (a : DWord) (h : Hazards) : (s.gotoWith a h).pc = a := rfl
@[simp] theorem State.gotoWith_nextPc (s : State) (a : DWord) (h : Hazards) :
    (s.gotoWith a h).nextPc = s.pcNorm (a + 4) := rfl
@[simp] theorem State.gotoWith_inDelay (s : State) (a : DWord) (h : Hazards) : (s.gotoWith a h).inDelay = false := rfl
@[simp] theorem State.gotoWith_haz (s : State) (a : DWord) (h : Hazards) : (s.gotoWith a h).haz = h := rfl
@[simp] theorem State.popMode_cp0 (s : State) :
    s.popMode.cp0 = { s.cp0 with sr := setField s.cp0.sr 0 (s.cp0.sr.extractLsb' 2 4) } := by simp [State.popMode]
@[simp] theorem State.setFcr31_fpu (s : State) (v : Word) :
    (s.setFcr31 v).fpu = { s.fpu with fcr31 := v } := rfl
@[simp] theorem State.setMem_mem (s : State) (a n : Nat) (v : DWord) :
    (s.setMem a n v).mem = memWriteList s.mem (s.lanes a n) (toBytes s.bigEndianCpu n v) := rfl
@[simp] theorem State.setLink_llBit (s : State) (l : Link) : (s.setLink l).llBit = true := rfl
@[simp] theorem State.setLink_link (s : State) (l : Link) : (s.setLink l).link = l := rfl
@[simp] theorem State.noteHiloRead_hiloUnread (s : State) (b : Bool) (r : RegNum) :
    (s.noteHiloRead b r).hiloUnread = false := rfl

end Sys2Proof.Machine
end

