-- ==== Sys2Proof/Laws/Ops.lean ====
section
/-! SUPPORT. What each shared operation can do, said once: how the operations are put together, and what the reads, the
checks and the control flow answer. -/

namespace Sys2Proof.Machine

/-! ### Putting operations together -/

@[simp] theorem op_pure {α : Type} (a : α) (s : State) : (pure a : Op α) s = .ok (a, s) := rfl

theorem op_bind {α β : Type} (x : Op α) (f : α → Op β) (s : State) :
    (x >>= f) s = match x s with
      | .ok r => f r.1 r.2
      | .error e => .error e := by
  show StateT.bind x f s = _
  unfold StateT.bind
  cases x s <;> rfl

/-- What follows an operation that answers. -/
theorem bind_ok {α β : Type} {x : Op α} {f : α → Op β} {s t : State} {a : α} (h : x s = .ok (a, t)) :
    (x >>= f) s = f a t := by rw [op_bind, h]

/-- An operation that stops ends the instruction. -/
theorem bind_error {α β : Type} {x : Op α} {f : α → Op β} {s : State} {e : Stop} (h : x s = .error e) :
    (x >>= f) s = .error e := by rw [op_bind, h]

@[simp] theorem look_apply {α : Type} (f : State → α) (s : State) : look f s = .ok (f s, s) := rfl
@[simp] theorem change_apply (f : State → State) (s : State) : change f s = .ok ((), f s) := rfl
@[simp] theorem raise_apply {α : Type} (e : Exc) (s : State) : (raise e : Op α) s = .error (.exc e s) := rfl
@[simp] theorem refuse_apply {α : Type} (r : Refusal) (s : State) : (refuse r : Op α) s = .error (.refused r) := rfl

@[simp] theorem look_bind {α β : Type} (f : State → α) (k : α → Op β) (s : State) :
    (look f >>= k) s = k (f s) s := rfl

@[simp] theorem pure_bind_apply {α β : Type} (a : α) (k : α → Op β) (s : State) : (pure a >>= k) s = k a s := rfl

@[simp] theorem change_bind {β : Type} (f : State → State) (k : Unit → Op β) (s : State) :
    (change f >>= k) s = k () (f s) := rfl

theorem raiseIf_ok {c : Bool} (e : Exc) (s : State) (h : c = false) : raiseIf c e s = .ok ((), s) := by
  simp [raiseIf, h]

theorem raiseIf_error {c : Bool} (e : Exc) (s : State) (h : c = true) : raiseIf c e s = .error (.exc e s) := by
  simp [raiseIf, h]

theorem refuseIf_ok {c : Bool} (r : Refusal) (s : State) (h : c = false) : refuseIf c r s = .ok ((), s) := by
  simp [refuseIf, h]

/-! ### Running a meaning -/

theorem runOp_ok {x : Op Unit} {s t : State} (h : x s = .ok ((), t)) : runOp x s = .next t := by simp [runOp, h]

theorem runOp_exc {x : Op Unit} {s t : State} {e : Exc} (h : x s = .error (.exc e t)) :
    runOp x s = .next (takeException e t) := by simp [runOp, h]

theorem runOp_refused {x : Op Unit} {s : State} {r : Refusal} (h : x s = .error (.refused r)) :
    runOp x s = .refused r := by simp [runOp, h]

theorem runSeq_ok {x : Op Unit} {s t : State} (h : x s = .ok ((), t)) : runSeq x s = .next t.advance :=
  runOp_ok ((bind_ok h).trans rfl)

theorem runSeq_exc {x : Op Unit} {s t : State} {e : Exc} (h : x s = .error (.exc e t)) :
    runSeq x s = .next (takeException e t) := runOp_exc (bind_error h)

/-! ### Free values used up -/

/-- The state with `n` free values used up: all that an operation which only reads can change. -/
def State.skip (s : State) (n : Nat) : State := { s with freeCtr := s.freeCtr + n }

@[simp] theorem State.skip_zero (s : State) : s.skip 0 = s := rfl
@[simp] theorem State.skip_skip (s : State) (m n : Nat) : (s.skip m).skip n = s.skip (m + n) := by
  simp [State.skip, Nat.add_assoc]
theorem State.useFree_eq (s : State) : s.useFree = s.skip 1 := rfl

/-! ### Operands -/

@[simp] theorem lo32_sext (w : Word) : lo32 (sext w) = w := by
  apply BitVec.eq_of_getLsbD_eq
  intro i hi
  simp only [lo32, sext, BitVec.getLsbD_setWidth, BitVec.getLsbD_signExtend, hi, decide_true, Bool.true_and]
  simp; omega

@[simp] theorem sextLo_sext (w : Word) : sextLo (sext w) = sext w := by simp [sextLo]
@[simp] theorem sextLo_sextLo (x : DWord) : sextLo (sextLo x) = sextLo x := by simp [sextLo]
@[simp] theorem lo32_sextLo (x : DWord) : lo32 (sextLo x) = lo32 x := by simp [sextLo]
@[simp] theorem isWord_sext (w : Word) : isWord (sext w) = true := by simp [isWord]
theorem sextLo_of_isWord {x : DWord} (h : isWord x = true) : sextLo x = x := by simpa [isWord] using h

@[simp] theorem State.narrow_narrow (s : State) (v : DWord) : s.narrow (s.narrow v) = s.narrow v := by
  unfold State.narrow; split <;> simp

@[simp] theorem State.narrow_sext (s : State) (w : Word) : s.narrow (sext w) = sext w := by
  unfold State.narrow; split <;> simp

theorem State.narrow_word {s : State} {v : DWord} (h : isWord v = true) : s.narrow v = v := by
  unfold State.narrow; split
  · rfl
  · exact sextLo_of_isWord h

@[simp] theorem State.narrow_gprVal (s : State) (r : RegNum) : s.narrow (s.gprVal r) = s.gprVal r := by
  unfold State.gprVal
  split
  · exact State.narrow_word (by decide)
  · exact State.narrow_narrow _ _

/-- A read answers a register-wide value, the register's where it is settled, and changes nothing but the counter of free
values. -/
theorem readGpr_reads (r : RegNum) (s : State) :
    ∃ v n, readGpr r s = .ok (v, s.skip n) ∧ s.Reads r v ∧ s.narrow v = v := by
  unfold readGpr State.Reads State.Settled
  split
  · rename_i h
    exact ⟨_, 1, rfl, fun g => absurd h g, s.narrow_narrow _⟩
  · exact ⟨_, 0, rfl, fun _ => rfl, s.narrow_gprVal _⟩

/-- A read of a settled register gives its value. -/
theorem readGpr_settled {r : RegNum} {s : State} (h : s.Settled r) : readGpr r s = .ok (s.gprVal r, s) := by
  unfold readGpr
  rw [if_neg h]

theorem freeIf_reads (c : Bool) (v : DWord) (s : State) :
    ∃ w n, freeIf c v s = .ok (w, s.skip n) ∧ (c = false → w = v) := by
  cases c
  · exact ⟨v, 0, rfl, fun _ => rfl⟩
  · exact ⟨s.free, 1, rfl, fun h => by simp at h⟩

/-- The effective address. -/
theorem effAddr_reads (base : RegNum) (off : BitVec 16) (s : State) :
    ∃ b n, effAddr base off s = .ok (s.normVa (b + off.signExtend 64), s.skip n) ∧ s.Reads base b := by
  obtain ⟨b, n, h, hb, -⟩ := readGpr_reads base s
  exact ⟨b, n, bind_ok h, hb⟩

/-! ### Checks -/

theorem requireIsa_ok {l : Isa} {s : State} (h : s.HasIsa l) : requireIsa l s = .ok ((), s) := by
  unfold requireIsa; exact if_pos h

theorem requireIsa_error {l : Isa} {s : State} (h : ¬s.HasIsa l) :
    requireIsa l s = .error (.exc .reservedInstruction s) := by
  unfold requireIsa; exact if_neg h

theorem currentMode_ok {s : State} {m : Mode} (h : s.mode? = some m) : currentMode s = .ok (m, s) := by
  simp [currentMode, h]

theorem require64_ok {s : State} (h : s.Has64) : require64 s = .ok ((), s) := by
  obtain ⟨hi, m, hm, ho⟩ := h
  unfold require64
  exact (bind_ok (requireIsa_ok hi)).trans ((bind_ok (currentMode_ok hm)).trans (raiseIf_ok _ _ (by simp [ho])))

theorem notGone {z : BitVec 2} {s : State} (h3 : z = 3#2 → s.par.cpu.isa.rank < 3) :
    (z == 3#2 && decide (3 ≤ s.par.cpu.isa.rank)) = false := by
  by_cases hz : z = 3#2
  · have := h3 hz; simp; omega
  · simp [hz]

theorem requireCop_ok {z : BitVec 2} {s : State} (h : s.CopUsable z) : requireCop z s = .ok ((), s) := by
  obtain ⟨h3, hu⟩ := h
  unfold requireCop
  refine (look_bind _ _ _).trans ((bind_ok (raiseIf_ok _ _ (notGone h3))).trans ?_)
  by_cases h0 : z = 0#2
  · rw [if_pos h0] at hu
    obtain ⟨m, hm, hk⟩ := hu
    rw [if_pos h0]
    refine (bind_ok (currentMode_ok hm)).trans (raiseIf_ok _ _ ?_)
    rcases hk with rfl | hk
    · simp [h0]
    · simp [hk]
  · rw [if_neg h0] at hu
    rw [if_neg h0]
    exact raiseIf_ok _ _ (by simp [hu])

theorem requireCop_error {z : BitVec 2} {s : State} (h : s.CopUnusable z) :
    requireCop z s = .error (.exc (.coprocessorUnusable z) s) := by
  obtain ⟨h3, hu, h0'⟩ := h
  unfold requireCop
  refine (look_bind _ _ _).trans ((bind_ok (raiseIf_ok _ _ (notGone h3))).trans ?_)
  by_cases h0 : z = 0#2
  · obtain ⟨m, hm, hk⟩ := h0' h0
    rw [if_pos h0]
    exact (bind_ok (currentMode_ok hm)).trans (raiseIf_error _ _ (by simp [hu, hk]))
  · rw [if_neg h0]
    exact raiseIf_error _ _ (by simp [hu, h0])

theorem refuseInDelaySlot_ok {s : State} (h : s.inDelay = false) : refuseInDelaySlot s = .ok ((), s) := by
  simp [refuseInDelaySlot, h]

theorem refuseInDelaySlot_refuses {s : State} (h : s.inDelay = true) :
    refuseInDelaySlot s = .error (.refused .branchInDelaySlot) := by
  simp [refuseInDelaySlot, h]

/-! ### What used-up free values leave as it is -/

@[simp] theorem State.skip_par (s : State) (n : Nat) : (s.skip n).par = s.par := rfl
@[simp] theorem State.skip_gpr (s : State) (n : Nat) : (s.skip n).gpr = s.gpr := rfl
@[simp] theorem State.skip_hi (s : State) (n : Nat) : (s.skip n).hi = s.hi := rfl
@[simp] theorem State.skip_lo (s : State) (n : Nat) : (s.skip n).lo = s.lo := rfl
@[simp] theorem State.skip_pc (s : State) (n : Nat) : (s.skip n).pc = s.pc := rfl
@[simp] theorem State.skip_nextPc (s : State) (n : Nat) : (s.skip n).nextPc = s.nextPc := rfl
@[simp] theorem State.skip_inDelay (s : State) (n : Nat) : (s.skip n).inDelay = s.inDelay := rfl
@[simp] theorem State.skip_llBit (s : State) (n : Nat) : (s.skip n).llBit = s.llBit := rfl
@[simp] theorem State.skip_link (s : State) (n : Nat) : (s.skip n).link = s.link := rfl
@[simp] theorem State.skip_cp0 (s : State) (n : Nat) : (s.skip n).cp0 = s.cp0 := rfl
@[simp] theorem State.skip_tlb64 (s : State) (n : Nat) : (s.skip n).tlb64 = s.tlb64 := rfl
@[simp] theorem State.skip_tlb48 (s : State) (n : Nat) : (s.skip n).tlb48 = s.tlb48 := rfl
@[simp] theorem State.skip_fpu (s : State) (n : Nat) : (s.skip n).fpu = s.fpu := rfl
@[simp] theorem State.skip_mem (s : State) (n : Nat) : (s.skip n).mem = s.mem := rfl
@[simp] theorem State.skip_icache (s : State) (n : Nat) : (s.skip n).icache = s.icache := rfl
@[simp] theorem State.skip_dcache (s : State) (n : Nat) : (s.skip n).dcache = s.dcache := rfl
@[simp] theorem State.skip_timerIrq (s : State) (n : Nat) : (s.skip n).timerIrq = s.timerIrq := rfl
@[simp] theorem State.skip_watchI (s : State) (n : Nat) : (s.skip n).watchI = s.watchI := rfl
@[simp] theorem State.skip_watchD (s : State) (n : Nat) : (s.skip n).watchD = s.watchD := rfl
@[simp] theorem State.skip_halted (s : State) (n : Nat) : (s.skip n).halted = s.halted := rfl
@[simp] theorem State.skip_hiloUnread (s : State) (n : Nat) : (s.skip n).hiloUnread = s.hiloUnread := rfl
@[simp] theorem State.skip_haz (s : State) (n : Nat) : (s.skip n).haz = s.haz := rfl
@[simp] theorem State.skip_hazNext (s : State) (n : Nat) : (s.skip n).hazNext = s.hazNext := rfl
@[simp] theorem State.skip_inp (s : State) (n : Nat) : (s.skip n).inp = s.inp := rfl
@[simp] theorem State.skip_lanes (s : State) (n a k : Nat) : (s.skip n).lanes a k = s.lanes a k := rfl
@[simp] theorem State.skip_memVal (s : State) (n a k : Nat) : (s.skip n).memVal a k = s.memVal a k := rfl
@[simp] theorem State.skip_bigEndianCpu (s : State) (n : Nat) : (s.skip n).bigEndianCpu = s.bigEndianCpu := rfl
@[simp] theorem State.skip_hiVal (s : State) (n : Nat) : (s.skip n).hiVal = s.hiVal := rfl
@[simp] theorem State.skip_loVal (s : State) (n : Nat) : (s.skip n).loVal = s.loVal := rfl
@[simp] theorem State.skip_gprVal (s : State) (n : Nat) (r : RegNum) : (s.skip n).gprVal r = s.gprVal r := rfl
@[simp] theorem State.skip_mode (s : State) (n : Nat) : (s.skip n).mode? = s.mode? := rfl
@[simp] theorem State.skip_pcNorm (s : State) (n : Nat) (a : DWord) : (s.skip n).pcNorm a = s.pcNorm a := rfl
@[simp] theorem State.skip_normVa (s : State) (n : Nat) (a : DWord) : (s.skip n).normVa a = s.normVa a := rfl
@[simp] theorem State.skip_narrow (s : State) (n : Nat) (a : DWord) : (s.skip n).narrow a = s.narrow a := rfl
@[simp] theorem State.skip_Reads (s : State) (n : Nat) (r : RegNum) (v : DWord) :
    (s.skip n).Reads r v ↔ s.Reads r v := Iff.rfl
@[simp] theorem State.skip_Settled (s : State) (n : Nat) (r : RegNum) : (s.skip n).Settled r ↔ s.Settled r := Iff.rfl
@[simp] theorem State.skip_HasIsa (s : State) (n : Nat) (l : Isa) : (s.skip n).HasIsa l ↔ s.HasIsa l := Iff.rfl
@[simp] theorem State.skip_Has64 (s : State) (n : Nat) : (s.skip n).Has64 ↔ s.Has64 := Iff.rfl
@[simp] theorem State.skip_CopUsable (s : State) (n : Nat) (z : BitVec 2) :
    (s.skip n).CopUsable z ↔ s.CopUsable z := Iff.rfl

end Sys2Proof.Machine
end

