-- ==== Sys2Proof/Laws/Frames.lean ====
section
/-! SUPPORT. What the updates of the state leave alone, as frames: an update that touches only the model's own records is
SameMachine, the others each have a frame, and frames compose. -/

namespace Sys2Proof.Machine

/-! ### Updates of the model's own records -/

/-- `t` is `s` but for the program counter and the model's records of hazards, unread results and free values. -/
structure SameMachine (s t : State) : Prop where
  par : t.par = s.par
  gpr : t.gpr = s.gpr
  hi : t.hi = s.hi
  lo : t.lo = s.lo
  llBit : t.llBit = s.llBit
  link : t.link = s.link
  cp0 : t.cp0 = s.cp0
  tlb64 : t.tlb64 = s.tlb64
  tlb48 : t.tlb48 = s.tlb48
  fpu : t.fpu = s.fpu
  mem : t.mem = s.mem
  icache : t.icache = s.icache
  dcache : t.dcache = s.dcache
  timerIrq : t.timerIrq = s.timerIrq
  watchI : t.watchI = s.watchI
  watchD : t.watchD = s.watchD
  halted : t.halted = s.halted
  inp : t.inp = s.inp

theorem same_refl (s : State) : SameMachine s s := by constructor <;> rfl
theorem same_skip (s : State) (n : Nat) : SameMachine s (s.skip n) := by constructor <;> rfl
theorem same_useFree (s : State) : SameMachine s s.useFree := by constructor <;> rfl
theorem same_advance (s : State) : SameMachine s s.advance := by constructor <;> rfl
theorem same_advanceBranch (s : State) (b : Bool) (a : DWord) : SameMachine s (s.advanceBranch b a) := by
  constructor <;> rfl
theorem same_advanceNullify (s : State) : SameMachine s s.advanceNullify := by constructor <;> rfl
theorem same_gotoWith (s : State) (a : DWord) (h : Hazards) : SameMachine s (s.gotoWith a h) := by constructor <;> rfl
theorem same_noteLinkSlot (s : State) : SameMachine s s.noteLinkSlot := by constructor <;> rfl
theorem same_noteCp0Write (s : State) (r : Cp0Name) (v : DWord) : SameMachine s (s.noteCp0Write r v) := by
  constructor <;> rfl
theorem same_delayGpr (s : State) (l : Isa) (b : Bool) (r : RegNum) : SameMachine s (s.delayGpr l b r) := by
  constructor <;> simp
theorem same_delayFgr (s : State) (l : Isa) (rs : List RegNum) : SameMachine s (s.delayFgr l rs) := by
  constructor <;> simp
theorem same_delayCond (s : State) (n : Nat) : SameMachine s (s.delayCond n) := by constructor <;> simp
theorem same_noteHiloRead (s : State) (b : Bool) (r : RegNum) : SameMachine s (s.noteHiloRead b r) := by
  constructor <;> rfl

theorem SameMachine.trans {s t u : State} (a : SameMachine s t) (b : SameMachine t u) : SameMachine s u := by
  constructor
  · rw [b.par, a.par]
  · rw [b.gpr, a.gpr]
  · rw [b.hi, a.hi]
  · rw [b.lo, a.lo]
  · rw [b.llBit, a.llBit]
  · rw [b.link, a.link]
  · rw [b.cp0, a.cp0]
  · rw [b.tlb64, a.tlb64]
  · rw [b.tlb48, a.tlb48]
  · rw [b.fpu, a.fpu]
  · rw [b.mem, a.mem]
  · rw [b.icache, a.icache]
  · rw [b.dcache, a.dcache]
  · rw [b.timerIrq, a.timerIrq]
  · rw [b.watchI, a.watchI]
  · rw [b.watchD, a.watchD]
  · rw [b.halted, a.halted]
  · rw [b.inp, a.inp]

/-! ### Registers read through an update -/

theorem gprVal_congr {s t : State} (hp : t.par = s.par) (hg : t.gpr = s.gpr) (r : RegNum) :
    t.gprVal r = s.gprVal r := by
  unfold State.gprVal State.narrow; rw [hp, hg]

theorem narrow_congr {s t : State} (hp : t.par = s.par) (v : DWord) : t.narrow v = s.narrow v := by
  unfold State.narrow; rw [hp]

theorem hiVal_congr {s t : State} (hp : t.par = s.par) (h : t.hi = s.hi) : t.hiVal = s.hiVal := by
  unfold State.hiVal State.narrow; rw [hp, h]

theorem loVal_congr {s t : State} (hp : t.par = s.par) (h : t.lo = s.lo) : t.loVal = s.loVal := by
  unfold State.loVal State.narrow; rw [hp, h]

@[simp] theorem gprVal_zero (s : State) : s.gprVal 0#5 = 0 := rfl

theorem setGpr_self (s : State) {r : RegNum} (v : DWord) (h : r ≠ 0#5) : (s.setGpr r v).gprVal r = s.narrow v := by
  have e : s.setGpr r v = { s with gpr := s.gpr.set r.toNat (s.narrow v) r.isLt } := if_neg h
  rw [e]
  unfold State.gprVal
  rw [if_neg h]
  simp only [Vector.getElem_set_self]
  exact s.narrow_narrow v

theorem setGpr_ne (s : State) {r q : RegNum} (v : DWord) (h : q ≠ r) : (s.setGpr r v).gprVal q = s.gprVal q := by
  unfold State.setGpr
  split
  · rfl
  · unfold State.gprVal
    split
    · rfl
    · rw [Vector.getElem_set_ne]
      · rfl
      · intro e; exact h (BitVec.eq_of_toNat_eq e.symm)

@[simp] theorem putGpr_self (s : State) {r : RegNum} (v : DWord) (h : r ≠ 0#5) :
    (s.putGpr r v).gprVal r = s.narrow v :=
  (gprVal_congr (t := s.putGpr r v) (s := s.setGpr r v) rfl rfl r).trans (setGpr_self s v h)

theorem putGpr_ne (s : State) {r q : RegNum} (v : DWord) (h : q ≠ r) : (s.putGpr r v).gprVal q = s.gprVal q :=
  (gprVal_congr (t := s.putGpr r v) (s := s.setGpr r v) rfl rfl q).trans (setGpr_ne s v h)

/-! ### Frames -/

theorem SameMachine.frame {s t : State} (h : SameMachine s t) (w : Touch) : Frame w s t where
  gpr r _ := gprVal_congr h.par h.gpr r
  mem a _ := by rw [h.mem]
  hilo _ := ⟨h.hi, h.lo⟩
  cp0 _ := ⟨h.cp0, h.tlb64, h.tlb48, h.timerIrq, h.halted⟩
  fpu _ := h.fpu
  link _ := ⟨h.llBit, h.link⟩
  rest := ⟨h.par, h.icache, h.dcache, h.watchI, h.watchD, h.inp⟩

theorem Frame.trans {w : Touch} {s t u : State} (a : Frame w s t) (b : Frame w t u) : Frame w s u where
  gpr r h := (b.gpr r h).trans (a.gpr r h)
  mem x h := (b.mem x h).trans (a.mem x h)
  hilo h := ⟨(b.hilo h).1.trans (a.hilo h).1, (b.hilo h).2.trans (a.hilo h).2⟩
  cp0 h := by
    obtain ⟨h1, h2, h3, h4, h5⟩ := a.cp0 h
    obtain ⟨g1, g2, g3, g4, g5⟩ := b.cp0 h
    exact ⟨g1.trans h1, g2.trans h2, g3.trans h3, g4.trans h4, g5.trans h5⟩
  fpu h := (b.fpu h).trans (a.fpu h)
  link h := ⟨(b.link h).1.trans (a.link h).1, (b.link h).2.trans (a.link h).2⟩
  rest := by
    obtain ⟨h1, h2, h3, h4, h5, h6⟩ := a.rest
    obtain ⟨g1, g2, g3, g4, g5, g6⟩ := b.rest
    exact ⟨g1.trans h1, g2.trans h2, g3.trans h3, g4.trans h4, g5.trans h5, g6.trans h6⟩

/-- A frame that allows less is one that allows more. -/
theorem Frame.mono {w v : Touch} {s t : State} (h : Frame w s t) (hg : ∀ r, r ∈ w.gpr → r ∈ v.gpr)
    (hm : ∀ a, a ∈ w.mem → a ∈ v.mem) (hh : v.hilo = false → w.hilo = false) (hc : v.cp0 = false → w.cp0 = false)
    (hf : v.fpu = false → w.fpu = false) (hl : v.link = false → w.link = false) : Frame v s t where
  gpr r hr := h.gpr r fun g => hr (hg r g)
  mem a ha := h.mem a fun g => ha (hm a g)
  hilo e := h.hilo (hh e)
  cp0 e := h.cp0 (hc e)
  fpu e := h.fpu (hf e)
  link e := h.link (hl e)
  rest := h.rest

theorem frame_putGpr (s : State) (r : RegNum) (v : DWord) {w : Touch} (hw : r ∈ w.gpr) :
    Frame w s (s.putGpr r v) where
  gpr q h := putGpr_ne s v fun e => h (e ▸ hw)
  mem a _ := by simp
  hilo _ := by simp
  cp0 _ := by simp
  fpu _ := by simp
  link _ := by simp
  rest := by simp

theorem frame_freeGpr (s : State) (r : RegNum) {w : Touch} (hw : r ∈ w.gpr) : Frame w s (s.freeGpr r) where
  gpr q h := setGpr_ne s.useFree s.free fun e => h (e ▸ hw)
  mem a _ := by simp
  hilo _ := by simp
  cp0 _ := by simp
  fpu _ := by simp
  link _ := by simp
  rest := by simp

theorem frame_foldl_freeGpr (rs : List RegNum) (s : State) {w : Touch} (hw : ∀ r, r ∈ rs → r ∈ w.gpr) :
    Frame w s (rs.foldl State.freeGpr s) := by
  induction rs generalizing s with
  | nil => exact (same_refl s).frame w
  | cons r rs ih =>
    exact (frame_freeGpr s r (hw r (by simp))).trans (ih _ fun q hq => hw q (by simp [hq]))

/-- Spoiling the HI/LO reads that come too close touches the registers they went to (R581). -/
theorem frame_spoil (s : State) (h l : Bool) {w : Touch} (hw : ∀ r, r ∈ s.spoiled h l → r ∈ w.gpr) :
    Frame w s (s.spoil h l) :=
  (frame_foldl_freeGpr _ s hw).trans (SameMachine.frame (by constructor <;> rfl) w)

theorem foldl_freeGpr_hilo (rs : List RegNum) (s : State) :
    (rs.foldl State.freeGpr s).par = s.par ∧ (rs.foldl State.freeGpr s).hi = s.hi ∧
      (rs.foldl State.freeGpr s).lo = s.lo ∧ (rs.foldl State.freeGpr s).nextPc = s.nextPc ∧
      (rs.foldl State.freeGpr s).hiloUnread = s.hiloUnread ∧ (rs.foldl State.freeGpr s).cp0 = s.cp0 ∧
      (rs.foldl State.freeGpr s).haz = s.haz := by
  induction rs generalizing s with
  | nil => simp
  | cons r rs ih => simpa using ih (s.freeGpr r)

@[simp] theorem State.spoil_par (s : State) (h l : Bool) : (s.spoil h l).par = s.par := (foldl_freeGpr_hilo _ s).1
@[simp] theorem State.spoil_hi (s : State) (h l : Bool) : (s.spoil h l).hi = s.hi := (foldl_freeGpr_hilo _ s).2.1
@[simp] theorem State.spoil_lo (s : State) (h l : Bool) : (s.spoil h l).lo = s.lo := (foldl_freeGpr_hilo _ s).2.2.1
@[simp] theorem State.spoil_nextPc (s : State) (h l : Bool) : (s.spoil h l).nextPc = s.nextPc :=
  (foldl_freeGpr_hilo _ s).2.2.2.1
@[simp] theorem State.spoil_cp0 (s : State) (h l : Bool) : (s.spoil h l).cp0 = s.cp0 :=
  (foldl_freeGpr_hilo _ s).2.2.2.2.2.1
@[simp] theorem State.spoil_haz (s : State) (h l : Bool) : (s.spoil h l).haz = s.haz :=
  (foldl_freeGpr_hilo _ s).2.2.2.2.2.2
@[simp] theorem State.spoil_hiloUnread (s : State) (h l : Bool) : (s.spoil h l).hiloUnread = s.hiloUnread :=
  (foldl_freeGpr_hilo _ s).2.2.2.2.1

/-- A register that no spoiled read went to keeps its value, and so does register 0. -/
theorem spoil_gprVal (s : State) (h l : Bool) {r : RegNum} (hr : r ∉ s.spoiled h l ∨ r = 0#5) :
    (s.spoil h l).gprVal r = s.gprVal r := by
  rcases hr with hr | rfl
  · exact (frame_spoil (w := { gpr := s.spoiled h l }) s h l fun _ h => h).gpr r hr
  · rw [gprVal_zero, gprVal_zero]

/-- What is read from a register after the spoiling is what was there, but for the spoiled ones. -/
theorem reads_of_spoil {s : State} {h l : Bool} {r : RegNum} {v : DWord} (hv : (s.spoil h l).Reads r v) :
    s.ReadsUnspoiled h l r v := fun hr hs => by
  have e : (s.spoil h l).Settled r := by unfold State.Settled; rw [State.spoil_haz]; exact hs
  rw [hv e, spoil_gprVal s h l hr]

@[simp] theorem State.skip_spoiled (s : State) (n : Nat) (h l : Bool) : (s.skip n).spoiled h l = s.spoiled h l := rfl

theorem frame_putHilo (s : State) (h l : DWord) {w : Touch} (hw : w.hilo = true) : Frame w s (s.putHilo h l) where
  gpr q _ := gprVal_congr rfl rfl q
  mem a _ := rfl
  hilo e := by simp [hw] at e
  cp0 _ := by simp
  fpu _ := rfl
  link _ := ⟨rfl, rfl⟩
  rest := by simp

theorem frame_setHi (s : State) (v : DWord) {w : Touch} (hw : w.hilo = true) : Frame w s (s.setHi v) where
  gpr q _ := gprVal_congr rfl rfl q
  mem a _ := rfl
  hilo e := by simp [hw] at e
  cp0 _ := by simp
  fpu _ := rfl
  link _ := ⟨rfl, rfl⟩
  rest := by simp

theorem frame_setLo (s : State) (v : DWord) {w : Touch} (hw : w.hilo = true) : Frame w s (s.setLo v) where
  gpr q _ := gprVal_congr rfl rfl q
  mem a _ := rfl
  hilo e := by simp [hw] at e
  cp0 _ := by simp
  fpu _ := rfl
  link _ := ⟨rfl, rfl⟩
  rest := by simp

/-- A change of coprocessor 1 alone. -/
theorem frame_fpu {s t : State} (f : Fpu) (h : SameMachine { s with fpu := f } t) {w : Touch} (hw : w.fpu = true) :
    Frame w s t where
  gpr q _ := gprVal_congr h.par h.gpr q
  mem a _ := by rw [h.mem]
  hilo _ := ⟨h.hi, h.lo⟩
  cp0 _ := ⟨h.cp0, h.tlb64, h.tlb48, h.timerIrq, h.halted⟩
  fpu e := by simp [hw] at e
  link _ := ⟨h.llBit, h.link⟩
  rest := ⟨h.par, h.icache, h.dcache, h.watchI, h.watchD, h.inp⟩

/-- A return from an exception loses HI and LO where R1122 says so, and else nothing. -/
theorem frame_returnHilo (s : State) {w : Touch} (hw : s.haz.hiloBroken = true → w.hilo = true) :
    Frame w s s.returnHilo where
  gpr q _ := gprVal_congr (by simp) (by simp) q
  mem a _ := by simp
  hilo e := by
    unfold State.returnHilo
    rw [if_neg (by intro g; rw [hw g] at e; exact absurd e (by simp))]
    exact ⟨rfl, rfl⟩
  cp0 _ := by simp
  fpu _ := by simp
  link _ := by simp
  rest := by simp

/-- A change of coprocessor 0, the TLB, the timer and Halt alone. -/
theorem frame_cp0 {s t : State} (hp : t.par = s.par) (hg : t.gpr = s.gpr) (hm : t.mem = s.mem) (hh : t.hi = s.hi)
    (hl : t.lo = s.lo) (hf : t.fpu = s.fpu) (hll : t.llBit = s.llBit) (hk : t.link = s.link) (hi : t.icache = s.icache)
    (hd : t.dcache = s.dcache) (h1 : t.watchI = s.watchI) (h2 : t.watchD = s.watchD) (hin : t.inp = s.inp)
    {w : Touch} (hw : w.cp0 = true) : Frame w s t where
  gpr q _ := gprVal_congr hp hg q
  mem a _ := by rw [hm]
  hilo _ := ⟨hh, hl⟩
  cp0 e := by simp [hw] at e
  fpu _ := hf
  link _ := ⟨hll, hk⟩
  rest := ⟨hp, hi, hd, h1, h2, hin⟩

/-! ### The ways an instruction completes -/

/-- What advances goes on to the next instruction, whatever it did before but for nextPc. -/
theorem sequential_advance {s t : State} (h : t.nextPc = s.nextPc) : Sequential s t.advance :=
  ⟨h, by rw [← h]; rfl, rfl⟩

/-- An instruction that reads, and writes one general register. -/
theorem runSeq_putGpr {x : Op Unit} {s : State} {r : RegNum} {v : DWord} {n : Nat}
    (h : x s = .ok ((), (s.skip n).putGpr r v)) :
    ∃ t, runSeq x s = .next t ∧ (r ≠ 0#5 → t.gprVal r = s.narrow v) ∧ Frame { gpr := [r] } s t ∧ Sequential s t := by
  refine ⟨_, runSeq_ok h, fun hr => ?_, ?_, sequential_advance (by simp)⟩
  · rw [gprVal_congr (t := ((s.skip n).putGpr r v).advance) (s := (s.skip n).putGpr r v) rfl rfl, putGpr_self _ _ hr]
    rfl
  · exact ((same_skip s n).frame _).trans ((frame_putGpr _ r v (by simp)).trans ((same_advance _).frame _))

/-- An instruction that reads and changes nothing. -/
theorem runSeq_skip {x : Op Unit} {s : State} {n : Nat} (h : x s = .ok ((), s.skip n)) :
    ∃ t, runSeq x s = .next t ∧ Frame {} s t ∧ Sequential s t :=
  ⟨_, runSeq_ok h, ((same_skip s n).trans (same_advance _)).frame _, sequential_advance rfl⟩

end Sys2Proof.Machine
end

