-- ==== Sys2Proof/Laws/Alu.lean ====
section
/-! SUPPORT. What the shared operations of the arithmetic and logic instructions do: one lemma each. -/

namespace Sys2Proof.Machine

/-- Two operands read one after the other. -/
theorem read2 (rs rt : RegNum) (s : State) {β : Type} (k : DWord → DWord → Op β) :
    ∃ a b n, (do let a ← readGpr rs; let b ← readGpr rt; k a b) s = k a b (s.skip n) ∧ s.Reads rs a ∧ s.Reads rt b ∧
      s.narrow a = a ∧ s.narrow b = b := by
  obtain ⟨a, n, ha, ra, na⟩ := readGpr_reads rs s
  obtain ⟨b, m, hb, rb, nb⟩ := readGpr_reads rt (s.skip n)
  exact ⟨a, b, n + m, by rw [bind_ok ha, bind_ok hb, State.skip_skip], ra, rb, na, nb⟩

/-- One operand read. -/
theorem read1 (rs : RegNum) (s : State) {β : Type} (k : DWord → Op β) :
    ∃ a n, (do let a ← readGpr rs; k a) s = k a (s.skip n) ∧ s.Reads rs a ∧ s.narrow a = a := by
  obtain ⟨a, n, ha, ra, na⟩ := readGpr_reads rs s
  exact ⟨a, n, bind_ok ha, ra, na⟩

theorem aluRR_ok (rs rt rd : RegNum) (f : DWord → DWord → DWord) (s : State) :
    ∃ a b n, aluRR rs rt rd f s = .ok ((), (s.skip n).putGpr rd (f a b)) ∧ s.Reads rs a ∧ s.Reads rt b ∧
      s.narrow a = a ∧ s.narrow b = b :=
  read2 rs rt s fun a b => writeGpr rd (f a b)

theorem aluR_ok (rs rd : RegNum) (f : DWord → DWord) (s : State) :
    ∃ a n, aluR rs rd f s = .ok ((), (s.skip n).putGpr rd (f a)) ∧ s.Reads rs a ∧ s.narrow a = a :=
  read1 rs s fun a => writeGpr rd (f a)

/-- A 32-bit result: the sign extension of the words' result where both operands are words, else any value. -/
theorem wordResult_ok (rd : RegNum) (a b : DWord) (f : Word → Word → Word) (s : State) :
    ∃ v n, wordResult rd a b f s = .ok ((), (s.skip n).putGpr rd v) ∧
      (isWord a = true → isWord b = true → v = sext (f (lo32 a) (lo32 b))) := by
  obtain ⟨v, n, h, hv⟩ := freeIf_reads (!(isWord a && isWord b)) (sext (f (lo32 a) (lo32 b))) s
  exact ⟨v, n, bind_ok h, fun ha hb => hv (by simp [ha, hb])⟩

theorem wordRR_ok (rs rt rd : RegNum) (f : Word → Word → Word) (s : State) :
    ∃ a b v n, wordRR rs rt rd f s = .ok ((), (s.skip n).putGpr rd v) ∧ s.Reads rs a ∧ s.Reads rt b ∧
      (isWord a = true → isWord b = true → v = sext (f (lo32 a) (lo32 b))) := by
  obtain ⟨a, b, n, h, ra, rb, -, -⟩ := read2 rs rt s fun a b => wordResult rd a b f
  obtain ⟨v, m, h', hv⟩ := wordResult_ok rd a b f (s.skip n)
  exact ⟨a, b, v, n + m, by rw [← State.skip_skip]; exact h.trans h', ra, rb, hv⟩

theorem wordR_ok (rs rd : RegNum) (f : Word → Word) (s : State) :
    ∃ a v n, wordR rs rd f s = .ok ((), (s.skip n).putGpr rd v) ∧ s.Reads rs a ∧
      (isWord a = true → v = sext (f (lo32 a))) := by
  obtain ⟨a, n, h, ra, -⟩ := read1 rs s fun a => wordResult rd a 0 fun x _ => f x
  obtain ⟨v, m, h', hv⟩ := wordResult_ok rd a 0 (fun x _ => f x) (s.skip n)
  exact ⟨a, v, n + m, by rw [← State.skip_skip]; exact h.trans h', ra, fun ha => hv ha (by decide)⟩

/-- A trapping 32-bit operation on words: the result where it fits, else Integer Overflow; otherwise it ends in one of the
two ways all the same. -/
theorem wordTrapping_ok (rd : RegNum) (a b : DWord) (f : Int → Int → Int) (s : State) :
    (isWord a = true → isWord b = true → fitsInt 32 (f (lo32 a).toInt (lo32 b).toInt) = true →
      wordTrapping rd a b f s = .ok ((), s.putGpr rd (sext (BitVec.ofInt 32 (f (lo32 a).toInt (lo32 b).toInt))))) ∧
    (isWord a = true → isWord b = true → fitsInt 32 (f (lo32 a).toInt (lo32 b).toInt) = false →
      wordTrapping rd a b f s = .error (.exc .overflow s)) ∧
    ((∃ v n, wordTrapping rd a b f s = .ok ((), (s.skip n).putGpr rd v)) ∨
      ∃ n, wordTrapping rd a b f s = .error (.exc .overflow (s.skip n))) := by
  have key : isWord a = true → isWord b = true → wordTrapping rd a b f s =
      if fitsInt 32 (f (lo32 a).toInt (lo32 b).toInt) then
        .ok ((), s.putGpr rd (sext (BitVec.ofInt 32 (f (lo32 a).toInt (lo32 b).toInt))))
      else .error (.exc .overflow s) := by
    intro ha hb
    unfold wordTrapping
    rw [if_pos (by simp [ha, hb])]
    show ((raiseIf _ _) >>= _) s = _
    split
    · rename_i h; exact (bind_ok (raiseIf_ok _ _ (by simp [h]))).trans rfl
    · rename_i h; exact bind_error (raiseIf_error _ _ (by simpa using h))
  refine ⟨fun ha hb h => by rw [key ha hb, if_pos h], fun ha hb h => by rw [key ha hb, if_neg (by simp [h])], ?_⟩
  by_cases hw : isWord a = true ∧ isWord b = true
  · rw [key hw.1 hw.2]
    split
    · exact Or.inl ⟨_, 0, rfl⟩
    · exact Or.inr ⟨0, rfl⟩
  · unfold wordTrapping
    rw [if_neg (by simpa using hw)]
    by_cases hb : bit s.free 0 = true
    · exact Or.inr ⟨1, (bind_ok (x := fresh) rfl).trans (bind_error (raiseIf_error _ _ hb))⟩
    · exact Or.inl ⟨s.useFree.free, 2, (bind_ok (x := fresh) rfl).trans
        ((bind_ok (raiseIf_ok _ _ (by simpa using hb))).trans rfl)⟩

theorem dwordTrapping_ok (rd : RegNum) (a b : DWord) (f : Int → Int → Int) (s : State) :
    (fitsInt 64 (f a.toInt b.toInt) = true →
      dwordTrapping rd a b f s = .ok ((), s.putGpr rd (BitVec.ofInt 64 (f a.toInt b.toInt)))) ∧
    (fitsInt 64 (f a.toInt b.toInt) = false → dwordTrapping rd a b f s = .error (.exc .overflow s)) := by
  refine ⟨fun h => ?_, fun h => ?_⟩
  · exact (bind_ok (raiseIf_ok _ _ (by simp [h]))).trans rfl
  · exact bind_error (raiseIf_error _ _ (by simp [h]))

theorem fitsInt_iff (n : Nat) (x : Int) : fitsInt n x = true ↔ -(2 ^ (n - 1) : Int) ≤ x ∧ x < 2 ^ (n - 1) := by
  simp [fitsInt]

theorem dwordRR_ok (rs rt rd : RegNum) (f : DWord → DWord → DWord) (s : State) (h : s.Has64) :
    ∃ a b n, dwordRR rs rt rd f s = .ok ((), (s.skip n).putGpr rd (f a b)) ∧ s.Reads rs a ∧ s.Reads rt b := by
  obtain ⟨a, b, n, e, ra, rb, -, -⟩ := aluRR_ok rs rt rd f s
  exact ⟨a, b, n, (bind_ok (require64_ok h)).trans e, ra, rb⟩

theorem dwordR_ok (rs rd : RegNum) (f : DWord → DWord) (s : State) (h : s.Has64) :
    ∃ a n, dwordR rs rd f s = .ok ((), (s.skip n).putGpr rd (f a)) ∧ s.Reads rs a := by
  obtain ⟨a, n, e, ra, -⟩ := aluR_ok rs rd f s
  exact ⟨a, n, (bind_ok (require64_ok h)).trans e, ra⟩

/-- The members with 64-bit operations have 64-bit registers (R3, R7). -/
theorem is64_of_mips3 {s : State} (h : s.HasIsa .mips3) : s.par.cpu.is64 = true := by
  unfold State.HasIsa at h
  cases hc : s.par.cpu <;> simp_all [Cpu.isa, Isa.rank, Cpu.is64, Cpu.is30xx]

theorem State.narrow_of_mips3 {s : State} (h : s.HasIsa .mips3) (v : DWord) : s.narrow v = v := by
  unfold State.narrow; rw [if_pos (is64_of_mips3 h)]

theorem State.HasIsa.mono {s : State} {l m : Isa} (h : s.HasIsa m) (hl : l.rank ≤ m.rank) : s.HasIsa l :=
  le_trans hl h

theorem narrow_boolVal (s : State) (b : Bool) : s.narrow (boolVal b) = if b then 1 else 0 := by
  cases b <;> exact State.narrow_word (by decide)

/-- The immediate of a 32-bit operation (R361). -/
theorem lo32_sextImm (imm : BitVec 16) : lo32 (sextImm imm) = imm.signExtend 32 := by
  apply BitVec.eq_of_getLsbD_eq
  intro i hi
  have h64 : i < 64 := by omega
  simp only [lo32, sextImm, BitVec.getLsbD_setWidth, BitVec.getLsbD_signExtend, hi, h64, decide_true, Bool.true_and]

theorem isWord_sextImm (imm : BitVec 16) : isWord (sextImm imm) = true := by
  rw [isWord, beq_iff_eq, sextLo, sext]
  apply BitVec.eq_of_toInt_eq
  rw [BitVec.toInt_signExtend_of_le (by decide), lo32_sextImm, sextImm, BitVec.toInt_signExtend_of_le (by decide),
    BitVec.toInt_signExtend_of_le (by decide)]

/-! ### Logic keeps register-wide values register-wide -/

theorem narrow_bitwise {s : State} {a b : DWord} (ha : s.narrow a = a) (hb : s.narrow b = b) :
    s.narrow (a &&& b) = a &&& b ∧ s.narrow (a ||| b) = a ||| b ∧ s.narrow (a ^^^ b) = a ^^^ b ∧
      s.narrow (~~~(a ||| b)) = ~~~(a ||| b) := by
  unfold State.narrow at *
  split at ha <;> rename_i h
  · simp [h]
  · simp only [h, Bool.false_eq_true, if_false] at *
    have key : ∀ x : DWord, sextLo x = x ↔ ∀ i, 32 ≤ i → i < 64 → x.getLsbD i = x.getLsbD 31 := by
      intro x
      constructor
      · intro e i h1 h2
        rw [← e]
        simp only [sextLo, sext, lo32, BitVec.getLsbD_signExtend, h2, decide_true, Bool.true_and]
        rw [if_neg (by omega)]
        simp [BitVec.msb_eq_getLsbD_last]
      · intro e
        apply BitVec.eq_of_getLsbD_eq
        intro i hi
        simp only [sextLo, sext, lo32, BitVec.getLsbD_signExtend, hi, decide_true, Bool.true_and]
        split
        · rename_i h32; simp [h32]
        · rename_i h32
          simp [BitVec.msb_eq_getLsbD_last, e i (by omega) hi]
    rw [key] at ha hb
    refine ⟨(key _).2 ?_, (key _).2 ?_, (key _).2 ?_, (key _).2 ?_⟩ <;>
      intro i h1 h2 <;>
      simp only [BitVec.getLsbD_and, BitVec.getLsbD_or, BitVec.getLsbD_xor, BitVec.getLsbD_not, ha i h1 h2, hb i h1 h2, h2,
        decide_true, Nat.reduceLT]

theorem narrow_zeroExtended (s : State) (imm : BitVec 16) : s.narrow (imm.setWidth 64) = imm.setWidth 64 := by
  refine State.narrow_word ?_
  simp only [isWord, sextLo, sext, lo32, beq_iff_eq]
  apply BitVec.eq_of_getLsbD_eq
  intro i hi
  simp only [BitVec.getLsbD_signExtend, BitVec.getLsbD_setWidth, BitVec.msb_eq_getLsbD_last, hi, decide_true, Bool.true_and]
  split
  · rename_i h; simp [h]
  · rename_i h
    rw [BitVec.getLsbD_of_ge imm i (by omega)]
    simp

end Sys2Proof.Machine
end

