-- ==== Sys2Proof/Laws/Bits.lean ====
section
/-! SUPPORT. The bits of a word with a field, a bit or a mask written. -/

namespace Sys2Proof.Machine

/-- The bits of a word with a field written. -/
theorem getLsbD_setField {n w : Nat} (x : BitVec n) (lo : Nat) (v : BitVec w) (i : Nat) :
    (setField x lo v).getLsbD i =
      if i < n ∧ lo ≤ i ∧ i < lo + w then v.getLsbD (i - lo) else x.getLsbD i := by
  unfold setField
  simp only [BitVec.getLsbD_or, BitVec.getLsbD_and, BitVec.getLsbD_not, BitVec.getLsbD_shiftLeft,
    BitVec.getLsbD_setWidth, BitVec.getLsbD_allOnes]
  by_cases hn : i < n
  · by_cases hl : lo ≤ i
    · by_cases hw : i < lo + w
      · have h1 : i - lo < n := by omega
        have h2 : i - lo < w := by omega
        simp [hn, hl, hw, h1, h2, Nat.not_lt.mpr hl]
      · have h2 : ¬i - lo < w := by omega
        simp [hn, hl, hw, h2, BitVec.getLsbD_of_ge v (i - lo) (by omega)]
    · simp [hn, hl, Nat.lt_of_not_le hl]
  · simp [hn, BitVec.getLsbD_of_ge x i (Nat.le_of_not_lt hn)]

/-- The bits of a word with one bit written. -/
theorem getLsbD_setBit {n : Nat} (x : BitVec n) (j : Nat) (b : Bool) (i : Nat) :
    (setBit x j b).getLsbD i = if i < n ∧ i = j then b else x.getLsbD i := by
  unfold setBit
  rw [getLsbD_setField]
  by_cases h : i < n ∧ i = j
  · obtain ⟨h1, rfl⟩ := h
    simp [h1]
  · rw [if_neg h, if_neg (by omega)]

@[simp] theorem bit_setBit {n : Nat} (x : BitVec n) (j : Nat) (b : Bool) (i : Nat) :
    bit (setBit x j b) i = if i < n ∧ i = j then b else bit x i := getLsbD_setBit x j b i

theorem bit_setField {n w : Nat} (x : BitVec n) (lo : Nat) (v : BitVec w) (i : Nat) :
    bit (setField x lo v) i = if i < n ∧ lo ≤ i ∧ i < lo + w then v.getLsbD (i - lo) else bit x i :=
  getLsbD_setField x lo v i

/-- The bits of a word written through a mask. -/
theorem bit_merge {n : Nat} (m old new : BitVec n) (i : Nat) :
    bit (merge m old new) i = if bit m i then bit new i else bit old i := by
  unfold merge bit
  simp only [BitVec.getLsbD_or, BitVec.getLsbD_and, BitVec.getLsbD_not]
  by_cases hn : i < n
  · cases h : m.getLsbD i <;> simp [hn]
  · simp [BitVec.getLsbD_of_ge _ _ (Nat.le_of_not_lt hn)]

/-- A field is read back. -/
theorem extractLsb'_setField_same {n w : Nat} (x : BitVec n) (lo : Nat) (v : BitVec w) (h : lo + w ≤ n) :
    (setField x lo v).extractLsb' lo w = v := by
  apply BitVec.eq_of_getLsbD_eq
  intro i hi
  rw [BitVec.getLsbD_extractLsb', getLsbD_setField, if_pos (by omega)]
  simp [hi]

/-- Another field is as it was. -/
theorem extractLsb'_setField_other {n w : Nat} (x : BitVec n) (lo : Nat) (v : BitVec w) (k u : Nat)
    (h : k + u ≤ lo ∨ lo + w ≤ k) : (setField x lo v).extractLsb' k u = x.extractLsb' k u := by
  apply BitVec.eq_of_getLsbD_eq
  intro i hi
  rw [BitVec.getLsbD_extractLsb', BitVec.getLsbD_extractLsb', getLsbD_setField, if_neg (by omega)]

theorem extractLsb'_setBit_other {n : Nat} (x : BitVec n) (j : Nat) (b : Bool) (k u : Nat) (h : k + u ≤ j ∨ j < k) :
    (setBit x j b).extractLsb' k u = x.extractLsb' k u :=
  extractLsb'_setField_other x j (BitVec.ofBool b) k u (by omega)

/-- Two words with the same bits are equal. -/
theorem eq_of_bits {n : Nat} {x y : BitVec n} (h : ∀ i, i < n → bit x i = bit y i) : x = y :=
  BitVec.eq_of_getLsbD_eq h

end Sys2Proof.Machine
end

