-- ==== Sys2Proof/Laws/Branch.lean ====
section
/-! SUPPORT. What the shared operations of the branches do: one lemma each. -/

namespace Sys2Proof.Machine

/-- The next state of a branch. -/
theorem branched_done {s u : State} (hn : u.nextPc = s.nextPc) (hp : u.par = s.par) (hc : u.cp0 = s.cp0) (taken : Bool)
    (target : DWord) : Branched s (u.advanceBranch taken target) taken target := by
  refine ⟨hn, rfl, ?_⟩
  show (if taken then target else u.pcNorm (u.nextPc + 4)) = _
  rw [hn]
  unfold State.pcNorm State.addr64 State.mode? State.exl State.erl
  rw [hp, hc]

/-- The next state of a branch-likely. -/
theorem branchedLikely_done {s u : State} (hn : u.nextPc = s.nextPc) (hp : u.par = s.par) (hc : u.cp0 = s.cp0)
    (taken : Bool) (target : DWord) :
    BranchedLikely s (if taken then u.advanceBranch true target else u.advanceNullify) taken target := by
  cases taken
  · have e : u.pcNorm = s.pcNorm := by
      funext a; unfold State.pcNorm State.addr64 State.mode? State.exl State.erl; rw [hp, hc]
    refine ⟨?_, rfl, ?_⟩
    · show u.pcNorm (u.nextPc + 4) = _; rw [e, hn]
    · show u.pcNorm (u.nextPc + 8) = _; rw [e, hn]
  · exact branched_done hn hp hc true target

/-- The offset of a branch counts words. -/
theorem branchTarget_eq (s : State) (off : BitVec 16) :
    s.branchTarget off = s.pcNorm (s.nextPc + off.signExtend 64 * 4) := by
  unfold State.branchTarget sextImm
  congr 2
  rw [BitVec.shiftLeft_eq_mul_twoPow]
  rfl

theorem isNegative_eq (a : DWord) : isNegative a = decide (a.toInt < 0) := rfl

theorem isNotPositive_eq (a : DWord) : isNotPositive a = decide (a.toInt ≤ 0) := by
  unfold isNotPositive
  rw [Bool.eq_iff_iff]
  simp [BitVec.slt]
  constructor
  · rintro (h | rfl)
    · omega
    · decide
  · intro h
    rcases Int.lt_or_eq_of_le h with h | h
    · exact Or.inl h
    · exact Or.inr (BitVec.eq_of_toInt_eq (by simpa using h))

/-- A branch, as an operation. -/
theorem branchIf_apply (taken : Bool) (off : BitVec 16) (s : State) :
    branchIf taken off s = .ok ((), s.advanceBranch taken (s.branchTarget off)) := rfl

theorem branchLikelyIf_apply (taken : Bool) (off : BitVec 16) (s : State) :
    branchLikelyIf taken off s =
      .ok ((), if taken then s.advanceBranch true (s.branchTarget off) else s.advanceNullify) := rfl

/-- A jump or branch that is not being restarted over its own link write goes on; all it notes is for its slot (R623). -/
theorem restartable_ok {rs rd : RegNum} {s : State} (h : s.Restarts rs rd = false) :
    ∃ t, restartable rs rd s = .ok ((), t) ∧ (t = s ∨ t = s.noteLinkSlot) := by
  have h := of_decide_eq_false h
  unfold restartable
  split
  · rename_i g
    rw [if_neg fun e => h ⟨g, e⟩]
    exact ⟨_, rfl, Or.inr rfl⟩
  · exact ⟨_, rfl, Or.inl rfl⟩

theorem restartable_refuses {rs rd : RegNum} {s : State} (h : s.Restarts rs rd = true) :
    restartable rs rd s = .error (.refused .linkNotRestartable) := by
  obtain ⟨h1, h2⟩ := of_decide_eq_true h
  unfold restartable
  rw [if_pos h1, if_pos h2]

theorem writeLink_apply (rd : RegNum) (s : State) : writeLink rd s = .ok ((), s.putGpr rd s.linkValue) := rfl

end Sys2Proof.Machine
end

