-- ==== Sys2Proof/Laws/Exception.lean ====
section
/-! SUPPORT. What taking an exception does, register by register. -/

namespace Sys2Proof.Machine

/-- Taking an exception by the common entry changes coprocessor 0 and the program counter, and uses up one free value. -/
theorem takeException_eq {e : Exc} (he : e.common = true) (s : State) :
    takeException e s = { s.useFree with cp0 := s.cp0After e }.gotoWith (s.vector e) s.trapHaz := by
  cases e <;> first | exact Bool.noConfusion he | rfl

/-- Taking an exception touches coprocessor 0 only. -/
theorem frame_takeException (e : Exc) (s : State) {w : Touch} (hw : w.cp0 = true) : Frame w s (takeException e s) := by
  cases he : e.common
  · cases e with
    | tlbShutdown => refine frame_cp0 (by rfl) ?_ ?_ ?_ ?_ ?_ ?_ ?_ ?_ ?_ ?_ ?_ ?_ hw <;> rfl
    | cacheError info => refine frame_cp0 (by rfl) ?_ ?_ ?_ ?_ ?_ ?_ ?_ ?_ ?_ ?_ ?_ ?_ hw <;> rfl
    | _ => exact Bool.noConfusion he
  · rw [takeException_eq he]
    refine frame_cp0 (by rfl) ?_ ?_ ?_ ?_ ?_ ?_ ?_ ?_ ?_ ?_ ?_ ?_ hw <;> rfl

/-- The bits of Cause after an exception, but for the R4650's IW and DW. -/
theorem bit_causeAfter (s : State) (e : Exc) (i : Nat) (h24 : i ≠ 24) (h25 : i ≠ 25) :
    bit (s.causeAfter e) i =
      if i = 31 then (if !s.par.cpu.is30xx && s.exl then bit s.cp0.cause 31 else s.inDelay)
      else if 28 ≤ i ∧ i < 30 then (e.ce s.free).getLsbD (i - 28)
      else if 2 ≤ i ∧ i < 7 then e.code.getLsbD (i - 2)
      else bit s.cp0.cause i := by
  have base : ∀ c : Word, c = (if !s.par.cpu.is30xx && s.exl then setField (setField s.cp0.cause 2 e.code) 28 (e.ce s.free)
      else setBit (setField (setField s.cp0.cause 2 e.code) 28 (e.ce s.free)) 31 s.inDelay) → bit c i =
      if i = 31 then (if !s.par.cpu.is30xx && s.exl then bit s.cp0.cause 31 else s.inDelay)
      else if 28 ≤ i ∧ i < 30 then (e.ce s.free).getLsbD (i - 28)
      else if 2 ≤ i ∧ i < 7 then e.code.getLsbD (i - 2)
      else bit s.cp0.cause i := by
    rintro c rfl
    have fields : bit (setField (setField s.cp0.cause 2 e.code) 28 (e.ce s.free)) i =
        if 28 ≤ i ∧ i < 30 then (e.ce s.free).getLsbD (i - 28)
        else if 2 ≤ i ∧ i < 7 then e.code.getLsbD (i - 2) else bit s.cp0.cause i := by
      rw [bit_setField, bit_setField]
      by_cases h1 : 28 ≤ i ∧ i < 30
      · rw [if_pos (by omega), if_pos h1]
      · rw [if_neg (by omega), if_neg h1]
        by_cases h2 : 2 ≤ i ∧ i < 7
        · rw [if_pos (by omega), if_pos h2]
        · rw [if_neg (by omega), if_neg h2]
    by_cases h31 : i = 31
    · subst h31
      rw [if_pos rfl]
      split
      · rw [bit_setField, bit_setField, if_neg (by omega), if_neg (by omega)]
      · rw [bit_setBit, if_pos (by omega)]
    · rw [if_neg h31]
      split
      · exact fields
      · rw [bit_setBit, if_neg (by omega)]; exact fields
  unfold State.causeAfter
  dsimp only
  generalize hc : (if !s.par.cpu.is30xx && s.exl then setField (setField s.cp0.cause 2 e.code) 28 (e.ce s.free)
    else setBit (setField (setField s.cp0.cause 2 e.code) 28 (e.ce s.free)) 31 s.inDelay) = c
  have hb := base c hc.symm
  split
  · split
    · rw [bit_setBit, if_neg (by omega), bit_setBit, if_neg (by omega)]; exact hb
    · rw [bit_setField, if_neg (by omega)]; exact hb
  · exact hb

/-- ExcCode after an exception. -/
theorem causeAfter_code (s : State) (e : Exc) : (s.causeAfter e).extractLsb' 2 5 = e.code := by
  apply BitVec.eq_of_getLsbD_eq
  intro i hi
  have := bit_causeAfter s e (2 + i) (by omega) (by omega)
  unfold bit at this
  rw [BitVec.getLsbD_extractLsb', this, if_neg (by omega), if_neg (by omega), if_pos (by omega)]
  simp [hi]

/-- CE after a Coprocessor Unusable exception. -/
theorem causeAfter_ce (s : State) (z : BitVec 2) :
    (s.causeAfter (.coprocessorUnusable z)).extractLsb' 28 2 = z := by
  apply BitVec.eq_of_getLsbD_eq
  intro i hi
  have := bit_causeAfter s (.coprocessorUnusable z) (28 + i) (by omega) (by omega)
  unfold bit at this
  rw [BitVec.getLsbD_extractLsb', this, if_neg (by omega), if_pos (by omega)]
  simp [hi, Exc.ce]

/-- BD after an exception. -/
theorem causeAfter_bd (s : State) (e : Exc) : bit (s.causeAfter e) 31 =
    if !s.par.cpu.is30xx && s.exl then bit s.cp0.cause 31 else s.inDelay := by
  rw [bit_causeAfter s e 31 (by omega) (by omega), if_pos rfl]

/-- SR after an exception on an R30xx: the three pairs move up. -/
theorem bit_srAfter_30xx {s : State} (h : s.par.cpu.is30xx = true) (i : Nat) :
    bit s.srAfter i = if i < 2 then false else if i < 6 then bit s.cp0.sr (i - 2) else bit s.cp0.sr i := by
  unfold State.srAfter
  rw [if_pos h, bit_setField]
  by_cases h6 : i < 6
  · rw [if_pos (by omega), BitVec.getLsbD_append]
    by_cases h2 : i < 2
    · simp [h2]
    · simp only [Nat.sub_zero, h2, if_false, if_pos h6, bit, BitVec.getLsbD_extractLsb']
      rw [decide_eq_true (show i - 2 < 4 by omega)]
      simp
  · rw [if_neg (by omega), if_neg (by omega), if_neg h6]

/-- SR after an exception on an R4xxx or R5000: EXL is set. -/
theorem bit_srAfter_4xxx {s : State} (h : s.par.cpu.is30xx = false) (i : Nat) :
    bit s.srAfter i = if i = 1 then true else bit s.cp0.sr i := by
  unfold State.srAfter
  rw [if_neg (by simp [h]), bit_setBit]
  by_cases hi : i = 1
  · rw [if_pos (by omega), if_pos hi]
  · rw [if_neg (by omega), if_neg hi]

end Sys2Proof.Machine
end

