-- ==== Sys2Proof/Laws/Fpu.lean ====
section
/-! SUPPORT. What the shared operations on floating-point registers and FCR31 do: what they change, that they change
nothing else of the machine, and what a computational instruction delivers. -/

namespace Sys2Proof.Machine

/-! ### Steps within coprocessor 1 -/

/-- From `s` to `t` nothing changes but coprocessor 1 and the model's records; control and the hazards the instruction
meets stay. -/
structure FpuStep (s t : State) : Prop where
  same : SameMachine { s with fpu := t.fpu } t
  pc : t.pc = s.pc
  nextPc : t.nextPc = s.nextPc
  inDelay : t.inDelay = s.inDelay
  haz : t.haz = s.haz

namespace FpuStep

theorem refl (s : State) : FpuStep s s := ⟨by constructor <;> rfl, rfl, rfl, rfl, rfl⟩

theorem trans {s t u : State} (a : FpuStep s t) (b : FpuStep t u) : FpuStep s u where
  same := by
    obtain ⟨⟨h1, h2, h3, h4, h5, h6, h7, h8, h9, -, h11, h12, h13, h14, h15, h16, h17, h18⟩, -, -, -, -⟩ := a
    obtain ⟨⟨g1, g2, g3, g4, g5, g6, g7, g8, g9, -, g11, g12, g13, g14, g15, g16, g17, g18⟩, -, -, -, -⟩ := b
    exact ⟨g1.trans h1, g2.trans h2, g3.trans h3, g4.trans h4, g5.trans h5, g6.trans h6, g7.trans h7, g8.trans h8,
      g9.trans h9, rfl, g11.trans h11, g12.trans h12, g13.trans h13, g14.trans h14, g15.trans h15, g16.trans h16,
      g17.trans h17, g18.trans h18⟩
  pc := b.pc.trans a.pc
  nextPc := b.nextPc.trans a.nextPc
  inDelay := b.inDelay.trans a.inDelay
  haz := b.haz.trans a.haz

theorem par {s t : State} (h : FpuStep s t) : t.par = s.par := h.same.par
theorem cp0 {s t : State} (h : FpuStep s t) : t.cp0 = s.cp0 := h.same.cp0

theorem frame {s t : State} (h : FpuStep s t) {w : Touch} (hw : w.fpu = true) : Frame w s t :=
  frame_fpu t.fpu h.same hw

theorem frame_advance {s t : State} (h : FpuStep s t) {w : Touch} (hw : w.fpu = true) : Frame w s t.advance :=
  (h.frame hw).trans ((same_advance t).frame w)

theorem sequential {s t : State} (h : FpuStep s t) : Sequential s t.advance := sequential_advance h.nextPc

end FpuStep

theorem fpuStep_useFree (s : State) : FpuStep s s.useFree := ⟨by constructor <;> rfl, rfl, rfl, rfl, rfl⟩
theorem fpuStep_setFgr (s : State) (r : RegNum) (v : DWord) : FpuStep s (s.setFgr r v) :=
  ⟨by constructor <;> rfl, rfl, rfl, rfl, rfl⟩
theorem fpuStep_setFgrLo (s : State) (r : RegNum) (v : DWord) : FpuStep s (s.setFgrLo r v) := fpuStep_setFgr _ _ _
theorem fpuStep_setTag (s : State) (r : RegNum) (t : FprTag) : FpuStep s (s.setTag r t) :=
  ⟨by constructor <;> rfl, rfl, rfl, rfl, rfl⟩
theorem fpuStep_setRaw (s : State) (r : RegNum) : FpuStep s (s.setRaw r) :=
  (fpuStep_setTag _ _ _).trans (fpuStep_setTag _ _ _)
theorem fpuStep_setFormat (s : State) (r : RegNum) (f : Fmt) : FpuStep s (s.setFormat r f) := by
  unfold State.setFormat; dsimp only; split
  · exact fpuStep_setTag _ _ _
  · exact (fpuStep_setTag _ _ _).trans (fpuStep_setTag _ _ _)
theorem fpuStep_setFcr31 (s : State) (v : Word) : FpuStep s (s.setFcr31 v) :=
  ⟨by constructor <;> rfl, rfl, rfl, rfl, rfl⟩
theorem fpuStep_setFcc (s : State) (cc : BitVec 3) (b : Bool) : FpuStep s (s.setFcc cc b) := fpuStep_setFcr31 _ _
theorem fpuStep_skip (s : State) (n : Nat) : FpuStep s (s.skip n) := ⟨by constructor <;> rfl, rfl, rfl, rfl, rfl⟩
theorem fpuStep_delayFgr (s : State) (l : Isa) (rs : List RegNum) : FpuStep s (s.delayFgr l rs) := by
  unfold State.delayFgr; split
  · exact ⟨by constructor <;> rfl, rfl, rfl, rfl, rfl⟩
  · exact .refl s
theorem fpuStep_delayCond (s : State) (n : Nat) : FpuStep s (s.delayCond n) := by
  unfold State.delayCond; split
  · exact .refl s
  · exact ⟨by constructor <;> rfl, rfl, rfl, rfl, rfl⟩

/-! ### What depends on the member and on SR alone -/

theorem FpuStep.fr {s t : State} (h : FpuStep s t) : t.fr = s.fr := by unfold State.fr; rw [h.par, h.cp0]
theorem FpuStep.wideFgr {s t : State} (h : FpuStep s t) : t.wideFgr = s.wideFgr := by
  unfold State.wideFgr; rw [h.par, h.fr]
theorem FpuStep.singleFgr {s t : State} (h : FpuStep s t) : t.singleFgr = s.singleFgr := by
  unfold State.singleFgr; rw [h.par, h.fr, h.wideFgr]
theorem FpuStep.fprOf {s t : State} (h : FpuStep s t) (r : RegNum) : t.fprOf r = s.fprOf r := by
  unfold State.fprOf; rw [h.singleFgr]
theorem FpuStep.fgrHazard {s t : State} (h : FpuStep s t) (rs : List RegNum) : t.fgrHazard rs = s.fgrHazard rs := by
  unfold State.fgrHazard; rw [h.haz]
theorem FpuStep.doubleRegs {s t : State} (h : FpuStep s t) (r : RegNum) : t.doubleRegs r = s.doubleRegs r := by
  unfold State.doubleRegs; rw [h.wideFgr]
theorem FpuStep.fprRegs {s t : State} (h : FpuStep s t) (r : RegNum) (f : Fmt) : t.fprRegs r f = s.fprRegs r f := by
  unfold State.fprRegs; rw [h.doubleRegs]
theorem FpuStep.ccOf {s t : State} (h : FpuStep s t) (cc : BitVec 3) : t.ccOf cc = s.ccOf cc := by
  unfold State.ccOf; rw [h.par]

/-! ### Registers -/

@[simp] theorem setFgr_fgr (s : State) (r q : RegNum) (v : DWord) :
    (s.setFgr r v).fgr q = if q = r then v else s.fgr q := by
  unfold State.fgr State.setFgr
  by_cases h : q = r
  · subst h; simp
  · simp only [h, if_false]
    rw [Vector.getElem_set_ne]
    intro e; exact h (BitVec.eq_of_toNat_eq e.symm)

@[simp] theorem setFgr_fcr31 (s : State) (r : RegNum) (v : DWord) : (s.setFgr r v).fpu.fcr31 = s.fpu.fcr31 := rfl
@[simp] theorem setFgrLo_fcr31 (s : State) (r : RegNum) (v : DWord) : (s.setFgrLo r v).fpu.fcr31 = s.fpu.fcr31 := rfl
@[simp] theorem setTag_fcr31 (s : State) (r : RegNum) (t : FprTag) : (s.setTag r t).fpu.fcr31 = s.fpu.fcr31 := rfl
@[simp] theorem setTag_fpuFgr (s : State) (r : RegNum) (t : FprTag) : (s.setTag r t).fpu.fgr = s.fpu.fgr := rfl
@[simp] theorem setTag_fgr (s : State) (r q : RegNum) (t : FprTag) : (s.setTag r t).fgr q = s.fgr q := rfl
@[simp] theorem setRaw_fcr31 (s : State) (r : RegNum) : (s.setRaw r).fpu.fcr31 = s.fpu.fcr31 := rfl
@[simp] theorem setRaw_fpuFgr (s : State) (r : RegNum) : (s.setRaw r).fpu.fgr = s.fpu.fgr := rfl
@[simp] theorem setRaw_fgr (s : State) (r q : RegNum) : (s.setRaw r).fgr q = s.fgr q := rfl
@[simp] theorem setFormat_fcr31 (s : State) (r : RegNum) (f : Fmt) : (s.setFormat r f).fpu.fcr31 = s.fpu.fcr31 := by
  unfold State.setFormat; dsimp only; split <;> rfl
@[simp] theorem setFormat_fgr (s : State) (r q : RegNum) (f : Fmt) : (s.setFormat r f).fgr q = s.fgr q := by
  unfold State.setFormat; dsimp only; split <;> rfl
@[simp] theorem setFcr31_fcr31 (s : State) (v : Word) : (s.setFcr31 v).fpu.fcr31 = v := rfl
@[simp] theorem setFcr31_fpuFgr (s : State) (v : Word) : (s.setFcr31 v).fpu.fgr = s.fpu.fgr := rfl
@[simp] theorem setFcr31_fgr (s : State) (v : Word) (q : RegNum) : (s.setFcr31 v).fgr q = s.fgr q := rfl
@[simp] theorem useFree_fgr (s : State) (q : RegNum) : s.useFree.fgr q = s.fgr q := rfl
@[simp] theorem skip_fgr (s : State) (n : Nat) (q : RegNum) : (s.skip n).fgr q = s.fgr q := rfl
@[simp] theorem advance_fgr (s : State) (q : RegNum) : s.advance.fgr q = s.fgr q := rfl
@[simp] theorem delayFgr_fpu (s : State) (l : Isa) (rs : List RegNum) : (s.delayFgr l rs).fpu = s.fpu := by
  unfold State.delayFgr; split <;> rfl
@[simp] theorem delayFgr_fgr (s : State) (l : Isa) (rs : List RegNum) (q : RegNum) :
    (s.delayFgr l rs).fgr q = s.fgr q := by unfold State.fgr; simp

@[simp] theorem setTag_wideFgr (s : State) (r : RegNum) (t : FprTag) : (s.setTag r t).wideFgr = s.wideFgr := rfl
@[simp] theorem setFormat_wideFgr (s : State) (r : RegNum) (f : Fmt) : (s.setFormat r f).wideFgr = s.wideFgr :=
  (fpuStep_setFormat s r f).wideFgr
@[simp] theorem setFormat_fgrDouble (s : State) (r q : RegNum) (f : Fmt) :
    (s.setFormat r f).fgrDouble q = s.fgrDouble q := by simp [State.fgrDouble]
@[simp] theorem setFgr_wideFgr (s : State) (r : RegNum) (v : DWord) : (s.setFgr r v).wideFgr = s.wideFgr := rfl
@[simp] theorem setFgrLo_wideFgr (s : State) (r : RegNum) (v : DWord) : (s.setFgrLo r v).wideFgr = s.wideFgr := rfl
@[simp] theorem useFree_wideFgr (s : State) : s.useFree.wideFgr = s.wideFgr := rfl

@[simp] theorem setFgrLo_fgr_ne (s : State) {r q : RegNum} (v : DWord) (h : q ≠ r) :
    (s.setFgrLo r v).fgr q = s.fgr q := by simp [State.setFgrLo, h]

@[simp] theorem lo32_append (a b : Word) : lo32 (a ++ b) = b := by
  apply BitVec.eq_of_getLsbD_eq
  intro i hi
  have h := BitVec.getLsbD_append (x := a) (y := b) (i := i)
  simp only [hi, if_true] at h
  simp only [lo32, BitVec.getLsbD_setWidth, hi, decide_true, Bool.true_and]
  exact h

@[simp] theorem setFgrLo_fgr_self (s : State) (r : RegNum) (v : DWord) : lo32 ((s.setFgrLo r v).fgr r) = lo32 v := by
  simp [State.setFgrLo]

/-- Only pairs with an even first register are pairs. -/
theorem partner_ne {r : RegNum} (h : bit r 0 = false) : r ≠ partner r := by
  intro e
  have := congrArg (fun x => bit x 0) e
  simp [partner, bit] at this h
  simp [h] at this

theorem partner_mask (r q : RegNum) (h : q &&& 30#5 ≠ r &&& 30#5) : q ≠ partner r := by
  rintro rfl
  apply h
  unfold partner
  revert r
  decide

theorem bit_even : ∀ r : RegNum, bit (r &&& 30#5) 0 = false := by decide
theorem even_even : ∀ r : RegNum, r &&& 30#5 &&& 30#5 = r &&& 30#5 := by decide
theorem partner_even : ∀ r : RegNum, partner (r &&& 30#5) &&& 30#5 = r &&& 30#5 := by unfold partner; decide

theorem setFgrWord_step (s : State) (r : RegNum) (v : DWord) : FpuStep s (s.setFgrWord r v) := by
  unfold State.setFgrWord
  dsimp only
  split
  · exact ((fpuStep_useFree s).trans (fpuStep_setFgr _ _ _)).trans (fpuStep_setRaw _ _)
  · exact (fpuStep_setFgrLo _ _ _).trans (fpuStep_setRaw _ _)

/-- A word written to an FGR: its low half, no other FGR, and not FCR31. -/
theorem setFgrWord_spec (s : State) (r : RegNum) (v : DWord) :
    lo32 ((s.setFgrWord r v).fgr r) = lo32 v ∧ (∀ q, q ≠ r → (s.setFgrWord r v).fgr q = s.fgr q) ∧
      (s.setFgrWord r v).fpu.fcr31 = s.fpu.fcr31 := by
  unfold State.setFgrWord
  dsimp only
  split
  · refine ⟨by simp, fun q h => by simp [h], rfl⟩
  · refine ⟨by simp, fun q h => by simp [h], rfl⟩

theorem setFgrDouble_step (s : State) (r : RegNum) (v : DWord) : FpuStep s (s.setFgrDouble r v) := by
  unfold State.setFgrDouble
  dsimp only
  split
  · exact (fpuStep_setFgr _ _ _).trans (fpuStep_setRaw _ _)
  · exact (((fpuStep_setFgrLo _ _ _).trans (fpuStep_setFgrLo _ _ _)).trans (fpuStep_setRaw _ _)).trans
      (fpuStep_setRaw _ _)

theorem setFgrDouble_fcr31 (s : State) (r : RegNum) (v : DWord) : (s.setFgrDouble r v).fpu.fcr31 = s.fpu.fcr31 := by
  unfold State.setFgrDouble
  dsimp only
  split <;> rfl

theorem doubleword_halves (v : DWord) : lo32 (v >>> 32) ++ lo32 v = v := by
  unfold lo32
  apply BitVec.eq_of_getLsbD_eq
  intro i hi
  simp only [BitVec.getLsbD_append, BitVec.getLsbD_setWidth, BitVec.getLsbD_ushiftRight]
  by_cases h : i < 32
  · simp [h]
  · simp only [h, if_false]
    rw [show 32 + (i - 32) = i by omega]
    simp; omega

/-- A doubleword written to an FGR or a pair: it reads back, and the other FGRs keep their values. -/
theorem setFgrDouble_spec (s : State) (r : RegNum) (v : DWord) (h : s.wideFgr = true ∨ bit r 0 = false) :
    (s.setFgrDouble r v).fgrDouble r = v ∧
      ∀ q, q ≠ r → (s.wideFgr = true ∨ q ≠ partner r) → (s.setFgrDouble r v).fgr q = s.fgr q := by
  have hw : (s.setFgrDouble r v).wideFgr = s.wideFgr := (setFgrDouble_step s r v).wideFgr
  unfold State.fgrDouble
  rw [hw]
  unfold State.setFgrDouble
  dsimp only
  cases hs : s.wideFgr
  · have hr : bit r 0 = false := by simpa [hs] using h
    have hp := partner_ne hr
    refine ⟨?_, fun q h1 h2 => ?_⟩
    · simp only [Bool.false_eq_true, if_false, setRaw_fgr, setFgrLo_fgr_self]
      rw [setFgrLo_fgr_ne _ _ (Ne.symm hp), setFgrLo_fgr_self]
      exact doubleword_halves v
    · have h3 : q ≠ partner r := by simpa using h2
      simp [h1, h3]
  · exact ⟨by simp, fun q h1 _ => by simp [h1]⟩

/-! ### Formatted registers -/

/-- The format and the number are such that an FPR takes the value (R896, R897). -/
def State.FprFits (s : State) (r : RegNum) (f : Fmt) : Prop := fmtAbsent s.par.cpu f = false ∧ s.validFpr r = true

theorem FpuStep.fprFits {s t : State} (h : FpuStep s t) {r : RegNum} {f : Fmt} (g : s.FprFits r f) : t.FprFits r f := by
  unfold State.FprFits State.validFpr
  rw [h.par, h.singleFgr]
  exact g

theorem setFpr_step (s : State) (r : RegNum) (f : Fmt) (v : DWord) : FpuStep s (s.setFpr r f v) := by
  unfold State.setFpr
  refine .trans ?_ (fpuStep_setFormat _ _ _)
  split
  · exact setFgrDouble_step _ _ _
  · split
    · exact setFgrWord_step _ _ _
    · split
      · exact fpuStep_setFgrLo _ _ _
      · exact ((fpuStep_useFree s).trans (fpuStep_setFgrLo _ _ _)).trans (fpuStep_setFgrLo _ _ _)

/-- StoreFPR: the FPR holds the value, the other FGRs and FCR31 are kept. -/
theorem setFpr_spec (s : State) (r : RegNum) (f : Fmt) (v : DWord) (h : s.FprFits r f) :
    (s.setFpr r f v).HoldsFpr r f v ∧ FgrsKept s (s.setFpr r f v) r ∧
      (s.setFpr r f v).fpu.fcr31 = s.fpu.fcr31 := by
  obtain ⟨ha, hv⟩ := h
  unfold State.HoldsFpr FgrsKept State.setFpr
  dsimp only
  simp only [setFormat_fgr, setFormat_fgrDouble, setFormat_fcr31]
  cases hf : f.wide
  · simp only [Bool.false_eq_true, if_false]
    split
    · obtain ⟨h1, h2, h3⟩ := setFgrWord_spec s r v
      exact ⟨h1, fun q hq _ => h2 q hq, h3⟩
    · split
      · exact ⟨by simp, fun q hq _ => by simp [hq], rfl⟩
      · rename_i hs
        refine ⟨by simp, fun q hq hp => ?_, rfl⟩
        have hp : q ≠ partner r := by
          rcases hp with hp | hp
          · exact absurd hp hs
          · exact hp
        simp [hq, hp]
  · have h4 : s.par.cpu.is4650 = false := by simpa [fmtAbsent, hf] using ha
    have hs : s.singleFgr = s.wideFgr := by simp [State.singleFgr, h4]
    have hw : s.wideFgr = true ∨ bit r 0 = false := by simpa [State.validFpr, hs] using hv
    obtain ⟨h1, h2⟩ := setFgrDouble_spec s r v hw
    refine ⟨h1, fun q hq hp => h2 q hq (hs ▸ hp), setFgrDouble_fcr31 s r v⟩

/-- The value an FPR holds is seen through any further change of coprocessor 1 that keeps the FGRs. -/
theorem holdsFpr_congr {s t : State} (h : FpuStep s t) (hf : ∀ q, t.fgr q = s.fgr q) {r : RegNum} {f : Fmt} {v : DWord}
    (g : s.HoldsFpr r f v) : t.HoldsFpr r f v := by
  unfold State.HoldsFpr State.fgrDouble at *
  rw [h.wideFgr, hf, hf]
  exact g

theorem holdsFpr_advance {s : State} {r : RegNum} {f : Fmt} {v : DWord} (g : s.HoldsFpr r f v) :
    s.advance.HoldsFpr r f v := g

/-- A formatted operand that is settled: its value; the contents are of its format from now on (R823, R831, R871). -/
theorem readFpr_ok {s : State} {r : RegNum} {f : Fmt} (h : s.fgrHazard (s.fprRegs r f) = false) :
    readFpr r f s = .ok (s.fprVal r f, s.setTag r f.tag) := by
  unfold readFpr
  rw [if_neg (by simp [h])]

/-- In any case a formatted operand is some value, and nothing but the tag and the counter changes. -/
theorem readFpr_any (s : State) (r : RegNum) (f : Fmt) :
    ∃ v n, readFpr r f s = .ok (v, (s.setTag r f.tag).skip n) := by
  unfold readFpr
  split
  · exact ⟨_, 1, rfl⟩
  · exact ⟨_, 0, rfl⟩

@[simp] theorem setTag_fprVal (s : State) (r q : RegNum) (t : FprTag) (f : Fmt) :
    (s.setTag r t).fprVal q f = s.fprVal q f := rfl
@[simp] theorem setTag_fgrHazard (s : State) (r : RegNum) (t : FprTag) (rs : List RegNum) :
    (s.setTag r t).fgrHazard rs = s.fgrHazard rs := rfl
@[simp] theorem setTag_fprRegs (s : State) (r q : RegNum) (t : FprTag) (f : Fmt) :
    (s.setTag r t).fprRegs q f = s.fprRegs q f := rfl
@[simp] theorem skip_fprVal (s : State) (n : Nat) (q : RegNum) (f : Fmt) : (s.skip n).fprVal q f = s.fprVal q f := rfl
@[simp] theorem skip_fgrHazard (s : State) (n : Nat) (rs : List RegNum) :
    (s.skip n).fgrHazard rs = s.fgrHazard rs := rfl
@[simp] theorem skip_fprRegs (s : State) (n : Nat) (q : RegNum) (f : Fmt) : (s.skip n).fprRegs q f = s.fprRegs q f := rfl

theorem readFcr31_ok {s : State} (h : s.haz.fcr ≠ some 31#5) : readFcr31 s = .ok (s.fpu.fcr31, s) := by
  unfold readFcr31
  rw [if_neg h]

/-! ### Words and doublewords of FGRs -/

theorem readFgrWord_reads (r : RegNum) (s : State) (hf : s.par.cpu.hasFpa = true) :
    ∃ v n, readFgrWord r s = .ok (v, s.skip n) ∧ (s.fgrHazard [r] = false → v = zext (lo32 (s.fgr r))) := by
  unfold readFgrWord
  split
  · rename_i h
    exact ⟨_, 1, rfl, fun g => by simp [hf, g] at h⟩
  · exact ⟨_, 0, rfl, fun _ => rfl⟩

theorem readFgrDouble_reads (r : RegNum) (s : State) (hf : s.par.cpu.hasFpa = true) :
    ∃ v n, readFgrDouble r s = .ok (v, s.skip n) ∧
      ((s.wideFgr = true ∨ bit r 0 = false) → s.fgrHazard (s.doubleRegs r) = false → v = s.fgrDouble r) := by
  unfold readFgrDouble
  split
  · rename_i h
    refine ⟨_, 1, rfl, fun g1 g2 => ?_⟩
    rcases g1 with g1 | g1 <;> simp [hf, g1, g2] at h
  · exact ⟨_, 0, rfl, fun _ _ => rfl⟩

theorem writeFgrWord_ok (l : Isa) (r : RegNum) (v : DWord) (s : State) (hf : s.par.cpu.hasFpa = true) :
    writeFgrWord l r v s = .ok ((), (s.setFgrWord r v).delayFgr l [r]) := by
  simp [writeFgrWord, hf]

/-- A doubleword written with an FPA: as setFgrDouble, or for an odd register of a pair the pair becomes free. -/
theorem writeFgrDouble_ok (l : Isa) (r : RegNum) (v : DWord) (s : State) (hf : s.par.cpu.hasFpa = true) :
    ∃ t, writeFgrDouble l r v s = .ok ((), t) ∧ FpuStep s t ∧ t.fpu.fcr31 = s.fpu.fcr31 ∧
      ((s.wideFgr = true ∨ bit r 0 = false) → t.fgrDouble r = v) ∧
      ∀ q, q ≠ r → (s.wideFgr = true ∨ q &&& 30#5 ≠ r &&& 30#5) → t.fgr q = s.fgr q := by
  unfold writeFgrDouble
  simp only [hf, Bool.not_true, Bool.false_eq_true, if_false]
  split
  · rename_i h
    simp only [Bool.and_eq_true, Bool.not_eq_true'] at h
    have e : bit (r &&& 30#5) 0 = false := bit_even r
    have hs : s.useFree.wideFgr = false := h.1
    refine ⟨_, rfl, (fpuStep_useFree s).trans ((setFgrDouble_step _ _ _).trans (fpuStep_delayFgr _ _ _)), ?_, ?_, ?_⟩
    · simp [setFgrDouble_fcr31]
    · intro g; rcases g with g | g <;> simp [h] at g
    · intro q h1 h2
      have h2 : q &&& 30#5 ≠ r &&& 30#5 := by simpa [h.1] using h2
      rw [delayFgr_fgr]
      refine (setFgrDouble_spec s.useFree (r &&& 30#5) s.free (Or.inr e)).2 q ?_ (Or.inr ?_)
      · rintro rfl; exact h2 (even_even r)
      · rintro rfl; exact h2 (partner_even r)
  · rename_i h
    have hw : s.wideFgr = true ∨ bit r 0 = false := by
      cases h' : s.wideFgr
      · right; simpa [h'] using h
      · exact Or.inl rfl
    obtain ⟨h1, h2⟩ := setFgrDouble_spec s r v hw
    refine ⟨_, rfl, (setFgrDouble_step _ _ _).trans (fpuStep_delayFgr _ _ _), ?_, fun _ => ?_, fun q g1 g2 => ?_⟩
    · simp [setFgrDouble_fcr31]
    · unfold State.fgrDouble at *
      rw [delayFgr_fgr, delayFgr_fgr, (fpuStep_delayFgr _ _ _).wideFgr]
      exact h1
    · rw [delayFgr_fgr]
      exact h2 q g1 (g2.imp id (partner_mask r q))

/-! ### Checks of the computational instructions -/

theorem fpGate_ok {l : Isa} {s : State} (hc : s.CopUsable 1#2) (hl : s.HasIsa l) : fpGate l s = .ok ((), s) :=
  (bind_ok (requireCop_ok hc)).trans (requireIsa_ok hl)

/-- An instruction whose checks succeed runs. -/
theorem fpChecked_run {s : State} {l : Isa} {f g : Fmt} {srcs dst : List RegNum} (h : s.FpRuns l f g srcs dst)
    (undef run : Op Unit) : fpChecked f g srcs dst undef run s = run s := by
  obtain ⟨h1, -, -, h4, h5, h6, h7⟩ := h
  have odd : ((srcs ++ dst).any fun r => !s.validFpr r) = false := by
    rw [Bool.eq_false_iff]
    intro e
    obtain ⟨r, hr, hv⟩ := List.any_eq_true.mp e
    simp [h6 r hr] at hv
  have fit : (srcs.any fun r => !s.tagFits r f) = false := by
    rw [Bool.eq_false_iff]
    intro e
    obtain ⟨r, hr, hv⟩ := List.any_eq_true.mp e
    simp [h7 r hr] at hv
  unfold fpChecked
  simp [h1, h4, h5, odd, fit]

/-! ### Finishing -/

/-- Where nothing is declined and no condition trapped the flags are written, and then the result. -/
theorem fpFinish_delivers {fcr : Word} {d : Bool} {o : FpOut} {nan : DWord → DWord} {result : DWord → Op Unit} {s : State}
    (hd : d = false) (he : o.e &&& enablesOf fcr = 0) :
    fpFinish fcr d o nan result s =
      let s' := s.setFcr31 (addFlags (setCauseBits s.fpu.fcr31 o.e false) o.e)
      if o.anyNan then result (nan s.free) s'.useFree else result o.bits s' := by
  unfold fpFinish
  simp [hd, he]

/-- A condition that is enabled traps: Cause is written, Flags are not, and nothing else (R891 step 4). -/
theorem fpFinish_traps {fcr : Word} {d : Bool} {o : FpOut} {nan : DWord → DWord} {result : DWord → Op Unit} {s : State}
    (hd : d = false) (he : o.e &&& enablesOf fcr ≠ 0) :
    fpFinish fcr d o nan result s = signalFp fpMasked (s.setFcr31 (setCauseBits s.fpu.fcr31 o.e false)) := by
  unfold fpFinish
  rw [hd, if_neg (by simp), if_pos (by simpa using he)]

/-- The end of a computational instruction whose result goes to an FPR. -/
theorem fpFinish_delivered {s u : State} {fcr : Word} {d : Bool} {o : FpOut} {fd : RegNum} {g : Fmt}
    {nan : DWord → DWord} (hn : nan = nanOut g) (hs : FpuStep s u) (hr : u.fpu.fgr = s.fpu.fgr)
    (hc : u.fpu.fcr31 = s.fpu.fcr31) (hf : s.FprFits fd g) (hd : d = false) (he : o.e &&& enablesOf fcr = 0) :
    ∃ t, fpFinish fcr d o nan (writeFpr fd g) u = .ok ((), t) ∧ Delivered s t.advance fd g o := by
  subst hn
  rw [fpFinish_delivers hd he]
  have hfgr (q : RegNum) : u.fgr q = s.fgr q := by unfold State.fgr; rw [hr]
  have key (w : State) (x : DWord) (hw : FpuStep u w) (hg : ∀ q, w.fgr q = u.fgr q)
      (hv : w.fpu.fcr31 = addFlags (setCauseBits u.fpu.fcr31 o.e false) o.e) :
      (w.setFpr fd g x).advance.HoldsFpr fd g x ∧
        (w.setFpr fd g x).advance.fpu.fcr31 = addFlags (setCauseBits s.fpu.fcr31 o.e false) o.e ∧
        FgrsKept s (w.setFpr fd g x).advance fd ∧ Frame { fpu := true } s (w.setFpr fd g x).advance ∧
        Sequential s (w.setFpr fd g x).advance := by
    have hsw := hs.trans hw
    obtain ⟨h1, h2, h3⟩ := setFpr_spec w fd g x (hsw.fprFits hf)
    refine ⟨h1, ?_, fun q hq hp => ?_, (hsw.trans (setFpr_step _ _ _ _)).frame_advance rfl,
      (hsw.trans (setFpr_step _ _ _ _)).sequential⟩
    · rw [State.advance_fpu, h3, hv, hc]
    · rw [advance_fgr, h2 q hq (hsw.singleFgr ▸ hp), hg, hfgr]
  dsimp only
  split
  · rename_i ha
    obtain ⟨k1, k2, k3, k4, k5⟩ := key (u.setFcr31 (addFlags (setCauseBits u.fpu.fcr31 o.e false) o.e)).useFree
      (nanOut g u.free) ((fpuStep_setFcr31 u _).trans (fpuStep_useFree _))
      (fun _ => rfl) rfl
    refine ⟨_, rfl, ?_, k2, k3, k4, k5⟩
    rw [if_pos ha]
    exact ⟨_, k1⟩
  · rename_i ha
    obtain ⟨k1, k2, k3, k4, k5⟩ := key (u.setFcr31 (addFlags (setCauseBits u.fpu.fcr31 o.e false) o.e)) o.bits
      (fpuStep_setFcr31 u _) (fun _ => rfl) rfl
    refine ⟨_, rfl, ?_, k2, k3, k4, k5⟩
    rw [if_neg ha]
    exact k1

theorem FpRunsFits {s : State} {l : Isa} {f g : Fmt} {srcs dst : List RegNum} (h : s.FpRuns l f g srcs dst) {r : RegNum}
    (hr : r ∈ dst) : s.FprFits r g := by
  obtain ⟨-, -, -, -, h5, h6, -⟩ := h
  exact ⟨h5, h6 r (List.mem_append_right _ hr)⟩

/-! ### The shapes of computational instructions -/

/-- An instruction on one operand that delivers. -/
theorem fpUnary_delivers {s : State} {l : Isa} {f g : Fmt} {fs fd : RegNum} {extra : Params → DWord → FpOut → Bool}
    {k : Word → DWord → FpOut} (h : s.FpRuns l f g [fs] [fd]) (hs : s.FpSettled f [fs])
    (hd : s.FpDelivers (k s.fpu.fcr31 (s.fprVal fs f)) (denormIn f (s.fprVal fs f)) (nanIn f (s.fprVal fs f)) false
      (extra s.par (s.fprVal fs f) (k s.fpu.fcr31 (s.fprVal fs f)))) :
    ∃ t, runSeq (fpUnary l f g fs fd extra k) s = .next t ∧ Delivered s t fd g (k s.fpu.fcr31 (s.fprVal fs f)) := by
  obtain ⟨t, ht, hD⟩ := fpFinish_delivered (u := s.setTag fs f.tag) rfl (fpuStep_setTag s fs f.tag) rfl rfl
    (FpRunsFits h (by simp : fd ∈ [fd])) hd.1 hd.2
  refine ⟨_, runSeq_ok ((bind_ok (fpGate_ok h.2.1 h.2.2.1)).trans ((fpChecked_run h _ _).trans ?_)), hD⟩
  refine (bind_ok (readFcr31_ok hs.1)).trans ((bind_ok (readFpr_ok (hs.2 fs (by simp)))).trans ?_)
  exact ht

/-- An approximation that delivers, whatever the approximation is. -/
theorem fpApprox_delivers {s : State} {f : FFmt} {fs fd : RegNum} {k : Word → DWord → DWord → FpOut}
    (h : s.FpRuns .mips4 f.fmt f.fmt [fs] [fd]) (hs : s.FpSettled f.fmt [fs])
    (hd : ∀ x, s.FpDelivers (k s.fpu.fcr31 x (s.fprVal fs f.fmt)) (isDenorm f (s.fprVal fs f.fmt))
      (isNan f (s.fprVal fs f.fmt)) false false) :
    ∃ x t, runSeq (fpApprox f fs fd k) s = .next t ∧ Delivered s t fd f.fmt (k s.fpu.fcr31 x (s.fprVal fs f.fmt)) := by
  have hn : someQuietNan f = nanOut f.fmt := by cases f <;> rfl
  obtain ⟨t, ht, hD⟩ := fpFinish_delivered (u := s.useFree.setTag fs f.fmt.tag) hn
    ((fpuStep_useFree s).trans (fpuStep_setTag _ fs f.fmt.tag)) rfl rfl (FpRunsFits h (by simp : fd ∈ [fd]))
    (hd s.free).1 (hd s.free).2
  refine ⟨s.free, _, runSeq_ok ((bind_ok (fpGate_ok h.2.1 h.2.2.1)).trans ((fpChecked_run h _ _).trans ?_)), hD⟩
  refine (bind_ok (readFcr31_ok hs.1)).trans ((bind_ok (x := fresh) rfl).trans ?_)
  exact (bind_ok (readFpr_ok (s := s.useFree) (hs.2 fs (by simp)))).trans ht

theorem fpBinary_reads {s : State} {l : Isa} {f : FFmt} {ft fs fd : RegNum} {k : Word → DWord → DWord → FpOut}
    (h : s.FpRuns l f.fmt f.fmt [fs, ft] [fd]) (hs : s.FpSettled f.fmt [fs, ft]) :
    let a := s.fprVal fs f.fmt
    let b := s.fprVal ft f.fmt
    fpBinary l f ft fs fd k s =
      fpFinish s.fpu.fcr31 (fpDeclines s.par s.fpu.fcr31 (isDenorm f a || isDenorm f b) (isNan f a || isNan f b)
        false false (k s.fpu.fcr31 a b)) (k s.fpu.fcr31 a b) (someQuietNan f) (writeFpr fd f.fmt)
        ((s.setTag fs f.fmt.tag).setTag ft f.fmt.tag) := by
  intro a b
  refine (bind_ok (fpGate_ok h.2.1 h.2.2.1)).trans ((fpChecked_run h _ _).trans ?_)
  refine (bind_ok (readFcr31_ok hs.1)).trans ((bind_ok (readFpr_ok (hs.2 fs (by simp)))).trans ?_)
  exact (bind_ok (readFpr_ok (s := s.setTag fs f.fmt.tag) (hs.2 ft (by simp)))).trans rfl

/-- An instruction on two operands that delivers. -/
theorem fpBinary_delivers {s : State} {l : Isa} {f : FFmt} {ft fs fd : RegNum} {k : Word → DWord → DWord → FpOut}
    (h : s.FpRuns l f.fmt f.fmt [fs, ft] [fd]) (hs : s.FpSettled f.fmt [fs, ft])
    (hd : s.FpDelivers (k s.fpu.fcr31 (s.fprVal fs f.fmt) (s.fprVal ft f.fmt))
      (isDenorm f (s.fprVal fs f.fmt) || isDenorm f (s.fprVal ft f.fmt))
      (isNan f (s.fprVal fs f.fmt) || isNan f (s.fprVal ft f.fmt)) false false) :
    ∃ t, runSeq (fpBinary l f ft fs fd k) s = .next t ∧
      Delivered s t fd f.fmt (k s.fpu.fcr31 (s.fprVal fs f.fmt) (s.fprVal ft f.fmt)) := by
  have hn : someQuietNan f = nanOut f.fmt := by cases f <;> rfl
  obtain ⟨t, ht, hD⟩ := fpFinish_delivered (u := (s.setTag fs f.fmt.tag).setTag ft f.fmt.tag) hn
    ((fpuStep_setTag s _ _).trans (fpuStep_setTag _ _ _)) rfl rfl (FpRunsFits h (by simp : fd ∈ [fd])) hd.1 hd.2
  exact ⟨_, runSeq_ok ((fpBinary_reads h hs).trans ht), hD⟩

/-- A multiply-accumulate neither step of which traps delivers. -/
theorem fpTernary_delivers {s : State} {f : FFmt} {fr ft fs fd : RegNum} {k : Rm → DWord → DWord → FpOut}
    (h : s.FpRuns .mips4 f.fmt f.fmt [fr, fs, ft] [fd]) (hs : s.FpSettled f.fmt [fr, fs, ft])
    (hp : s.FpDelivers (fMul f (rmOf s.fpu.fcr31) (s.fprVal fs f.fmt) (s.fprVal ft f.fmt))
      (isDenorm f (s.fprVal fs f.fmt) || isDenorm f (s.fprVal ft f.fmt))
      (isNan f (s.fprVal fs f.fmt) || isNan f (s.fprVal ft f.fmt)) false false)
    (hd : s.FpDelivers ((k (rmOf s.fpu.fcr31) (fMul f (rmOf s.fpu.fcr31) (s.fprVal fs f.fmt) (s.fprVal ft f.fmt)).bits
      (s.fprVal fr f.fmt)).after (fMul f (rmOf s.fpu.fcr31) (s.fprVal fs f.fmt) (s.fprVal ft f.fmt)))
      (isDenorm f (s.fprVal fr f.fmt)) (isNan f (s.fprVal fr f.fmt) || isNan f (fMul f (rmOf s.fpu.fcr31)
        (s.fprVal fs f.fmt) (s.fprVal ft f.fmt)).bits) false false) :
    ∃ t, runSeq (fpTernary f fr ft fs fd k) s = .next t ∧
      Delivered s t fd f.fmt ((k (rmOf s.fpu.fcr31) (fMul f (rmOf s.fpu.fcr31) (s.fprVal fs f.fmt)
        (s.fprVal ft f.fmt)).bits (s.fprVal fr f.fmt)).after
        (fMul f (rmOf s.fpu.fcr31) (s.fprVal fs f.fmt) (s.fprVal ft f.fmt))) := by
  have hn : someQuietNan f = nanOut f.fmt := by cases f <;> rfl
  obtain ⟨t, ht, hD⟩ := fpFinish_delivered
    (u := ((s.setTag fr f.fmt.tag).setTag fs f.fmt.tag).setTag ft f.fmt.tag) hn
    (((fpuStep_setTag s _ _).trans (fpuStep_setTag _ _ _)).trans (fpuStep_setTag _ _ _)) rfl rfl
    (FpRunsFits h (by simp : fd ∈ [fd])) hd.1 hd.2
  refine ⟨_, runSeq_ok ((bind_ok (requireIsa_ok h.2.2.1)).trans ((bind_ok (requireCop_ok h.2.1)).trans
    ((fpChecked_run h _ _).trans ?_))), hD⟩
  refine (bind_ok (readFcr31_ok hs.1)).trans ((bind_ok (readFpr_ok (hs.2 fr (by simp)))).trans ?_)
  refine (bind_ok (readFpr_ok (s := s.setTag fr f.fmt.tag) (hs.2 fs (by simp)))).trans ?_
  refine (bind_ok (readFpr_ok (s := (s.setTag fr f.fmt.tag).setTag fs f.fmt.tag) (hs.2 ft (by simp)))).trans ?_
  refine (look_bind _ _ _).trans ((congrFun (if_neg ?_) _).trans ht)
  simp only [setTag_fprVal, State.setTag_par, hp.1, hp.2]
  decide

/-- A compare that delivers writes its condition code, Cause and Flags, and nothing else. -/
theorem fpCompare_delivers {s : State} {f : FFmt} {cond : BitVec 4} {ft fs : RegNum} {cc : BitVec 3}
    (h : s.FpRuns .mips1 f.fmt f.fmt [fs, ft] []) (hs : s.FpSettled f.fmt [fs, ft])
    (hd : s.FpDelivers (FpOut.cond 0 (fCompareCond f cond (s.fprVal fs f.fmt) (s.fprVal ft f.fmt)))
      (isDenorm f (s.fprVal fs f.fmt) || isDenorm f (s.fprVal ft f.fmt))
      (isNan f (s.fprVal fs f.fmt) || isNan f (s.fprVal ft f.fmt)) true false) :
    ∃ t, runSeq (fpCompare f cond ft fs cc) s = .next t ∧
      t.fpu.fcr31 = setBit (addFlags (setCauseBits s.fpu.fcr31
          (fCompareCond f cond (s.fprVal fs f.fmt) (s.fprVal ft f.fmt)) false)
          (fCompareCond f cond (s.fprVal fs f.fmt) (s.fprVal ft f.fmt))) (fccBit (s.ccOf cc))
          (fCompare f cond (s.fprVal fs f.fmt) (s.fprVal ft f.fmt)) ∧
        t.fpu.fgr = s.fpu.fgr ∧ Frame { fpu := true } s t ∧ Sequential s t := by
  let e := fCompareCond f cond (s.fprVal fs f.fmt) (s.fprVal ft f.fmt)
  let u := (s.setTag fs f.fmt.tag).setTag ft f.fmt.tag
  have hu : FpuStep s u := (fpuStep_setTag s _ _).trans (fpuStep_setTag _ _ _)
  let w := u.setFcr31 (addFlags (setCauseBits u.fpu.fcr31 e false) e)
  let b := fCompare f cond (s.fprVal fs f.fmt) (s.fprVal ft f.fmt)
  have hw : FpuStep s ((w.setFcc cc b).delayCond 1) :=
    hu.trans ((fpuStep_setFcr31 u _).trans ((fpuStep_setFcc w _ _).trans (fpuStep_delayCond _ _)))
  refine ⟨((w.setFcc cc b).delayCond 1).advance, runSeq_ok ?_, ?_, ?_, hw.frame_advance rfl, hw.sequential⟩
  · refine (bind_ok (fpGate_ok h.2.1 h.2.2.1)).trans ((fpChecked_run h _ _).trans ?_)
    refine (bind_ok (readFcr31_ok hs.1)).trans ((bind_ok (readFpr_ok (hs.2 fs (by simp)))).trans ?_)
    refine (bind_ok (readFpr_ok (s := s.setTag fs f.fmt.tag) (hs.2 ft (by simp)))).trans ?_
    refine (look_bind _ _ _).trans ?_
    exact (fpFinish_delivers (s := u) hd.1 hd.2).trans rfl
  · rw [State.advance_fpu, State.delayCond_fpu]
    show setBit _ (fccBit (w.ccOf cc)) b = _
    rw [(hu.trans (fpuStep_setFcr31 u _)).ccOf]
    rfl
  · rw [State.advance_fpu, State.delayCond_fpu]
    rfl

/-- A formatted move that runs (R870 to R874): the contents of `src` go to `fd`, and Cause is cleared. -/
theorem fpMove_runs {s : State} {l : Isa} {f : FFmt} {src fs fd : RegNum}
    (h : s.FpRuns l f.fmt f.fmt [src] [fs, fd]) (hs : s.fgrHazard (s.fprRegs src f.fmt) = false) :
    ∃ t, fpMove f src fs fd s = .ok ((), t) ∧ t.advance.HoldsFpr fd f.fmt (s.fprVal src f.fmt) ∧
      t.advance.fpu.fcr31 = setCauseBits s.fpu.fcr31 0 false ∧ FgrsKept s t.advance fd ∧
      Frame { fpu := true } s t.advance ∧ Sequential s t.advance := by
  let c := s.setFcr31 (setCauseBits s.fpu.fcr31 0 false)
  let u := c.setTag src f.fmt.tag
  have hu : FpuStep s u := (fpuStep_setFcr31 s _).trans (fpuStep_setTag _ _ _)
  obtain ⟨h1, h2, h3⟩ := setFpr_spec u fd f.fmt (s.fprVal src f.fmt)
    (hu.fprFits (FpRunsFits h (by simp : fd ∈ [fs, fd])))
  refine ⟨u.setFpr fd f.fmt (s.fprVal src f.fmt), ?_, h1, h3, fun q hq hp => ?_,
    (hu.trans (setFpr_step _ _ _ _)).frame_advance rfl, (hu.trans (setFpr_step _ _ _ _)).sequential⟩
  · refine (fpChecked_run h _ _).trans ((change_bind _ _ _).trans ?_)
    exact (bind_ok (readFpr_ok (s := c) hs)).trans rfl
  · rw [advance_fgr, h2 q hq (hu.singleFgr ▸ hp)]
    rfl

/-! ### Ending in the floating-point exception (R891 step 6) -/

/-- An instruction that comes to signal, with FCR31 as `P` says and the registers as they were. -/
theorem signalFp_signals {s u : State} {x masked : Op Unit} {P : Word → Prop} (hx : x s = signalFp masked u)
    (hs : FpuStep s u) (hg : u.fpu.fgr = s.fpu.fgr) (hP : P u.fpu.fcr31) (hm : masked = fpMasked ∨ masked = pure ()) :
    s.FpSignals (runSeq x s) P := by
  have hpar := hs.par
  have hcp := hs.cp0
  refine ⟨u, hP, hg, hs.frame rfl, hs.pc, hs.nextPc, hs.inDelay, fun h => ?_, fun h hu => ?_, fun h hu => ?_⟩
  · refine runSeq_exc (hx.trans ?_)
    simp [signalFp, hpar, h]
  · refine runSeq_exc (hx.trans ?_)
    have : u.fpaUnmasked = true := by simpa [State.fpaUnmasked, hcp, and_assoc] using hu
    simp [signalFp, hpar, h, this]
  · have hn : u.fpaUnmasked = false := by
      rw [Bool.eq_false_iff]
      intro e
      exact hu (by simpa [State.fpaUnmasked, hcp, and_assoc] using e)
    have hsig : signalFp masked u = masked u := by simp [signalFp, hpar, h, hn]
    rcases hm with rfl | rfl
    · let v := u.useFree.setFcr31 (setField u.fpu.fcr31 12 (u.free.extractLsb' 0 5))
      have hv : FpuStep s v := hs.trans ((fpuStep_useFree u).trans (fpuStep_setFcr31 _ _))
      refine ⟨v.advance, runSeq_ok (hx.trans hsig), hg, fun i hi => ?_, hv.frame_advance rfl, hv.sequential⟩
      show bit (setField u.fpu.fcr31 12 _) i = _
      rw [bit_setField, if_neg (by omega)]
    · exact ⟨u.advance, runSeq_ok (hx.trans hsig), hg, fun _ _ => rfl, hs.frame_advance rfl, hs.sequential⟩

/-- An instruction that comes to an Unimplemented Operation with the registers and FCR31 as they were. -/
theorem fpUnimplemented_signals {s u : State} {x : Op Unit} (hx : x s = fpUnimplemented u) (hs : FpuStep s u)
    (hg : u.fpu.fgr = s.fpu.fgr) (hc : u.fpu.fcr31 = s.fpu.fcr31) : s.FpUnimplemented (runSeq x s) := by
  refine signalFp_signals (u := u.useFree.setFcr31 (setCauseBits u.fpu.fcr31 (u.free.extractLsb' 0 5) true)) hx
    (hs.trans ((fpuStep_useFree u).trans (fpuStep_setFcr31 _ _))) hg ?_ (.inl rfl)
  refine ⟨by simp [setCauseBits], fun i hi => ?_⟩
  rw [setFcr31_fcr31, setCauseBits, bit_setBit, if_neg (by omega), bit_setField, if_neg (by omega), hc]

/-- How a computational instruction ends that comes to its end with the registers and FCR31 as they were, where it does not
deliver. -/
theorem fpFinish_ends {s u : State} {x : Op Unit} {d : Bool} {o : FpOut} {nan : DWord → DWord} {result : DWord → Op Unit}
    (hx : x s = fpFinish s.fpu.fcr31 d o nan result u) (hs : FpuStep s u) (hg : u.fpu.fgr = s.fpu.fgr)
    (hc : u.fpu.fcr31 = s.fpu.fcr31) : s.FpEnds (runSeq x s) d o.e := by
  refine ⟨fun hd => ?_, fun hd he => ?_⟩
  · refine fpUnimplemented_signals (hx.trans ?_) hs hg hc
    simp [fpFinish, hd]
  · refine signalFp_signals (hx.trans (fpFinish_traps hd he)) (hs.trans (fpuStep_setFcr31 _ _)) hg ?_ (.inl rfl)
    rw [setFcr31_fcr31, hc]

/-- A computational instruction with a format or a register that the member does not take. -/
theorem fpChecked_rejects {s : State} {l : Isa} {f g : Fmt} {srcs dst : List RegNum} {undef run : Op Unit} {x : Op Unit}
    (h : s.FpRejects l f g (srcs ++ dst)) (hx : x s = fpChecked f g srcs dst undef run s) :
    s.FpUnimplemented (runSeq x s) := by
  refine fpUnimplemented_signals (hx.trans ?_) (.refl s) rfl rfl
  obtain ⟨h1, -, -, h4⟩ := h
  unfold fpChecked
  rcases h4 with ⟨h5, h6⟩ | ⟨h5, r, hr, hb⟩
  · have : (fmtAbsent s.par.cpu f || fmtAbsent s.par.cpu g) = true := by simpa [fmtAbsent, h5] using h6
    simp [h1, this]
  · have h7 : s.validFpr r = false := by
      have h8 : s.wideFgr = false := by
        unfold State.wideFgr State.fr
        simp [h5]
      have h9 : s.par.cpu.is4650 = false := by revert h5; cases s.par.cpu <;> decide
      simp [State.validFpr, State.singleFgr, h8, h9, hb]
    have odd : ((srcs ++ dst).any fun r => !s.validFpr r) = true := List.any_eq_true.mpr ⟨r, hr, by simp [h7]⟩
    simp only [h1, h5, odd]
    simp

/-- How an instruction on two operands ends that does not deliver. -/
theorem fpBinary_ends {s : State} {l : Isa} {f : FFmt} {ft fs fd : RegNum} {k : Word → DWord → DWord → FpOut}
    (h : s.FpRuns l f.fmt f.fmt [fs, ft] [fd]) (hs : s.FpSettled f.fmt [fs, ft]) :
    let a := s.fprVal fs f.fmt
    let b := s.fprVal ft f.fmt
    let o := k s.fpu.fcr31 a b
    s.FpEnds (runSeq (fpBinary l f ft fs fd k) s)
      (fpDeclines s.par s.fpu.fcr31 (isDenorm f a || isDenorm f b) (isNan f a || isNan f b) false false o) o.e :=
  fpFinish_ends (fpBinary_reads h hs) ((fpuStep_setTag s _ _).trans (fpuStep_setTag _ _ _)) rfl rfl

/-- How an instruction on one operand ends that does not deliver. -/
theorem fpUnary_ends {s : State} {l : Isa} {f g : Fmt} {fs fd : RegNum} {extra : Params → DWord → FpOut → Bool}
    {k : Word → DWord → FpOut} (h : s.FpRuns l f g [fs] [fd]) (hs : s.FpSettled f [fs]) :
    let a := s.fprVal fs f
    let o := k s.fpu.fcr31 a
    s.FpEnds (runSeq (fpUnary l f g fs fd extra k) s)
      (fpDeclines s.par s.fpu.fcr31 (denormIn f a) (nanIn f a) false (extra s.par a o) o) o.e := by
  intro a o
  refine fpFinish_ends (u := s.setTag fs f.tag) (nan := nanOut g) (result := writeFpr fd g) ?_ (fpuStep_setTag s _ _) rfl rfl
  refine (bind_ok (fpGate_ok h.2.1 h.2.2.1)).trans ((fpChecked_run h _ _).trans ?_)
  refine (bind_ok (readFcr31_ok hs.1)).trans ((bind_ok (readFpr_ok (hs.2 fs (by simp)))).trans ?_)
  rfl

/-- How an approximation ends that does not deliver, for the approximation the free value names. -/
theorem fpApprox_ends {s : State} {f : FFmt} {fs fd : RegNum} {k : Word → DWord → DWord → FpOut}
    (h : s.FpRuns .mips4 f.fmt f.fmt [fs] [fd]) (hs : s.FpSettled f.fmt [fs]) :
    let a := s.fprVal fs f.fmt
    ∃ x, let o := k s.fpu.fcr31 x a
    s.FpEnds (runSeq (fpApprox f fs fd k) s)
      (fpDeclines s.par s.fpu.fcr31 (isDenorm f a) (isNan f a) false false o) o.e := by
  intro a
  refine ⟨s.free, fpFinish_ends (u := s.useFree.setTag fs f.fmt.tag) (nan := someQuietNan f) (result := writeFpr fd f.fmt) ?_
    ((fpuStep_useFree s).trans (fpuStep_setTag _ _ _)) rfl rfl⟩
  refine (bind_ok (fpGate_ok h.2.1 h.2.2.1)).trans ((fpChecked_run h _ _).trans ?_)
  refine (bind_ok (readFcr31_ok hs.1)).trans ((bind_ok (x := fresh) rfl).trans ?_)
  exact (bind_ok (readFpr_ok (s := s.useFree) (hs.2 fs (by simp)))).trans rfl

/-- How a compare ends that does not deliver. -/
theorem fpCompare_ends {s : State} {f : FFmt} {cond : BitVec 4} {ft fs : RegNum} {cc : BitVec 3}
    (h : s.FpRuns .mips1 f.fmt f.fmt [fs, ft] []) (hs : s.FpSettled f.fmt [fs, ft]) :
    let a := s.fprVal fs f.fmt
    let b := s.fprVal ft f.fmt
    let o := FpOut.cond 0 (fCompareCond f cond a b)
    s.FpEnds (runSeq (fpCompare f cond ft fs cc) s)
      (fpDeclines s.par s.fpu.fcr31 (isDenorm f a || isDenorm f b) (isNan f a || isNan f b) true false o) o.e := by
  intro a b o
  refine fpFinish_ends (u := (s.setTag fs f.fmt.tag).setTag ft f.fmt.tag) (nan := id)
    (result := fun _ => change fun s => (s.setFcc cc (fCompare f cond a b)).delayCond 1) ?_
    ((fpuStep_setTag s _ _).trans (fpuStep_setTag _ _ _)) rfl rfl
  refine (bind_ok (fpGate_ok h.2.1 h.2.2.1)).trans ((fpChecked_run h _ _).trans ?_)
  refine (bind_ok (readFcr31_ok hs.1)).trans ((bind_ok (readFpr_ok (hs.2 fs (by simp)))).trans ?_)
  exact (bind_ok (readFpr_ok (s := s.setTag fs f.fmt.tag) (hs.2 ft (by simp)))).trans rfl

/-- How a multiply-accumulate ends that does not deliver: by its product, or by its second step. -/
theorem fpTernary_ends {s : State} {f : FFmt} {fr ft fs fd : RegNum} {k : Rm → DWord → DWord → FpOut}
    (h : s.FpRuns .mips4 f.fmt f.fmt [fr, fs, ft] [fd]) (hs : s.FpSettled f.fmt [fr, fs, ft]) :
    let m := rmOf s.fpu.fcr31
    let a := s.fprVal fs f.fmt
    let b := s.fprVal ft f.fmt
    let c := s.fprVal fr f.fmt
    let p := fMul f m a b
    let o := (k m p.bits c).after p
    let denorm := isDenorm f a || isDenorm f b
    let nan := isNan f a || isNan f b
    let r := runSeq (fpTernary f fr ft fs fd k) s
    (s.FpDelivers p denorm nan false false →
      s.FpEnds r (fpDeclines s.par s.fpu.fcr31 (isDenorm f c) (isNan f c || isNan f p.bits) false false o) o.e) ∧
    s.FpEnds r (fpDeclines s.par s.fpu.fcr31 denorm nan false false p) p.e := by
  intro m a b c p o denorm nan r
  let u := ((s.setTag fr f.fmt.tag).setTag fs f.fmt.tag).setTag ft f.fmt.tag
  let d := fpDeclines s.par s.fpu.fcr31 denorm nan false false p
  have hu : FpuStep s u := ((fpuStep_setTag s _ _).trans (fpuStep_setTag _ _ _)).trans (fpuStep_setTag _ _ _)
  have reads : fpTernary f fr ft fs fd k s =
      (if d || p.e &&& enablesOf s.fpu.fcr31 != 0 then fpFinish s.fpu.fcr31 d p (someQuietNan f) (writeFpr fd f.fmt)
      else fpFinish s.fpu.fcr31 (fpDeclines s.par s.fpu.fcr31 (isDenorm f c) (isNan f c || isNan f p.bits) false false o) o
        (someQuietNan f) (writeFpr fd f.fmt)) u := by
    refine (bind_ok (requireIsa_ok h.2.2.1)).trans ((bind_ok (requireCop_ok h.2.1)).trans
      ((fpChecked_run h _ _).trans ?_))
    refine (bind_ok (readFcr31_ok hs.1)).trans ((bind_ok (readFpr_ok (hs.2 fr (by simp)))).trans ?_)
    refine (bind_ok (readFpr_ok (s := s.setTag fr f.fmt.tag) (hs.2 fs (by simp)))).trans ?_
    exact (bind_ok (readFpr_ok (s := (s.setTag fr f.fmt.tag).setTag fs f.fmt.tag) (hs.2 ft (by simp)))).trans rfl
  refine ⟨fun hd => ?_, fun hd => ?_, fun hd he => ?_⟩
  · have hd1 : d = false := hd.1
    refine fpFinish_ends (nan := someQuietNan f) (result := writeFpr fd f.fmt) (reads.trans ?_) hu rfl rfl
    rw [if_neg (by simp [hd1, hd.2])]
  · have hd1 : d = true := hd
    refine (fpFinish_ends (o := p) (nan := someQuietNan f) (result := writeFpr fd f.fmt) (reads.trans ?_) hu rfl rfl).1 hd1
    rw [if_pos (by simp [hd1])]
  · have hd1 : d = false := hd
    refine (fpFinish_ends (o := p) (nan := someQuietNan f) (result := writeFpr fd f.fmt) (reads.trans ?_) hu rfl rfl).2 hd1 he
    rw [if_pos]
    simpa [hd1] using he

end Sys2Proof.Machine
end

