-- ==== Sys2Proof/Laws/Memory.lean ====
section
/-! SUPPORT. What the memory operations do: a read after a write, the canonical form, the bytes of a value. -/

namespace Sys2Proof.Machine

/-! ### Lists of keys and values -/

theorem assocGet_set_self {α : Type} (k : Nat) (v : α) (l : List (Nat × α)) :
    assocGet k (assocSet k v l) = some v := by
  induction l with
  | nil => simp [assocSet, assocGet]
  | cons c l ih =>
    obtain ⟨j, w⟩ := c
    unfold assocSet
    split
    · simp [assocGet]
    · split
      · simp [assocGet]
      · rename_i h; simp [assocGet, h, ih]

theorem assocGet_set_ne {α : Type} {k q : Nat} (h : q ≠ k) (v : α) (l : List (Nat × α)) :
    assocGet q (assocSet k v l) = assocGet q l := by
  induction l with
  | nil => simp [assocSet, assocGet, h.symm]
  | cons c l ih =>
    obtain ⟨j, w⟩ := c
    unfold assocSet
    split
    · simp [assocGet, h.symm]
    · split
      · rename_i e; subst e; simp [assocGet, h.symm]
      · simp [assocGet, ih]

theorem assocGet_erase_self {α : Type} (k : Nat) (l : List (Nat × α)) : assocGet k (assocErase k l) = none := by
  induction l with
  | nil => rfl
  | cons c l ih =>
    obtain ⟨j, w⟩ := c
    unfold assocErase
    split
    · exact ih
    · rename_i e; simp [assocGet, e, ih]

theorem assocGet_erase_ne {α : Type} {k q : Nat} (h : q ≠ k) (l : List (Nat × α)) :
    assocGet q (assocErase k l) = assocGet q l := by
  induction l with
  | nil => rfl
  | cons c l ih =>
    obtain ⟨j, w⟩ := c
    unfold assocErase
    split
    · rename_i e; subst e; simp [assocGet, h.symm, ih]
    · simp [assocGet, ih]

theorem assocRising_mono {α : Type} {a b : Nat} (h : a ≤ b) {l : List (Nat × α)} (hl : assocRising b l = true) :
    assocRising a l = true := by
  cases l with
  | nil => rfl
  | cons c l =>
    obtain ⟨j, w⟩ := c
    simp [assocRising] at hl ⊢
    exact ⟨by omega, hl.2⟩

theorem assocRising_set {α : Type} {k lo : Nat} (h : lo ≤ k) (v : α) {l : List (Nat × α)}
    (hl : assocRising lo l = true) : assocRising lo (assocSet k v l) = true := by
  induction l generalizing lo with
  | nil => simp [assocSet, assocRising, h]
  | cons c l ih =>
    obtain ⟨j, w⟩ := c
    simp [assocRising] at hl
    unfold assocSet
    split
    · simp [assocRising, h, hl.2]; omega
    · split
      · rename_i e; subst e; simp [assocRising, h, hl.2]
      · simp [assocRising, hl.1]
        exact ih (by omega) hl.2

theorem assocRising_erase {α : Type} (k : Nat) {lo : Nat} {l : List (Nat × α)} (hl : assocRising lo l = true) :
    assocRising lo (assocErase k l) = true := by
  induction l generalizing lo with
  | nil => rfl
  | cons c l ih =>
    obtain ⟨j, w⟩ := c
    simp [assocRising] at hl
    unfold assocErase
    split
    · exact assocRising_mono (by omega) (ih hl.2)
    · simp [assocRising, hl.1, ih hl.2]

theorem mem_assocSet {α : Type} {k : Nat} {v : α} {l : List (Nat × α)} {c : Nat × α} (h : c ∈ assocSet k v l) :
    c = (k, v) ∨ c ∈ l := by
  induction l with
  | nil => simpa [assocSet] using h
  | cons d l ih =>
    obtain ⟨j, w⟩ := d
    unfold assocSet at h
    split at h
    · simpa using h
    · split at h
      · simp at h ⊢; tauto
      · simp at h ⊢
        rcases h with h | h
        · exact Or.inr (Or.inl h)
        · have := ih h; tauto

theorem mem_assocErase {α : Type} {k : Nat} {l : List (Nat × α)} {c : Nat × α} (h : c ∈ assocErase k l) : c ∈ l := by
  induction l with
  | nil => exact h
  | cons d l ih =>
    obtain ⟨j, w⟩ := d
    unfold assocErase at h
    split at h
    · exact List.mem_cons_of_mem _ (ih h)
    · simp at h ⊢
      exact h.imp_right ih

/-! ### One byte -/

/-- A write is read back. -/
@[simp] theorem memRead_write_self (m : List Host.Cell) (a : Nat) (b : Byte) : memRead (memWrite m a b) a = b := by
  unfold memWrite memRead
  split
  · rename_i h; rw [assocGet_erase_self]; exact h.symm
  · rw [assocGet_set_self]; rfl

/-- A write leaves every other address alone. -/
theorem memRead_write_ne {a c : Nat} (h : c ≠ a) (m : List Host.Cell) (b : Byte) :
    memRead (memWrite m a b) c = memRead m c := by
  unfold memWrite memRead
  split
  · rw [assocGet_erase_ne h]
  · rw [assocGet_set_ne h]

/-- A write keeps the canonical form. -/
theorem memWf_write {m : List Host.Cell} (h : memWf m = true) (a : Nat) (b : Byte) : memWf (memWrite m a b) = true := by
  unfold memWf at h ⊢
  simp at h ⊢
  unfold memWrite
  split
  · exact ⟨assocRising_erase a h.1, fun j w hw => h.2 j w (mem_assocErase hw)⟩
  · rename_i hb
    refine ⟨assocRising_set (Nat.zero_le a) b h.1, fun j w hw => ?_⟩
    rcases mem_assocSet hw with e | e
    · cases e; exact hb
    · exact h.2 j w e

/-! ### Several bytes -/

theorem memRead_writeList_ne {c : Nat} (as : List Nat) (bs : List Byte) (m : List Host.Cell) (h : c ∉ as) :
    memRead (memWriteList m as bs) c = memRead m c := by
  induction as generalizing m bs with
  | nil => simp [memWriteList]
  | cons a as ih =>
    cases bs with
    | nil => simp [memWriteList]
    | cons b bs =>
      simp at h
      unfold memWriteList
      rw [ih bs _ h.2, memRead_write_ne h.1]

/-- Bytes written at addresses that differ are read back. -/
theorem memReadList_writeList (as : List Nat) (bs : List Byte) (m : List Host.Cell) (hl : bs.length = as.length)
    (hd : as.Nodup) : memReadList (memWriteList m as bs) as = bs := by
  induction as generalizing m bs with
  | nil => cases bs with
    | nil => rfl
    | cons b bs => simp at hl
  | cons a as ih =>
    cases bs with
    | nil => simp at hl
    | cons b bs =>
      simp at hl hd
      unfold memReadList memWriteList
      rw [memRead_writeList_ne as bs _ hd.1, memRead_write_self, ih bs _ hl hd.2]

/-- Every write of bytes keeps the canonical form. -/
theorem memWf_writeList {m : List Host.Cell} (h : memWf m = true) (as : List Nat) (bs : List Byte) :
    memWf (memWriteList m as bs) = true := by
  induction as generalizing m bs with
  | nil => simpa [memWriteList] using h
  | cons a as ih =>
    cases bs with
    | nil => simpa [memWriteList] using h
    | cons b bs => exact ih (memWf_write h a b) bs

/-- The memory after reset is in canonical form. -/
theorem memWf_reset : memWf State.reset.mem = true := rfl

/-! ### Addresses -/

theorem mem_byteAddrs {f : Nat → Nat} {a n x : Nat} : x ∈ byteAddrs f a n ↔ ∃ i, i < n ∧ x = f (a + i) := by
  induction n generalizing a with
  | zero => simp [byteAddrs]
  | succ n ih =>
    simp only [byteAddrs, List.mem_cons, ih]
    constructor
    · rintro (rfl | ⟨i, hi, rfl⟩)
      · exact ⟨0, by omega, rfl⟩
      · exact ⟨i + 1, by omega, by congr 1; omega⟩
    · rintro ⟨i, hi, rfl⟩
      cases i with
      | zero => exact Or.inl rfl
      | succ i => exact Or.inr ⟨i, by omega, by congr 1; omega⟩

theorem byteAddrs_nodup {f : Nat → Nat} (hf : ∀ x y, f x = f y → x = y) (a n : Nat) : (byteAddrs f a n).Nodup := by
  induction n generalizing a with
  | zero => simp [byteAddrs]
  | succ n ih =>
    simp only [byteAddrs, List.nodup_cons]
    refine ⟨fun h => ?_, ih (a + 1)⟩
    obtain ⟨i, -, e⟩ := mem_byteAddrs.mp h
    have := hf _ _ e
    omega

@[simp] theorem byteAddrs_length (f : Nat → Nat) (a n : Nat) : (byteAddrs f a n).length = n := by
  induction n generalizing a with
  | zero => rfl
  | succ n ih => simp [byteAddrs, ih]

theorem byteLane_injective (s : State) (x y : Nat) (h : s.byteLane x = s.byteLane y) : x = y := by
  unfold State.byteLane at h
  split at h
  · exact Nat.xor_left_injective h
  · exact h

/-- The bytes of an access are at different addresses. -/
theorem lanes_nodup (s : State) (a n : Nat) : (s.lanes a n).Nodup := byteAddrs_nodup (byteLane_injective s) a n

@[simp] theorem lanes_length (s : State) (a n : Nat) : (s.lanes a n).length = n := byteAddrs_length _ a n

@[simp] theorem toBytesLE_length (v : DWord) (n : Nat) : (toBytesLE v n).length = n := by
  induction n generalizing v with
  | zero => rfl
  | succ n ih => simp [toBytesLE, ih]

@[simp] theorem toBytes_length (big : Bool) (n : Nat) (v : DWord) : (toBytes big n v).length = n := by
  unfold toBytes; split <;> simp

@[simp] theorem memReadList_length (m : List Host.Cell) (as : List Nat) : (memReadList m as).length = as.length := by
  induction as with
  | nil => rfl
  | cons a as ih => simp [memReadList, ih]

/-! ### Bytes of a value -/

/-- Byte `i` of the value of bytes given least significant first. -/
theorem ofBytesLE_byte (bs : List Byte) (i : Nat) (hn : bs.length ≤ 8) (hi : i < bs.length) :
    (ofBytesLE bs).extractLsb' (8 * i) 8 = bs[i] := by
  induction bs generalizing i with
  | nil => simp at hi
  | cons b bs ih =>
    simp at hn hi
    apply BitVec.eq_of_getLsbD_eq
    intro j hj
    unfold ofBytesLE
    rw [BitVec.getLsbD_extractLsb', BitVec.getLsbD_or, BitVec.getLsbD_setWidth, BitVec.getLsbD_shiftLeft]
    simp only [hj, decide_true, Bool.true_and]
    cases i with
    | zero => simp [hj]; omega
    | succ i =>
      have h2 := congrArg (fun x : Byte => x.getLsbD j) (ih i (by omega) (by omega))
      simp only [BitVec.getLsbD_extractLsb', hj, decide_true, Bool.true_and] at h2
      simp only [List.getElem_cons_succ]
      rw [← h2, show 8 * (i + 1) + j - 8 = 8 * i + j by omega, BitVec.getLsbD_of_ge b _ (by omega)]
      simp; omega

theorem memReadList_get (m : List Host.Cell) (as : List Nat) (i : Nat) (h : i < as.length) :
    (memReadList m as)[i]'(by simpa) = memRead m as[i] := by
  induction as generalizing i with
  | nil => simp at h
  | cons a as ih =>
    cases i with
    | zero => rfl
    | succ i => exact ih i (by simpa using h)

theorem byteAddrs_get (f : Nat → Nat) (a n i : Nat) (h : i < n) : (byteAddrs f a n)[i]'(by simpa) = f (a + i) := by
  induction n generalizing a i with
  | zero => omega
  | succ n ih =>
    cases i with
    | zero => rfl
    | succ i => simp only [byteAddrs, List.getElem_cons_succ]; rw [ih _ _ (by omega)]; congr 1; omega

theorem ofBytesLE_lt (bs : List Byte) (h : bs.length ≤ 8) : (ofBytesLE bs).toNat < 2 ^ (8 * bs.length) := by
  induction bs with
  | nil => decide
  | cons b bs ih =>
    have := ih (by simp at h; omega)
    have hb := b.isLt
    unfold ofBytesLE
    rw [BitVec.toNat_or]
    apply Nat.or_lt_two_pow
    · rw [BitVec.toNat_setWidth]
      refine lt_of_le_of_lt (Nat.mod_le _ _) (lt_of_lt_of_le hb ?_)
      exact Nat.pow_le_pow_right (by omega) (by simp)
    · rw [BitVec.toNat_shiftLeft]
      refine lt_of_le_of_lt (Nat.mod_le _ _) ?_
      rw [Nat.shiftLeft_eq]
      calc _ < 2 ^ (8 * bs.length) * 2 ^ 8 := by omega
        _ = _ := by rw [← Nat.pow_add]; rfl

/-- The value of `n` bytes has no more than their bits. -/
theorem memVal_lt (s : State) (a n : Nat) (hn : n ≤ 8) : (s.memVal a n).toNat < 2 ^ (8 * n) := by
  unfold State.memVal ofBytes
  have e : ∀ l : List Byte, l.length = n → (ofBytesLE l).toNat < 2 ^ (8 * n) := fun l hl => hl ▸ ofBytesLE_lt l (by omega)
  split
  · exact e _ (by simp)
  · exact e _ (by simp)

/-- A load's zero extension changes nothing. -/
theorem trunc_memVal (s : State) (a n : Nat) (hn : n ≤ 8) :
    ((s.memVal a n).setWidth (8 * n)).setWidth 64 = s.memVal a n := by
  apply BitVec.eq_of_toNat_eq
  simp [Nat.mod_eq_of_lt (memVal_lt s a n hn)]
  exact (s.memVal a n).isLt

/-! ### The store of a value -/

/-- What is stored at an address is what is read there. -/
theorem setMem_reads (s : State) (a n : Nat) (v : DWord) :
    memReadList (s.setMem a n v).mem (s.lanes a n) = toBytes s.bigEndianCpu n v :=
  memReadList_writeList _ _ _ (by simp) (lanes_nodup s a n)

/-- A store leaves every byte outside its own alone. -/
theorem setMem_keeps (s : State) (a n : Nat) (v : DWord) {x : Nat} (h : x ∉ s.lanes a n) :
    memRead (s.setMem a n v).mem x = memRead s.mem x := memRead_writeList_ne _ _ _ h

/-- A store keeps the canonical form. -/
theorem setMem_memWf {s : State} (h : memWf s.mem = true) (a n : Nat) (v : DWord) :
    memWf (s.setMem a n v).mem = true := memWf_writeList h _ _

theorem frame_setMem (s : State) (a n : Nat) (v : DWord) {w : Touch} (hw : ∀ x, x ∈ s.lanes a n → x ∈ w.mem) :
    Frame w s (s.setMem a n v) where
  gpr q _ := gprVal_congr rfl rfl q
  mem x hx := setMem_keeps s a n v fun e => hx (hw x e)
  hilo _ := ⟨rfl, rfl⟩
  cp0 _ := ⟨rfl, rfl, rfl, rfl, rfl⟩
  fpu _ := rfl
  link _ := ⟨rfl, rfl⟩
  rest := ⟨rfl, rfl, rfl, rfl, rfl, rfl⟩

end Sys2Proof.Machine
end

