-- ==== Sys2Proof/Laws/LoadStore.lean ====
section
/-! SUPPORT. What the loads and stores are made of does: translation does not depend on the free values used, and each
access that maps reads or writes its bytes. -/

namespace Sys2Proof.Machine

/-! ### Operations that do not depend on the free values -/

/-- What an operation answers, with `n` more free values used up. -/
def skipResult {α : Type} (n : Nat) : Except Stop (α × State) → Except Stop (α × State)
  | .ok (a, t) => .ok (a, t.skip n)
  | .error (.exc e t) => .error (.exc e (t.skip n))
  | .error (.refused r) => .error (.refused r)

/-- The operation neither reads nor uses up a free value. -/
def Op.Skips {α : Type} (x : Op α) : Prop := ∀ s n, x (s.skip n) = skipResult n (x s)

theorem skips_pure {α : Type} (a : α) : Op.Skips (pure a) := fun _ _ => rfl
theorem skips_raise {α : Type} (e : Exc) : Op.Skips (raise e : Op α) := fun _ _ => rfl
theorem skips_look {α : Type} {f : State → α} (h : ∀ s n, f (s.skip n) = f s) : Op.Skips (look f) :=
  fun s n => by simp [skipResult, h]
theorem skips_raiseIf (c : Bool) (e : Exc) : Op.Skips (raiseIf c e) := fun _ _ => by cases c <;> rfl
theorem skips_refuseIf (c : Bool) (r : Refusal) : Op.Skips (refuseIf c r) := fun _ _ => by cases c <;> rfl
theorem skips_currentMode : Op.Skips currentMode := fun s n => by
  unfold currentMode; rw [State.skip_mode]; cases s.mode? <;> rfl

theorem skips_bind {α β : Type} {x : Op α} {f : α → Op β} (hx : x.Skips) (hf : ∀ a, (f a).Skips) :
    Op.Skips (x >>= f) := fun s n => by
  rw [op_bind, op_bind, hx s n]
  cases x s with
  | ok r => exact hf r.1 r.2 n
  | error e => cases e <;> rfl

theorem skips_translate64 (va : DWord) (k : Access) : Op.Skips (translate64 va k) := fun s n => by
  unfold translate64
  rw [show (s.skip n).tlb64Hits (va.extractLsb' 12 20) ((s.skip n).cp0.entryHi.extractLsb' 6 6) =
    s.tlb64Hits (va.extractLsb' 12 20) (s.cp0.entryHi.extractLsb' 6 6) from rfl]
  generalize s.tlb64Hits _ _ = l
  rcases l with _ | ⟨⟨e, i⟩, _ | ⟨d, l⟩⟩
  · rfl
  · dsimp only
    split
    · rfl
    · split <;> rfl
  · rfl

theorem skips_translate48 (va : DWord) (k : Access) : Op.Skips (translate48 va k) := fun s n => by
  unfold translate48
  rw [show (s.skip n).tlb48Hits (va.extractLsb' 62 2) (va.extractLsb' 13 27) ((s.skip n).cp0.entryHi.extractLsb' 0 8) =
    s.tlb48Hits (va.extractLsb' 62 2) (va.extractLsb' 13 27) (s.cp0.entryHi.extractLsb' 0 8) from rfl]
  generalize s.tlb48Hits _ _ _ = l
  rcases l with _ | ⟨⟨e, i⟩, _ | ⟨d, l⟩⟩
  · rfl
  · dsimp only
    generalize (if va.toNat / pageBytes e.mask % 2 = 0 then e.even else e.odd) = p
    split
    · rfl
    · split <;> rfl
  · rfl

theorem skips_translateMapped (va : DWord) (k : Access) : Op.Skips (translateMapped va k) := fun s n => by
  unfold translateMapped
  rw [State.skip_par]
  cases s.par.mmu
  · rfl
  · exact skips_translate64 va k s n
  · exact skips_translate48 va k s n
  · rfl

theorem skips_locate (va : DWord) (k : Access) (n : Nat) : Op.Skips (locate va k n) :=
  skips_bind skips_currentMode fun _ => skips_bind (skips_look fun _ _ => rfl) fun _ =>
    skips_bind (skips_refuseIf _ _) fun _ => skips_bind (skips_look fun _ _ => rfl) fun _ =>
    skips_bind (skips_raiseIf _ _) fun _ => skips_bind (skips_raiseIf _ _) fun _ =>
    skips_bind (skips_look fun _ _ => rfl) fun _ => skips_bind (skips_raiseIf _ _) fun _ => skips_pure _

/-- Translation does not depend on the free values. -/
theorem skips_translate (va : DWord) (k : Access) (n : Nat) : Op.Skips (translate va k n) := by
  refine skips_bind (skips_locate va k n) fun seg => ?_
  refine skips_bind ?_ fun _ => skips_bind (skips_refuseIf _ _) fun _ => skips_bind (skips_look fun _ _ => rfl) fun _ =>
    skips_bind (skips_refuseIf _ _) fun _ => skips_pure _
  cases seg with
  | addressError => exact skips_raise _
  | mapped => exact skips_translateMapped _ _
  | direct pa cca => exact skips_pure _

theorem translate_skip {va : DWord} {k : Access} {n : Nat} {s : State} {r : Nat × BitVec 3}
    (h : translate va k n s = .ok (r, s)) (m : Nat) : translate va k n (s.skip m) = .ok (r, s.skip m) := by
  rw [skips_translate va k n s m, h]; rfl

@[simp] theorem State.skip_Maps (s : State) (m : Nat) (va : DWord) (k : Access) (n pa : Nat) (cca : BitVec 3)
    (h : s.Maps va k n pa cca) : (s.skip m).Maps va k n pa cca := ⟨translate_skip h.1 m, h.2.1, h.2.2⟩

/-! ### Cache errors -/

/-- No cache error is due. -/
theorem cacheCheck_ok {s : State} {d : Bool} (va : DWord) (pa : Option Nat) (h : s.cacheErrorDue d = none) :
    cacheCheck d va pa s = .ok ((), s) := by
  unfold cacheCheck; rw [h]

/-- A cache error is due for the access. -/
theorem State.MeetsCacheError.due {s : State} {d : Bool} {info : Word} (h : s.MeetsCacheError d info) :
    s.cacheErrorDue d = some info := by
  obtain ⟨h1, rfl, h3, h4⟩ := h
  simp [State.cacheErrorDue, h1, h3, h4]

/-- An access with a physical address takes the Cache Error exception that is due, and CacheErr names its addresses. -/
theorem cacheCheck_hit {s : State} {d : Bool} {info : Word} (h : s.cacheErrorDue d = some info) (va : DWord) (pa : Nat) :
    cacheCheck d va (some pa) s = .error (.exc (.cacheError (cacheErrImage info va pa)) s.dropCacheError) := by
  unfold cacheCheck; rw [h]

/-- So does one whose address has no translation, with some physical address that agrees in the page offset. -/
theorem cacheCheck_hit_untranslated {s : State} {d : Bool} {info : Word} (h : s.cacheErrorDue d = some info) (va : DWord) :
    ∃ pa, pa % 4096 = va.toNat % 4096 ∧
      cacheCheck d va none s = .error (.exc (.cacheError (cacheErrImage info va pa)) s.dropCacheError.useFree) := by
  refine ⟨s.free.toNat * 4096 + va.toNat % 4096, by omega, ?_⟩
  unfold cacheCheck; rw [h]

/-- The bits of what CacheErr is loaded with: SIdx and PIdx of an internal reference are the access's, every other bit is the
host's. -/
theorem bit_cacheErrImage (info : Word) (va : DWord) (pa : Nat) (i : Nat) : bit (cacheErrImage info va pa) i =
    if bit info 27 = false ∧ i < 22 then
      if 3 ≤ i then pa.testBit i else decide (i < 2) && bit va (12 + i)
    else bit info i := by
  unfold cacheErrImage
  split
  · rename_i h; rw [if_neg (by simp [h])]
  · rename_i h
    rw [bit_setField, bit_setField]
    by_cases hi : i < 22
    · rw [if_pos (show bit info 27 = false ∧ i < 22 from ⟨by simpa using h, hi⟩)]
      by_cases h3 : 3 ≤ i
      · have e : (pa / 8).testBit (i - 3) = pa.testBit i := by
          rw [show (8 : Nat) = 2 ^ 3 from rfl, Nat.testBit_div_two_pow, show i - 3 + 3 = i by omega]
        rw [if_neg (by omega), if_pos (by omega), if_pos h3, BitVec.getLsbD_ofNat, decide_eq_true (by omega : i - 3 < 19),
          Bool.true_and, e]
      · rw [if_pos (by omega), if_neg h3, BitVec.getLsbD_setWidth, BitVec.getLsbD_extractLsb']
        simp [bit, show i < 3 by omega]
    · rw [if_neg (by omega), if_neg (by omega), if_neg (by simp [hi])]

/-- Where a fetch has a translation, that is the physical address a cache error names. -/
theorem fetchPhys_eq {s t : State} {va : DWord} {seg : Segment} {r : Nat × BitVec 3}
    (h : resolve va .fetch seg s = .ok (r, t)) : s.fetchPhys va seg = some r.1 := by
  unfold resolve at h
  rw [op_bind] at h
  unfold State.fetchPhys
  cases hp : segmentPhys va .fetch seg s with
  | error e => rw [hp] at h; cases h
  | ok q =>
    rw [hp] at h
    dsimp only at h
    rw [op_bind, refuseIf] at h
    split at h
    · rename_i e; split at e <;> simp at e
      rw [look_bind, op_bind, refuseIf] at h
      split at h
      · exact congrArg (fun x => some x.1) (congrArg Prod.fst (Except.ok.inj h))
      · cases h
    · cases h

theorem checkData_ok {s : State} {va : DWord} {k : Access} {pa : Nat} (hc : s.cacheErrorDue true = none)
    (h : s.dWatchHit va k = false) : checkData va k pa s = .ok ((), s) :=
  (bind_ok (cacheCheck_ok _ _ hc)).trans (if_neg (by simp [h]))

/-! ### Extended values are words -/

theorem isWord_lt {v : DWord} (h : v.toNat < 2^31) : isWord v = true := by
  unfold isWord sextLo sext lo32
  simp only [beq_iff_eq]
  apply BitVec.eq_of_toNat_eq
  rw [BitVec.toNat_signExtend, BitVec.msb_setWidth]
  have : v.getLsbD 31 = false := by
    rw [BitVec.getLsbD]; exact Nat.testBit_lt_two_pow h
  rw [this, if_neg (by decide), BitVec.toNat_setWidth, BitVec.toNat_setWidth]; omega

theorem isWord_sextOf {w : Nat} (hw : w ≤ 32) (x : BitVec w) : isWord (x.signExtend 64) = true := by
  have e : lo32 (x.signExtend 64) = x.signExtend 32 := by
    apply BitVec.eq_of_getLsbD_eq
    intro i hi
    simp only [lo32, BitVec.getLsbD_signExtend, BitVec.getLsbD_setWidth, hi, decide_true, Bool.true_and]
    rw [decide_eq_true (show i < 64 by omega), Bool.true_and]
  rw [isWord, beq_iff_eq, sextLo, sext, e]
  apply BitVec.eq_of_toInt_eq
  rw [BitVec.toInt_signExtend_of_le (by decide), BitVec.toInt_signExtend_of_le (by omega),
    BitVec.toInt_signExtend_of_le (by omega)]

/-! ### One access -/

theorem readMem_ok {s : State} {pa n : Nat} (h : s.Readable pa n) : readMem pa n s = .ok (s.memVal pa n, s) := by
  unfold readMem
  rw [if_neg (by simp [h.1]), if_neg (by simp [h.2])]

/-- A load that maps and is answered by memory reads the bytes there. -/
theorem loadAt_ok {s : State} {va : DWord} {n pa : Nat} {cca : BitVec 3} (h : s.Maps va .load n pa cca)
    (hr : s.Readable pa n) : loadAt va n s = .ok (s.memVal pa n, s) := by
  unfold loadAt
  exact (bind_ok h.1).trans ((bind_ok (checkData_ok h.2.1 h.2.2)).trans (readMem_ok hr))

/-- A store that maps writes the bytes there. -/
theorem storeAt_ok {s : State} {va : DWord} {n pa : Nat} {cca : BitVec 3} (v : DWord) (h : s.Maps va .store n pa cca) :
    storeAt va n v s = .ok ((), s.putMem pa n v) := by
  unfold storeAt
  exact (bind_ok h.1).trans ((bind_ok (checkData_ok h.2.1 h.2.2)).trans rfl)

theorem putMem_plain {s : State} (h : s.isc = false) (a n : Nat) (v : DWord) : s.putMem a n v = s.setMem a n v :=
  if_neg (by simp [h])

/-- An aligned load: the base is read, and where the address maps the field is loaded. -/
theorem loadField_ok (base : RegNum) (off : BitVec 16) (n : Nat) (f : DWord → DWord) (s : State) :
    ∃ b, s.Reads base b ∧ ∀ pa cca, s.Maps (s.normVa (b + off.signExtend 64)) .load n pa cca → s.Readable pa n →
      ∃ v m, loadField base off n f s = .ok (v, s.skip m) ∧ (s.offsetUndefined off n = false → v = f (s.memVal pa n)) := by
  obtain ⟨b, m, hb, hr⟩ := effAddr_reads base off s
  refine ⟨b, hr, fun pa cca hm hd => ?_⟩
  obtain ⟨v, k, hv, he⟩ := freeIf_reads (s.offsetUndefined off n) (f (s.memVal pa n)) (s.skip m)
  refine ⟨v, m + k, ?_, he⟩
  unfold loadField
  refine (bind_ok hb).trans ((bind_ok (loadAt_ok (State.skip_Maps _ m _ _ _ _ _ hm) hd)).trans ?_)
  rw [look_bind, ← State.skip_skip]
  exact hv

/-- An aligned store: the base is read, and where the address maps the low bytes of the value are stored. -/
theorem storeField_ok (base : RegNum) (off : BitVec 16) (n : Nat) (x : DWord) (s : State) :
    ∃ b, s.Reads base b ∧ ∀ pa cca, s.Maps (s.normVa (b + off.signExtend 64)) .store n pa cca →
      ∃ v m, storeField base off n x s = .ok ((), (s.skip m).putMem pa n v) ∧
        (s.offsetUndefined off n = false → v = x) := by
  obtain ⟨b, m, hb, hr⟩ := effAddr_reads base off s
  refine ⟨b, hr, fun pa cca hm => ?_⟩
  obtain ⟨v, k, hv, he⟩ := freeIf_reads (s.offsetUndefined off n) x (s.skip m)
  refine ⟨v, m + k, ?_, he⟩
  unfold storeField
  refine (bind_ok hb).trans ((look_bind _ _ _).trans ?_)
  refine (bind_ok hv).trans ?_
  rw [State.skip_skip]
  exact storeAt_ok v (State.skip_Maps _ _ _ _ _ _ _ hm)

/-! ### Unaligned forms -/

theorem readGprMerge_reads (r : RegNum) (s : State) :
    ∃ v n, readGprMerge r s = .ok (v, s.skip n) ∧ s.ReadsMerged r v := by
  unfold readGprMerge State.ReadsMerged
  split
  · rename_i hm
    obtain ⟨v, n, h, hr, -⟩ := readGpr_reads r s
    exact ⟨v, n, h, fun g => hr (g.resolve_left (by simp [hm]))⟩
  · exact ⟨_, 0, rfl, fun _ => rfl⟩

/-- A left load. -/
theorem loadLeft_ok (base rt : RegNum) (off : BitVec 16) (n : Nat) (s : State) :
    ∃ b v, s.Reads base b ∧ s.ReadsMerged rt v ∧ ∀ pa cca, s.Maps (s.normVa (b + off.signExtend 64)) .load 1 pa cca →
      let p := s.leftPart (s.normVa (b + off.signExtend 64)) pa n
      s.Readable p.1 p.2 → ∃ m, loadLeft base rt off n s =
        .ok ((s.memVal p.1 p.2 <<< (8 * (n - p.2))) ||| (v &&& lowBytes (n - p.2)), s.skip m) := by
  obtain ⟨b, m, hb, rb⟩ := effAddr_reads base off s
  obtain ⟨v, k, hv, rv⟩ := readGprMerge_reads rt (s.skip m)
  refine ⟨b, v, rb, rv, ?_⟩
  intro pa cca hm p hr
  refine ⟨m + k, ?_⟩
  have hm' := State.skip_Maps s m _ _ _ _ _ hm
  unfold loadLeft
  refine (bind_ok hb).trans ((bind_ok hm'.1).trans ((bind_ok (checkData_ok hm'.2.1 hm'.2.2)).trans
    ((look_bind _ _ _).trans ?_)))
  refine (bind_ok (readMem_ok (s := s.skip m) hr)).trans ((bind_ok hv).trans ?_)
  rw [State.skip_skip]; rfl

/-- A right load. -/
theorem loadRight_ok (base rt : RegNum) (off : BitVec 16) (n : Nat) (s : State) :
    ∃ b v, s.Reads base b ∧ s.ReadsMerged rt v ∧ ∀ pa cca, s.Maps (s.normVa (b + off.signExtend 64)) .load 1 pa cca →
      let p := s.rightPart (s.normVa (b + off.signExtend 64)) pa n
      s.Readable p.1 p.2 → ∃ m, loadRight base rt off n s =
        .ok ((s.memVal p.1 p.2 ||| (v &&& ~~~lowBytes p.2), p.2 == n), s.skip m) := by
  obtain ⟨b, m, hb, rb⟩ := effAddr_reads base off s
  obtain ⟨v, k, hv, rv⟩ := readGprMerge_reads rt (s.skip m)
  refine ⟨b, v, rb, rv, ?_⟩
  intro pa cca hm p hr
  refine ⟨m + k, ?_⟩
  have hm' := State.skip_Maps s m _ _ _ _ _ hm
  unfold loadRight
  refine (bind_ok hb).trans ((bind_ok hm'.1).trans ((bind_ok (checkData_ok hm'.2.1 hm'.2.2)).trans
    ((look_bind _ _ _).trans ?_)))
  refine (bind_ok (readMem_ok (s := s.skip m) hr)).trans ((bind_ok hv).trans ?_)
  rw [State.skip_skip]; rfl

/-! ### Where an access stops -/

theorem effAddr_settled {base : RegNum} {s : State} (off : BitVec 16) (h : s.Settled base) :
    effAddr base off s = .ok (s.normVa (s.gprVal base + off.signExtend 64), s) := bind_ok (readGpr_settled h)

/-- An address above the bound of the R4650's kuseg is a bounds violation, aligned or not. -/
theorem translate_outOfBounds {s : State} {va : DWord} {k : Access} {n : Nat} {m : Mode} (hm : s.mode? = some m)
    (hu : s.boundsUnsettled va = false) (hb : s.outOfBounds va k = true) :
    translate va k n s = .error (.exc (.bounds va k.isStore) s) :=
  bind_error ((bind_ok (currentMode_ok hm)).trans ((look_bind _ _ _).trans ((bind_ok (refuseIf_ok _ _ hu)).trans
    ((look_bind _ _ _).trans (bind_error (raiseIf_error _ _ hb))))))

/-- A misaligned address inside the bounds is an Address Error. -/
theorem translate_misaligned {s : State} {va : DWord} {k : Access} {n : Nat} {m : Mode} (hm : s.mode? = some m)
    (hu : s.boundsUnsettled va = false) (hb : s.outOfBounds va k = false) (hn : va.toNat % n ≠ 0) :
    translate va k n s = .error (.exc (.addressError va k.isStore) s) :=
  bind_error ((bind_ok (currentMode_ok hm)).trans ((look_bind _ _ _).trans ((bind_ok (refuseIf_ok _ _ hu)).trans
    ((look_bind _ _ _).trans ((bind_ok (raiseIf_ok _ _ hb)).trans
      (bind_error (raiseIf_error _ _ (by simpa using hn))))))))

/-- The segment of an aligned address inside the bounds; where the mode may not go there it is an Address Error. -/
theorem locate_eq {s : State} {va : DWord} {k : Access} {n : Nat} {m : Mode} (hm : s.mode? = some m)
    (hu : s.boundsUnsettled va = false) (hb : s.outOfBounds va k = false) (hn : va.toNat % n = 0) :
    locate va k n s = if s.segment m va = .addressError then .error (.exc (.addressError va k.isStore) s)
      else .ok (s.segment m va, s) := by
  refine (bind_ok (currentMode_ok hm)).trans ((look_bind _ _ _).trans ((bind_ok (refuseIf_ok _ _ hu)).trans
    ((look_bind _ _ _).trans ((bind_ok (raiseIf_ok _ _ hb)).trans ((bind_ok (raiseIf_ok _ _ (by simp [hn]))).trans
      ((look_bind _ _ _).trans ?_))))))
  split
  · rename_i h; exact bind_error (raiseIf_error _ _ (by simp [h]))
  · rename_i h; exact (bind_ok (raiseIf_ok _ _ (by simp [h]))).trans rfl

/-- Where translation answers, its two parts do, and the first changes nothing. -/
theorem translate_split {s : State} {va : DWord} {k : Access} {n : Nat} {r : Nat × BitVec 3}
    (h : translate va k n s = .ok (r, s)) :
    ∃ seg, locate va k n s = .ok (seg, s) ∧ resolve va k seg s = .ok (r, s) := by
  unfold translate at h
  rw [op_bind] at h
  cases hm : s.mode? with
  | none => simp [locate, op_bind, currentMode, hm] at h
  | some m =>
    cases hu : s.boundsUnsettled va with
    | true => simp [locate, op_bind, currentMode, hm, refuseIf, hu] at h
    | false =>
      cases hb : s.outOfBounds va k with
      | true => simp [locate, op_bind, currentMode, hm, refuseIf, hu, raiseIf, hb] at h
      | false =>
        by_cases hn : va.toNat % n = 0
        · rw [locate_eq hm hu hb hn] at h ⊢
          split at h
          · rename_i e; split at e <;> simp at e
            rename_i g
            obtain ⟨rfl, rfl⟩ := e
            exact ⟨_, by rw [if_neg g], h⟩
          · simp at h
        · rw [show locate va k n s = .error (.exc (.addressError va k.isStore) s) from ?_] at h
          · simp at h
          · refine (bind_ok (currentMode_ok hm)).trans ((look_bind _ _ _).trans ((bind_ok (refuseIf_ok _ _ hu)).trans
              ((look_bind _ _ _).trans ((bind_ok (raiseIf_ok _ _ hb)).trans
                (bind_error (raiseIf_error _ _ (by simpa using hn)))))))

/-! ### The ways a load or a store completes -/

/-- An instruction that stores at one place, and else changes nothing but the model's records. -/
theorem runSeq_setMem {x : Op Unit} {s : State} {pa n m : Nat} {v : DWord} (hi : s.isc = false)
    (h : x s = .ok ((), (s.skip m).putMem pa n v)) :
    ∃ t, runSeq x s = .next t ∧ memReadList t.mem (s.lanes pa n) = toBytes s.bigEndianCpu n v ∧
      Frame { mem := s.lanes pa n } s t ∧ Sequential s t := by
  rw [putMem_plain (by exact hi)] at h
  refine ⟨_, runSeq_ok h, setMem_reads (s.skip m) pa n v, ?_, sequential_advance rfl⟩
  exact ((same_skip s m).frame _).trans
    ((frame_setMem (s.skip m) pa n v fun _ h => h).trans ((same_advance _).frame _))

/-- The register that the next instruction must not use. -/
theorem delayGpr_haz (s : State) (l : Isa) (b : Bool) (r : RegNum) :
    (s.delayGpr l b r).advance.haz.gpr = if s.par.cpu.isa.rank ≤ l.rank then some r else s.hazNext.gpr := by
  unfold State.delayGpr
  split <;> rfl

/-- The register a load wrote, and its hazard (R673). -/
theorem runSeq_loaded {x : Op Unit} {s : State} {r : RegNum} {v : DWord} {n : Nat}
    (h : x s = .ok ((), ((s.skip n).putGpr r v).delayGpr .mips1 false r)) :
    ∃ t, runSeq x s = .next t ∧ (r ≠ 0#5 → t.gprVal r = s.narrow v) ∧
      (s.hazNext = Hazards.none → ∀ q, t.Settled q ↔ ¬(s.par.cpu.isa = .mips1 ∧ q = r ∧ r ≠ 0#5)) ∧
      Frame { gpr := [r] } s t ∧ Sequential s t := by
  refine ⟨_, runSeq_ok h, fun hr => ?_, fun hz q => ?_, ?_, sequential_advance (by simp)⟩
  · rw [gprVal_congr (t := (((s.skip n).putGpr r v).delayGpr .mips1 false r).advance) (s := (s.skip n).putGpr r v)
      (by simp) (by simp), putGpr_self _ _ hr]
    rfl
  · have e : (((s.skip n).putGpr r v).delayGpr .mips1 false r).advance.haz.gpr =
        if s.par.cpu.isa.rank ≤ 1 then some r else none := by
      rw [delayGpr_haz, show ((s.skip n).putGpr r v).hazNext = s.hazNext by simp, hz]
      simp; rfl
    unfold State.Settled
    rw [e]
    have hk : s.par.cpu.isa.rank ≤ 1 ↔ s.par.cpu.isa = .mips1 := by cases s.par.cpu.isa <;> simp [Isa.rank]
    split
    · rename_i h1
      rw [hk] at h1
      constructor
      · rintro h ⟨-, rfl, h2⟩; exact h ⟨rfl, h2⟩
      · rintro h ⟨h2, h3⟩; cases h2; exact h ⟨h1, rfl, h3⟩
    · rename_i h1
      rw [hk] at h1
      constructor
      · rintro - ⟨h2, -⟩; exact h1 h2
      · rintro - ⟨h2, -⟩; cases h2
  · exact ((same_skip s n).frame _).trans ((frame_putGpr _ r v (by simp)).trans
      (((same_delayGpr _ _ _ _).trans (same_advance _)).frame _))

end Sys2Proof.Machine
end

