-- ==== Sys2Proof/Laws/Isolated.lean ====
section
/-! SUPPORT. The isolated caches of the R30xx and the watches of the R4650, each operation said once: what an isolated
load reads and an isolated store writes (R261, R262), and what a watched access does (R1032). -/

namespace Sys2Proof.Machine

/-! ### The isolated array -/

/-- Every array is as large as a power of two of at least a doubleword. -/
theorem isolatedBytes_pow (s : State) : ∃ k, 3 ≤ k ∧ s.isolatedBytes = 2 ^ k := by
  unfold State.isolatedBytes
  split <;> cases s.par.cpu <;> (try cases (Cpu.is3071 _ && bit s.cp0.config 23)) <;>
    first
    | exact ⟨9, by decide, rfl⟩ | exact ⟨10, by decide, rfl⟩ | exact ⟨11, by decide, rfl⟩ | exact ⟨12, by decide, rfl⟩
    | exact ⟨13, by decide, rfl⟩ | exact ⟨14, by decide, rfl⟩ | exact ⟨15, by decide, rfl⟩

/-- Four bytes in a row are at four places of the array. -/
theorem isolatedPlaces_nodup (s : State) (a : Nat) {n : Nat} (hn : n ≤ 4) : (s.isolatedPlaces a n).Nodup := by
  obtain ⟨k, hk, hb⟩ := isolatedBytes_pow s
  have hdvd : 8 ∣ s.isolatedBytes := hb ▸ (Nat.pow_dvd_pow 2 hk : 2 ^ 3 ∣ 2 ^ k)
  -- two addresses less than a word apart, seen modulo eight
  have key : ∀ i j, i < j → j < 4 → s.byteLane (a + i) % 8 ≠ s.byteLane (a + j) % 8 := by
    intro i j hij hj
    have hx : ∀ x, (x ^^^ 3) % 8 = (x % 8) ^^^ 3 := fun x => Nat.xor_mod_two_pow (n := 3)
    have hy : ∀ x, (x ^^^ 7) % 8 = (x % 8) ^^^ 7 := fun x => Nat.xor_mod_two_pow (n := 3)
    have hne : (a + i) % 8 ≠ (a + j) % 8 := by omega
    unfold State.byteLane
    split
    · intro h
      have he : s.par.cpu.elemBytes - 1 = 3 ∨ s.par.cpu.elemBytes - 1 = 7 := by cases s.par.cpu <;> simp [Cpu.elemBytes, Cpu.is64, Cpu.is30xx]
      rcases he with e | e <;> rw [e] at h
      · rw [hx, hx] at h; exact hne (Nat.xor_left_injective h)
      · rw [hy, hy] at h; exact hne (Nat.xor_left_injective h)
    · exact hne
  have diff : ∀ i j, i < j → j < 4 → s.byteLane (a + i) % s.isolatedBytes ≠ s.byteLane (a + j) % s.isolatedBytes := by
    intro i j hij hj h
    have := congrArg (· % 8) h
    simp only [Nat.mod_mod_of_dvd _ hdvd] at this
    exact key i j hij hj this
  suffices ∀ m i, i + m ≤ 4 → (byteAddrs (fun x => s.byteLane x % s.isolatedBytes) (a + i) m).Nodup from
    this n 0 (by omega)
  intro m
  induction m with
  | zero => intro i _; simp [byteAddrs]
  | succ m ih =>
    intro i hi
    simp only [byteAddrs, List.nodup_cons]
    refine ⟨fun h => ?_, ih (i + 1) (by omega)⟩
    obtain ⟨j, hj, e⟩ := mem_byteAddrs.mp h
    rw [show a + i + 1 + j = a + (i + 1 + j) by omega] at e
    exact diff i (i + 1 + j) (by omega) (by omega) e

/-- A change of SR alone. -/
theorem frame_setSr (s : State) (v : Word) : Frame { cp0 := true } s (s.setSr v) :=
  ⟨fun _ _ => rfl, fun _ _ => rfl, fun _ => ⟨rfl, rfl⟩, nofun, fun _ => rfl, fun _ => ⟨rfl, rfl⟩, rfl, rfl, rfl, rfl, rfl, rfl⟩

/-- An isolated read gives the array's data and changes SR.CM alone. -/
theorem readMem_isolated {s : State} (h : s.isc = true) (a n : Nat) :
    ∃ t, readMem a n s = .ok (s.isolatedVal a n, t) ∧ IsolatedLoad s t a ∧ Frame { cp0 := true } s t ∧ t.haz = s.haz ∧
      t.hazNext = s.hazNext ∧ t.gpr = s.gpr ∧ t.pc = s.pc ∧ t.nextPc = s.nextPc := by
  have e : (assocGet (a % s.isolatedBytes / s.isolatedLine) s.isolated.lines == some (a / s.isolatedBytes)) =
      !decide (assocGet (s.isolatedIndex a) s.isolated.lines ≠ some (a / s.isolatedBytes)) := by
    rw [← State.isolatedIndex, beq_eq_decide]; simp
  refine ⟨s.setSr (setBit s.cp0.sr 19 (decide (assocGet (s.isolatedIndex a) s.isolated.lines ≠ some (a / s.isolatedBytes)))),
    ?_, ⟨rfl, rfl, rfl, rfl, rfl⟩, frame_setSr _ _, rfl, rfl, rfl, rfl, rfl⟩
  simp only [readMem, h, if_true, State.isolatedLoad, State.isolatedVal, e, Bool.not_not]

/-- An isolated write: into the array, and nowhere else. -/
theorem putMem_isolated {s : State} (h : s.isc = true) (a : Nat) {n : Nat} (v : DWord) :
    ∃ c, s.putMem a n v = s.setIsolated c ∧
      (n = 4 → memReadList c.data (s.isolatedPlaces a 4) = toBytes s.bigEndianCpu 4 v ∧
        assocGet (s.isolatedIndex a) c.lines = some (a / s.isolatedBytes)) ∧
      (n ≠ 4 → c.data = s.isolated.data ∧ assocGet (s.isolatedIndex a) c.lines = none) ∧
      (∀ x, x ∉ s.isolatedPlaces a n → memRead c.data x = memRead s.isolated.data x) ∧
      ∀ l, l ≠ s.isolatedIndex a → assocGet l c.lines = assocGet l s.isolated.lines := by
  simp only [State.putMem, h, if_true, State.isolatedStore]
  split
  · rename_i hn
    subst hn
    refine ⟨_, rfl, fun _ => ⟨?_, assocGet_set_self _ _ _⟩, fun hx => absurd rfl hx, fun x hx => ?_, fun l hl => ?_⟩
    · exact memReadList_writeList _ _ _ (by simp [State.isolatedPlaces]) (isolatedPlaces_nodup s a (by decide))
    · exact memRead_writeList_ne _ _ _ hx
    · exact assocGet_set_ne hl _ _
  · rename_i hn
    exact ⟨_, rfl, fun hx => absurd hx hn, fun _ => ⟨rfl, assocGet_erase_self _ _⟩, fun _ _ => rfl,
      fun l hl => assocGet_erase_ne hl _⟩

/-- An instruction that stores in the isolated array, and else changes nothing but the model's records. -/
theorem runSeq_isolated {x : Op Unit} {s : State} {pa n m : Nat} {v : DWord} (hi : s.isc = true)
    (h : x s = .ok ((), (s.skip m).putMem pa n v)) : ∃ t, runSeq x s = .next t ∧ IsolatedStore s t pa n v ∧ Sequential s t := by
  obtain ⟨c, e, h4, hn, hd, hl⟩ := putMem_isolated (s := s.skip m) hi pa (n := n) v
  rw [e] at h
  refine ⟨_, runSeq_ok h, ⟨c, ?_, h4, hn, hd, hl⟩, sequential_advance (by unfold State.setIsolated; split <;> rfl)⟩
  refine Frame.trans ?_ ((same_advance _).frame _)
  unfold State.setIsolated
  show Frame {} (if s.swc then _ else _) (if s.swc then _ else _)
  split <;> exact ⟨fun _ _ => rfl, fun _ _ => rfl, fun _ => ⟨rfl, rfl⟩, fun _ => ⟨rfl, rfl, rfl, rfl, rfl⟩, fun _ => rfl,
    fun _ => ⟨rfl, rfl⟩, rfl, rfl, rfl, rfl, rfl, rfl⟩

/-! ### Watched accesses -/

/-- An access that DWatch names takes the Watch exception, or is postponed while EXL or ERL is set (R167, R1032). -/
theorem checkData_watched {s : State} {va : DWord} {k : Access} {pa : Nat} (hc : s.cacheErrorDue true = none)
    (hw : s.Watches (if k.isStore then 1 else 2) va) :
    checkData va k pa s = if s.exl || s.erl then .ok ((), { s with watchD := true }) else .error (.exc (.watch false true) s) := by
  obtain ⟨h1, h2, h3⟩ := hw
  have hit : s.dWatchHit va k = true := by simp [State.dWatchHit, h1, h2, h3]
  simp only [checkData, bind, StateT.bind, cacheCheck_ok _ _ hc, Except.bind, hit, if_true, watchMatch]
  split <;> simp

end Sys2Proof.Machine
end

