-- ==== Sys2Proof/Laws/Keeps.lean ====
section
/-! SUPPORT. Operations that keep a relation between the state before and after: how composed operations do, and that
the operations the meanings are made of keep every relation that their few kinds of change keep. -/

namespace Sys2Proof.Machine

/-! ### Keeping a relation -/

/-- The member can take the exception: TLB shutdown is one of the R30xx TLB only, Cache Error one of the R4xxx and R5000. -/
def Exc.fits (p : Params) : Exc → Prop
  | .tlbShutdown => p.mmu = .tlb64
  | .cacheError _ => p.cpu.is30xx = false
  | _ => True

/-- Whatever an operation answers at `s`, or the state it raises an exception in, is related to the state before, and the
member can take the exception. -/
def KeepsAt {α : Type} (P : State → State → Prop) (s : State) : Except Stop (α × State) → Prop
  | .ok r => P s r.2
  | .error (.exc e t) => P s t ∧ e.fits t.par
  | .error (.refused _) => True

/-- The operation keeps the relation at every state. -/
def Op.Keeps {α : Type} (P : State → State → Prop) (x : Op α) : Prop := ∀ s, KeepsAt P s (x s)

/-- From `s` to `t` the memories, coprocessor 0, the TLBs, FCR31, the timer and the halt stay: what changes is the general
registers, HI and LO, the FGRs, control, a postponed watch, and the model's records. -/
structure Quiet (s t : State) : Prop where
  par : t.par = s.par
  cp0 : t.cp0 = s.cp0
  tlb64 : t.tlb64 = s.tlb64
  tlb48 : t.tlb48 = s.tlb48
  fcr31 : t.fpu.fcr31 = s.fpu.fcr31
  mem : t.mem = s.mem
  icache : t.icache = s.icache
  dcache : t.dcache = s.dcache
  timerIrq : t.timerIrq = s.timerIrq
  halted : t.halted = s.halted

/-- A relation that the kinds of change the unprivileged instructions make all keep. -/
structure Steady (P : State → State → Prop) : Prop where
  refl : ∀ s, P s s
  trans : ∀ s t u, P s t → P t u → P s u
  quiet : ∀ s t, Quiet s t → P s t
  mem : ∀ s a n v, P s (s.setMem a n v)
  isolated : ∀ s a n v, P s (s.isolatedStore a n v)
  cm : ∀ s b, s.isc = true → P s (s.setSr (setBit s.cp0.sr 19 b))
  fcr31 : ∀ s v, (∀ i, bit v i = true → bit s.fpu.fcr31 i = true ∨ bit (fcr31Mask s.par.cpu) i = true) →
    P s (s.setFcr31 v)
  link : ∀ s l, P s (s.setLink l)

/-! ### Putting operations together -/

variable {P : State → State → Prop}

theorem keeps_pure (h : Steady P) {α : Type} (a : α) : Op.Keeps P (pure a) := fun s => h.refl s
theorem keeps_look (h : Steady P) {α : Type} (f : State → α) : Op.Keeps P (look f) := fun s => h.refl s
theorem keeps_raise (h : Steady P) {α : Type} {e : Exc} (he : ∀ p, e.fits p) : Op.Keeps P (raise e : Op α) := fun s =>
  ⟨h.refl s, he _⟩
theorem keeps_refuse {α : Type} (r : Refusal) : Op.Keeps P (refuse r : Op α) := fun _ => trivial
theorem keeps_change {f : State → State} (hf : ∀ s, P s (f s)) : Op.Keeps P (change f) := hf
theorem keeps_quiet (h : Steady P) {f : State → State} (hf : ∀ s, Quiet s (f s)) : Op.Keeps P (change f) := fun s => h.quiet _ _ (hf s)

theorem keeps_bind (h : Steady P) {α β : Type} {x : Op α} {f : α → Op β} (hx : x.Keeps P) (hf : ∀ a, (f a).Keeps P) :
    Op.Keeps P (x >>= f) := by
  intro s
  have h1 := hx s
  rw [op_bind]
  cases e : x s with
  | error e' =>
    rw [e] at h1
    cases e' with
    | exc x t => exact h1
    | refused _ => trivial
  | ok r =>
    rw [e] at h1
    have h2 := hf r.1 r.2
    dsimp only
    cases e2 : f r.1 r.2 with
    | ok q => rw [e2] at h2; exact h.trans _ _ _ h1 h2
    | error e' =>
      rw [e2] at h2
      cases e' with
      | exc x t => exact ⟨h.trans _ _ _ h1 h2.1, h2.2⟩
      | refused _ => trivial

/-- Keeping a relation after a first change. -/
theorem keepsAt_after (h : Steady P) {α : Type} {s t : State} {r : Except Stop (α × State)} (a : P s t)
    (b : KeepsAt P t r) : KeepsAt P s r := by
  match r, b with
  | .ok _, b => exact h.trans _ _ _ a b
  | .error (.exc _ _), b => exact ⟨h.trans _ _ _ a b.1, b.2⟩
  | .error (.refused _), _ => exact trivial

theorem keeps_raiseIf (h : Steady P) (c : Bool) {e : Exc} (he : ∀ p, e.fits p) : Op.Keeps P (raiseIf c e) := by
  intro s; cases c
  · exact h.refl s
  · exact ⟨h.refl s, he _⟩

theorem keeps_refuseIf (h : Steady P) (c : Bool) (r : Refusal) : Op.Keeps P (refuseIf c r) := by
  intro s; cases c
  · exact h.refl s
  · exact trivial

theorem keeps_ite {α : Type} {c : Prop} [Decidable c] {x y : Op α} (hx : x.Keeps P) (hy : y.Keeps P) :
    Op.Keeps P (if c then x else y) := by split <;> assumption

/-! ### Registers and checks -/

theorem quiet_useFree (s : State) : Quiet s s.useFree := by constructor <;> rfl
theorem keeps_fresh (h : Steady P) : Op.Keeps P fresh := fun s => h.quiet _ _ (quiet_useFree s)

theorem keeps_freeIf (h : Steady P) (c : Bool) (v : DWord) : Op.Keeps P (freeIf c v) := by
  intro s; cases c
  · exact h.refl s
  · exact h.quiet _ _ (quiet_useFree s)

theorem keeps_readGpr (h : Steady P) (r : RegNum) : Op.Keeps P (readGpr r) := by
  intro s; unfold readGpr; split
  · exact h.quiet _ _ (quiet_useFree s)
  · exact h.refl s

theorem quiet_putGpr (s : State) (r : RegNum) (v : DWord) : Quiet s (s.putGpr r v) := by constructor <;> simp
theorem keeps_writeGpr (h : Steady P) (r : RegNum) (v : DWord) : Op.Keeps P (writeGpr r v) :=
  keeps_quiet h fun s => quiet_putGpr s r v

theorem quiet_delayGpr (s : State) (l : Isa) (b : Bool) (r : RegNum) : Quiet s (s.delayGpr l b r) := by
  constructor <;> simp
theorem keeps_writeGprLoaded (h : Steady P) (r : RegNum) (v : DWord) : Op.Keeps P (writeGprLoaded r v) :=
  keeps_bind h (keeps_writeGpr h r v) fun _ => keeps_quiet h fun s => quiet_delayGpr s _ _ _
theorem keeps_writeGprMoved (h : Steady P) (l : Isa) (r : RegNum) (v : DWord) : Op.Keeps P (writeGprMoved l r v) :=
  keeps_bind h (keeps_writeGpr h r v) fun _ => keeps_quiet h fun s => quiet_delayGpr s _ _ _

theorem keeps_currentMode (h : Steady P) : Op.Keeps P currentMode := by
  intro s; unfold currentMode
  cases s.mode? with
  | some m => exact h.refl s
  | none => exact trivial

theorem keeps_requireIsa (h : Steady P) (l : Isa) : Op.Keeps P (requireIsa l) := by
  intro s; unfold requireIsa; split
  · exact h.refl s
  · exact ⟨h.refl s, trivial⟩

theorem keeps_require64 (h : Steady P) : Op.Keeps P require64 :=
  keeps_bind h (keeps_requireIsa h _) fun _ => keeps_bind h (keeps_currentMode h) fun _ =>
    keeps_bind h (keeps_look h _) fun _ => keeps_raiseIf h _ fun _ => trivial

theorem keeps_requireCop (h : Steady P) (z : BitVec 2) : Op.Keeps P (requireCop z) := by
  unfold requireCop
  refine keeps_bind h (keeps_look h _) fun _ => keeps_bind h (keeps_raiseIf h _ fun _ => trivial) fun _ => ?_
  split
  · exact keeps_bind h (keeps_currentMode h) fun _ => keeps_bind h (keeps_look h _) fun _ => keeps_raiseIf h _ fun _ => trivial
  · exact keeps_bind h (keeps_pure h _) fun _ => keeps_bind h (keeps_look h _) fun _ => keeps_raiseIf h _ fun _ => trivial

theorem keeps_refuseInDelaySlot (h : Steady P) : Op.Keeps P refuseInDelaySlot := by
  intro s; unfold refuseInDelaySlot
  cases s.inDelay
  · exact h.refl s
  · exact trivial

/-! ### Memory -/

theorem keeps_effAddr (h : Steady P) (base : RegNum) (off : BitVec 16) : Op.Keeps P (effAddr base off) :=
  keeps_bind h (keeps_readGpr h _) fun _ => keeps_look h _

theorem keeps_translate64 (h : Steady P) (va : DWord) (k : Access) (s : State) (hm : s.par.mmu = .tlb64) :
    KeepsAt P s (translate64 va k s) := by
  unfold translate64
  split
  · exact ⟨h.refl s, trivial⟩
  · split
    · exact ⟨h.refl s, trivial⟩
    · split
      · exact ⟨h.refl s, trivial⟩
      · exact h.refl s
  · exact ⟨h.refl s, hm⟩

theorem keeps_translate48 (h : Steady P) (va : DWord) (k : Access) : Op.Keeps P (translate48 va k) := by
  intro s; unfold translate48
  split
  · exact ⟨h.refl s, trivial⟩
  · dsimp only
    rename_i e n _
    generalize (if va.toNat / pageBytes e.mask % 2 = 0 then e.even else e.odd) = lo
    cases lo.v
    · exact ⟨h.refl s, trivial⟩
    · cases k.isStore && !lo.d
      · exact h.refl s
      · exact ⟨h.refl s, trivial⟩
  · exact trivial

theorem keeps_translateMapped (h : Steady P) (va : DWord) (k : Access) : Op.Keeps P (translateMapped va k) := by
  intro s; unfold translateMapped
  split
  · rename_i hm; exact keeps_translate64 h va k s hm
  · exact keeps_translate48 h va k s
  · exact h.refl s
  · exact h.refl s

theorem keeps_locate (h : Steady P) (va : DWord) (k : Access) (n : Nat) : Op.Keeps P (locate va k n) :=
  keeps_bind h (keeps_currentMode h) fun _ => keeps_bind h (keeps_look h _) fun _ => keeps_bind h (keeps_refuseIf h _ _)
    fun _ => keeps_bind h (keeps_look h _) fun _ => keeps_bind h (keeps_raiseIf h _ fun _ => trivial) fun _ =>
    keeps_bind h (keeps_raiseIf h _ fun _ => trivial) fun _ => keeps_bind h (keeps_look h _) fun _ =>
    keeps_bind h (keeps_raiseIf h _ fun _ => trivial) fun _ => keeps_pure h _

theorem keeps_resolve (h : Steady P) (va : DWord) (k : Access) (seg : Segment) : Op.Keeps P (resolve va k seg) := by
  refine keeps_bind h ?_ fun _ => keeps_bind h (keeps_refuseIf h _ _) fun _ => keeps_bind h (keeps_look h _) fun _ =>
    keeps_bind h (keeps_refuseIf h _ _) fun _ => keeps_pure h _
  cases seg with
  | addressError => exact keeps_raise h fun _ => trivial
  | mapped => exact keeps_translateMapped h va k
  | direct pa cca => exact keeps_pure h _

theorem keeps_translate (h : Steady P) (va : DWord) (k : Access) (n : Nat) : Op.Keeps P (translate va k n) :=
  keeps_bind h (keeps_locate h va k n) fun _ => keeps_resolve h va k _

/-- A cache error is due on the R4xxx and R5000 only. -/
theorem cacheErrorDue_not30xx {s : State} {d : Bool} {info : Word} (hi : s.cacheErrorDue d = some info) :
    s.par.cpu.is30xx = false := by
  unfold State.cacheErrorDue at hi
  split at hi
  · split at hi
    · rename_i hc; revert hc; cases s.par.cpu.is30xx <;> simp
    · exact absurd hi (by simp)
  · exact absurd hi (by simp)

theorem keeps_cacheCheck (h : Steady P) (d : Bool) (va : DWord) (pa : Option Nat) : Op.Keeps P (cacheCheck d va pa) := by
  intro s
  unfold cacheCheck
  split
  · exact h.refl s
  · rename_i info hi
    have fits : s.par.cpu.is30xx = false := cacheErrorDue_not30xx hi
    cases pa <;> exact ⟨h.quiet _ _ (by constructor <;> rfl), fits⟩

theorem keeps_watchMatch (h : Steady P) (i d : Bool) : Op.Keeps P (watchMatch i d) := by
  intro s; unfold watchMatch; split
  · exact h.quiet _ _ (by constructor <;> rfl)
  · exact ⟨h.refl s, trivial⟩

theorem keeps_watchFetch (h : Steady P) (va : DWord) : Op.Keeps P (watchFetch va) := by
  intro s; unfold watchFetch; split
  · exact keeps_watchMatch h _ _ s
  · exact h.refl s

theorem keeps_checkData (h : Steady P) (va : DWord) (k : Access) (pa : Nat) : Op.Keeps P (checkData va k pa) := by
  refine keeps_bind h (keeps_cacheCheck h true va (some pa)) fun _ => fun s => ?_
  split
  · exact keeps_watchMatch h _ _ s
  · exact h.refl s

theorem keeps_readMem (h : Steady P) (a n : Nat) : Op.Keeps P (readMem a n) := by
  intro s; unfold readMem
  split
  · rename_i hi; exact h.cm s _ hi
  · split
    · exact ⟨h.refl s, trivial⟩
    · exact h.refl s

theorem keeps_putMem (h : Steady P) (s : State) (a n : Nat) (v : DWord) : P s (s.putMem a n v) := by
  unfold State.putMem; split
  · exact h.isolated s a n v
  · exact h.mem s a n v

theorem keeps_writeMem (h : Steady P) (a n : Nat) (v : DWord) : Op.Keeps P (writeMem a n v) := fun s => keeps_putMem h s a n v

theorem keeps_loadAt (h : Steady P) (va : DWord) (n : Nat) : Op.Keeps P (loadAt va n) :=
  keeps_bind h (keeps_translate h _ _ _) fun _ => keeps_bind h (keeps_checkData h _ _ _) fun _ => keeps_readMem h _ _

theorem keeps_storeAt (h : Steady P) (va : DWord) (n : Nat) (v : DWord) : Op.Keeps P (storeAt va n v) :=
  keeps_bind h (keeps_translate h _ _ _) fun _ => keeps_bind h (keeps_checkData h _ _ _) fun _ => keeps_writeMem h _ _ _

theorem keeps_loadField (h : Steady P) (base : RegNum) (off : BitVec 16) (n : Nat) (f : DWord → DWord) :
    Op.Keeps P (loadField base off n f) :=
  keeps_bind h (keeps_effAddr h _ _) fun _ => keeps_bind h (keeps_loadAt h _ _) fun _ =>
    keeps_bind h (keeps_look h _) fun _ => keeps_freeIf h _ _

theorem keeps_storeField (h : Steady P) (base : RegNum) (off : BitVec 16) (n : Nat) (v : DWord) : Op.Keeps P (storeField base off n v) :=
  keeps_bind h (keeps_effAddr h _ _) fun _ => keeps_bind h (keeps_look h _) fun _ =>
    keeps_bind h (keeps_freeIf h _ _) fun _ => keeps_storeAt h _ _ _

theorem keeps_fetchWord (h : Steady P) : Op.Keeps P fetchWord :=
  keeps_bind h (keeps_look h _) fun _ => keeps_bind h (keeps_locate h _ _ _) fun _ =>
    keeps_bind h (keeps_watchFetch h _) fun _ => keeps_bind h (keeps_look h _) fun _ =>
    keeps_bind h (keeps_cacheCheck h _ _ _) fun _ =>
    keeps_bind h (keeps_resolve h _ _ _) fun _ => keeps_bind h (keeps_look h _) fun _ =>
    keeps_bind h (keeps_raiseIf h _ fun _ => trivial) fun _ => keeps_look h _

/-! ### Coprocessor 1 -/

theorem quiet_fpu {s t : State} (g : FpuStep s t) (hc : t.fpu.fcr31 = s.fpu.fcr31) : Quiet s t :=
  ⟨g.same.par, g.same.cp0, g.same.tlb64, g.same.tlb48, hc, g.same.mem, g.same.icache, g.same.dcache, g.same.timerIrq,
    g.same.halted⟩

theorem fcr_cause (s : State) (e : BitVec 5) (u : Bool) (i : Nat)
    (hi : bit (setCauseBits s.fpu.fcr31 e u) i = true) :
    bit s.fpu.fcr31 i = true ∨ bit (fcr31Mask s.par.cpu) i = true := by
  unfold setCauseBits at hi
  by_cases h1 : 12 ≤ i ∧ i < 18
  · right
    obtain ⟨a, b⟩ := h1
    unfold fcr31Mask
    interval_cases i <;> (split <;> [decide; (split <;> decide)])
  · left
    have h17 : i ≠ 17 := by omega
    unfold bit at *
    rw [getLsbD_setBit, if_neg (by omega)] at hi
    rw [getLsbD_setField, if_neg (by omega)] at hi
    exact hi

theorem fcr_flags (s : State) (v : Word) (e : BitVec 5)
    (hv : ∀ i, bit v i = true → bit s.fpu.fcr31 i = true ∨ bit (fcr31Mask s.par.cpu) i = true) (i : Nat)
    (hi : bit (addFlags v e) i = true) : bit s.fpu.fcr31 i = true ∨ bit (fcr31Mask s.par.cpu) i = true := by
  unfold addFlags at hi
  by_cases h1 : 2 ≤ i ∧ i < 7
  · right
    obtain ⟨a, b⟩ := h1
    unfold fcr31Mask
    interval_cases i <;> (split <;> [decide; (split <;> decide)])
  · refine hv i ?_
    unfold bit at *
    rw [getLsbD_setField, if_neg (by omega)] at hi
    exact hi

/-- FCR31 with other Cause bits, or with other Cause bits and Flags added. -/
theorem keeps_setCause (h : Steady P) (s : State) (e : BitVec 5) (u : Bool) :
    P s (s.setFcr31 (setCauseBits s.fpu.fcr31 e u)) := h.fcr31 s _ (fcr_cause s e u)

theorem keeps_setCauseFlags (h : Steady P) (s : State) (e : BitVec 5) :
    P s (s.setFcr31 (addFlags (setCauseBits s.fpu.fcr31 e false) e)) :=
  h.fcr31 s _ (fcr_flags s _ e (fcr_cause s e false))

theorem fcc_writable : ∀ cc : BitVec 3, bit (0xFF83FFFF#32) (fccBit cc) = true := by decide

theorem fcr_fcc (s : State) (cc : BitVec 3) (b : Bool) (i : Nat)
    (hi : bit (setBit s.fpu.fcr31 (fccBit (s.ccOf cc)) b) i = true) :
    bit s.fpu.fcr31 i = true ∨ bit (fcr31Mask s.par.cpu) i = true := by
  rw [bit_setBit] at hi
  split at hi
  · rename_i h1
    right
    obtain ⟨-, rfl⟩ := h1
    unfold State.ccOf fcr31Mask
    by_cases h4 : (s.par.cpu.isa == .mips4) = true
    · rw [if_pos h4]
      have h3 : s.par.cpu.is30xx = false := by
        revert h4; cases s.par.cpu <;> simp [Cpu.isa, Cpu.is30xx]
      rw [h3, if_neg (by simp), if_pos h4]
      exact fcc_writable cc
    · rw [if_neg h4]
      split <;> decide
  · exact Or.inl hi

theorem keeps_setFcc (h : Steady P) (s : State) (cc : BitVec 3) (b : Bool) : P s (s.setFcc cc b) :=
  h.fcr31 s _ (fcr_fcc s cc b)

theorem keeps_signalFp (h : Steady P) {masked : Op Unit} (hm : masked.Keeps P) : Op.Keeps P (signalFp masked) := by
  intro s; unfold signalFp
  cases s.par.cpu.is30xx
  · exact ⟨h.refl s, trivial⟩
  · cases s.fpaUnmasked
    · exact hm s
    · exact ⟨h.refl s, trivial⟩

theorem fcr_causeField (s : State) (e : BitVec 5) (i : Nat) (hi : bit (setField s.fpu.fcr31 12 e) i = true) :
    bit s.fpu.fcr31 i = true ∨ bit (fcr31Mask s.par.cpu) i = true := by
  by_cases h17 : i = 17
  · right; subst h17; unfold fcr31Mask; split <;> [decide; (split <;> decide)]
  · refine fcr_cause s e false i ?_
    unfold setCauseBits
    rw [bit_setBit, if_neg (by simp [h17])]
    exact hi

theorem keeps_fpMasked (h : Steady P) : Op.Keeps P fpMasked := fun s =>
  h.trans _ _ _ (h.quiet _ _ (quiet_useFree s)) (h.fcr31 s.useFree _ (fcr_causeField s _))

theorem keeps_fpUnimplemented (h : Steady P) : Op.Keeps P fpUnimplemented :=
  keeps_bind h (fun s => h.trans _ _ _ (h.quiet _ _ (quiet_useFree s)) (keeps_setCause h s.useFree _ true)) fun _ =>
    keeps_signalFp h (keeps_fpMasked h)

theorem keeps_fpFinish (h : Steady P) (d : Bool) (o : FpOut) (nan : DWord → DWord) {result : DWord → Op Unit}
    (hr : ∀ v, (result v).Keeps P) (fcr : Word) : Op.Keeps P (fpFinish fcr d o nan result) := by
  intro s; unfold fpFinish
  split
  · exact keeps_fpUnimplemented h s
  · split
    · exact keepsAt_after h (keeps_setCause h s o.e false) (keeps_signalFp h (keeps_fpMasked h) _)
    · have a := keeps_setCauseFlags h s o.e
      dsimp only
      split
      · exact keepsAt_after h a (keepsAt_after h (h.quiet _ _ (quiet_useFree _)) (hr _ _))
      · exact keepsAt_after h a (hr _ _)

theorem keeps_fpUndefined (h : Steady P) {result : DWord → Op Unit} (hr : ∀ v, (result v).Keeps P) :
    Op.Keeps P (fpUndefined result) := fun s => keepsAt_after h (h.quiet _ _ (quiet_useFree s)) (hr _ _)

theorem freeFpr_step (s : State) (r : RegNum) : FpuStep s (s.freeFpr r) := by
  unfold State.freeFpr
  dsimp only
  split
  · exact ((fpuStep_useFree s).trans (fpuStep_setFgrLo _ _ _)).trans (fpuStep_setTag _ _ _)
  · exact (fpuStep_useFree s).trans (setFgrDouble_step _ _ _)

theorem freeFpr_fcr31 (s : State) (r : RegNum) : (s.freeFpr r).fpu.fcr31 = s.fpu.fcr31 := by
  unfold State.freeFpr
  dsimp only
  split
  · rfl
  · rw [setFgrDouble_fcr31]; rfl

theorem quiet_freeFpr (s : State) (r : RegNum) : Quiet s (s.freeFpr r) := quiet_fpu (freeFpr_step s r) (freeFpr_fcr31 s r)

theorem keeps_foldl_freeFpr (h : Steady P) (rs : List RegNum) (s : State) : P s (rs.foldl State.freeFpr s) := by
  induction rs generalizing s with
  | nil => exact h.refl s
  | cons r rs ih => exact h.trans _ _ _ (h.quiet _ _ (quiet_freeFpr s r)) (ih _)

theorem keeps_fpChecked (h : Steady P) (f g : Fmt) (srcs dst : List RegNum) {undef run : Op Unit} (hu : undef.Keeps P)
    (hr : run.Keeps P) : Op.Keeps P (fpChecked f g srcs dst undef run) := by
  intro s; unfold fpChecked
  dsimp only
  split
  · exact h.refl s
  · split
    · exact keeps_fpUnimplemented h s
    · split
      · exact hu s
      · split
        · exact keepsAt_after h (keeps_foldl_freeFpr h srcs s) (hu _)
        · exact hr s

theorem keeps_readFcr31 (h : Steady P) : Op.Keeps P readFcr31 := by
  intro s; unfold readFcr31; split
  · exact h.quiet _ _ (quiet_useFree s)
  · exact h.refl s

theorem quiet_setTag (s : State) (r : RegNum) (t : FprTag) : Quiet s (s.setTag r t) := quiet_fpu (fpuStep_setTag s r t) rfl

theorem keeps_readFpr (h : Steady P) (r : RegNum) (f : Fmt) : Op.Keeps P (readFpr r f) := by
  intro s; unfold readFpr; split
  · exact h.trans _ _ _ (h.quiet _ _ (quiet_setTag s r f.tag)) (h.quiet _ _ (quiet_useFree _))
  · exact h.quiet _ _ (quiet_setTag s r f.tag)

theorem setFpr_fcr31 (s : State) (r : RegNum) (f : Fmt) (v : DWord) : (s.setFpr r f v).fpu.fcr31 = s.fpu.fcr31 := by
  unfold State.setFpr
  rw [setFormat_fcr31]
  split
  · exact setFgrDouble_fcr31 s r v
  · split
    · exact (setFgrWord_spec s r v).2.2
    · split <;> rfl

theorem keeps_writeFpr (h : Steady P) (r : RegNum) (f : Fmt) (v : DWord) : Op.Keeps P (writeFpr r f v) := fun s =>
  h.quiet _ _ (quiet_fpu (setFpr_step s r f v) (setFpr_fcr31 s r f v))

theorem keeps_freeFprOp (h : Steady P) (r : RegNum) : Op.Keeps P (freeFprOp r) := keeps_quiet h fun s => quiet_freeFpr s r

theorem keeps_fpGate (h : Steady P) (l : Isa) : Op.Keeps P (fpGate l) :=
  keeps_bind h (keeps_requireCop h _) fun _ => keeps_requireIsa h _

theorem keeps_fpUnary (h : Steady P) (l : Isa) (f g : Fmt) (fs fd : RegNum) (extra : Params → DWord → FpOut → Bool)
    (k : Word → DWord → FpOut) : Op.Keeps P (fpUnary l f g fs fd extra k) :=
  keeps_bind h (keeps_fpGate h l) fun _ => keeps_fpChecked h _ _ _ _ (keeps_fpUndefined h fun _ => keeps_freeFprOp h _)
    (keeps_bind h (keeps_readFcr31 h) fun _ => keeps_bind h (keeps_readFpr h _ _) fun _ =>
      keeps_bind h (keeps_look h _) fun _ => keeps_fpFinish h _ _ _ (keeps_writeFpr h _ _) _)

theorem keeps_fpApprox (h : Steady P) (f : FFmt) (fs fd : RegNum) (k : Word → DWord → DWord → FpOut) :
    Op.Keeps P (fpApprox f fs fd k) :=
  keeps_bind h (keeps_fpGate h _) fun _ => keeps_fpChecked h _ _ _ _ (keeps_fpUndefined h fun _ => keeps_freeFprOp h _)
    (keeps_bind h (keeps_readFcr31 h) fun _ => keeps_bind h (keeps_fresh h) fun _ =>
      keeps_bind h (keeps_readFpr h _ _) fun _ => keeps_bind h (keeps_look h _) fun _ =>
      keeps_fpFinish h _ _ _ (keeps_writeFpr h _ _) _)

theorem keeps_fpBinary (h : Steady P) (l : Isa) (f : FFmt) (ft fs fd : RegNum) (k : Word → DWord → DWord → FpOut) :
    Op.Keeps P (fpBinary l f ft fs fd k) :=
  keeps_bind h (keeps_fpGate h _) fun _ => keeps_fpChecked h _ _ _ _ (keeps_fpUndefined h fun _ => keeps_freeFprOp h _)
    (keeps_bind h (keeps_readFcr31 h) fun _ => keeps_bind h (keeps_readFpr h _ _) fun _ =>
      keeps_bind h (keeps_readFpr h _ _) fun _ => keeps_bind h (keeps_look h _) fun _ =>
      keeps_fpFinish h _ _ _ (keeps_writeFpr h _ _) _)

theorem keeps_fpTernary (h : Steady P) (f : FFmt) (fr ft fs fd : RegNum) (k : Rm → DWord → DWord → FpOut) :
    Op.Keeps P (fpTernary f fr ft fs fd k) :=
  keeps_bind h (keeps_requireIsa h _) fun _ => keeps_bind h (keeps_requireCop h _) fun _ =>
    keeps_fpChecked h _ _ _ _ (keeps_fpUndefined h fun _ => keeps_freeFprOp h _)
    (keeps_bind h (keeps_readFcr31 h) fun _ => keeps_bind h (keeps_readFpr h _ _) fun _ =>
      keeps_bind h (keeps_readFpr h _ _) fun _ => keeps_bind h (keeps_readFpr h _ _) fun _ =>
      keeps_bind h (keeps_look h _) fun _ =>
      keeps_ite (keeps_fpFinish h _ _ _ (keeps_writeFpr h _ _) _) (keeps_fpFinish h _ _ _ (keeps_writeFpr h _ _) _))

theorem quiet_delayCond (s : State) (n : Nat) : Quiet s (s.delayCond n) :=
  quiet_fpu (fpuStep_delayCond s n) (by simp)

theorem keeps_fpCompare (h : Steady P) (f : FFmt) (cond : BitVec 4) (ft fs : RegNum) (cc : BitVec 3) :
    Op.Keeps P (fpCompare f cond ft fs cc) := by
  have w (b : Bool) : Op.Keeps P (change fun s => (s.setFcc cc b).delayCond 1) := fun s =>
    h.trans _ _ _ (keeps_setFcc h s cc b) (h.quiet _ _ (quiet_delayCond _ 1))
  exact keeps_bind h (keeps_fpGate h _) fun _ => keeps_fpChecked h _ _ _ _ (keeps_fpUndefined h fun _ => w _)
    (keeps_bind h (keeps_readFcr31 h) fun _ => keeps_bind h (keeps_readFpr h _ _) fun _ =>
      keeps_bind h (keeps_readFpr h _ _) fun _ => keeps_bind h (keeps_look h _) fun _ =>
      keeps_fpFinish h _ _ _ (fun _ => w _) _)

theorem keeps_fpMove (h : Steady P) (f : FFmt) (src fs fd : RegNum) : Op.Keeps P (fpMove f src fs fd) := by
  have c : Op.Keeps P (change fun s => s.setFcr31 (setCauseBits s.fpu.fcr31 0 false)) := fun s =>
    keeps_setCause h s 0 false
  exact keeps_fpChecked h _ _ _ _ (keeps_fpUndefined h fun _ => keeps_freeFprOp h _)
    (keeps_bind h c fun _ => keeps_bind h (keeps_readFpr h _ _) fun _ => keeps_writeFpr h _ _ _)

/-! ### Moves, loads and stores of coprocessor 1 -/

theorem keeps_readFgrWord (h : Steady P) (r : RegNum) : Op.Keeps P (readFgrWord r) := by
  intro s; unfold readFgrWord; split
  · exact h.quiet _ _ (quiet_useFree s)
  · exact h.refl s

theorem keeps_readFgrDouble (h : Steady P) (r : RegNum) : Op.Keeps P (readFgrDouble r) := by
  intro s; unfold readFgrDouble; split
  · exact h.quiet _ _ (quiet_useFree s)
  · exact h.refl s

theorem keeps_writeFgrWord (h : Steady P) (l : Isa) (r : RegNum) (v : DWord) : Op.Keeps P (writeFgrWord l r v) := by
  intro s
  show P s (if _ then _ else _)
  split
  · exact h.quiet _ _ (quiet_fpu ((setFgrWord_step _ _ _).trans (fpuStep_delayFgr _ _ _))
      (by rw [delayFgr_fpu]; exact (setFgrWord_spec s r v).2.2))
  · exact h.refl s

theorem keeps_writeFgrDouble (h : Steady P) (l : Isa) (r : RegNum) (v : DWord) : Op.Keeps P (writeFgrDouble l r v) := by
  intro s
  cases hf : s.par.cpu.hasFpa
  · unfold writeFgrDouble; rw [hf]; exact h.refl s
  · obtain ⟨t, ht, hs, hc, -⟩ := writeFgrDouble_ok l r v s hf
    rw [ht]
    exact h.quiet _ _ (quiet_fpu hs hc)

theorem keeps_readFcr (h : Steady P) (n : RegNum) : Op.Keeps P (readFcr n) := by
  intro s; unfold readFcr readFcr31
  split
  · split
    · exact h.refl s
    · exact h.quiet _ _ (quiet_useFree s)
  · split
    · by_cases g : s.haz.fcr = some 31#5
      · rw [if_pos g]; exact h.quiet _ _ (quiet_useFree s)
      · rw [if_neg g]; exact h.refl s
    · exact h.quiet _ _ (quiet_useFree s)

theorem bit_and_left {n : Nat} {a b : BitVec n} {i : Nat} (hi : bit (a &&& b) i = true) : bit b i = true := by
  unfold bit at *
  rw [BitVec.getLsbD_and] at hi
  exact (Bool.and_eq_true _ _ ▸ hi).2

theorem keeps_ctcFcr31 (h : Steady P) (s : State) (v : Word) : P s (s.ctcFcr31 v) := by
  have a := h.fcr31 s (v &&& fcr31Mask s.par.cpu) fun i hi => Or.inr (bit_and_left hi)
  have b := h.trans _ _ _ a (h.quiet _ _ (quiet_delayCond _ 2))
  unfold State.ctcFcr31
  dsimp only
  split
  · exact b
  · exact h.trans _ _ _ b (h.quiet _ _ (by constructor <;> rfl))

theorem keeps_writeFcr (h : Steady P) (n : RegNum) (v : DWord) : Op.Keeps P (writeFcr n v) := by
  intro s; unfold writeFcr
  split
  · dsimp only
    split
    · exact keepsAt_after h (keeps_ctcFcr31 h s _) (keeps_signalFp h (keeps_pure h ()) _)
    · exact keeps_ctcFcr31 h s _
  · exact h.refl s

theorem keeps_indexedAddr (h : Steady P) (base index : RegNum) : Op.Keeps P (indexedAddr base index) :=
  keeps_bind h (keeps_readGpr h _) fun _ => keeps_bind h (keeps_readGpr h _) fun _ => keeps_look h _

theorem keeps_indexedLoad (h : Steady P) (base index : RegNum) (n : Nat) : Op.Keeps P (indexedLoad base index n) :=
  keeps_bind h (keeps_requireIsa h _) fun _ => keeps_bind h (keeps_requireCop h _) fun _ =>
    keeps_bind h (keeps_indexedAddr h _ _) fun _ => keeps_ite (keeps_fresh h) (keeps_loadAt h _ _)

theorem keeps_indexedStore (h : Steady P) (base index : RegNum) (n : Nat) {v : Op DWord} (hv : v.Keeps P) :
    Op.Keeps P (indexedStore base index n v) :=
  keeps_bind h (keeps_requireIsa h _) fun _ => keeps_bind h (keeps_requireCop h _) fun _ =>
    keeps_bind h (keeps_indexedAddr h _ _) fun _ => keeps_bind h (keeps_refuseIf h _ _) fun _ => keeps_bind h hv fun _ =>
    keeps_storeAt h _ _ _

/-! ### HI and LO, conditions, branches, links -/

theorem quiet_freeGpr (s : State) (r : RegNum) : Quiet s (s.freeGpr r) := by
  unfold State.freeGpr State.setGpr
  split <;> (constructor <;> rfl)

theorem keeps_spoil (h : Steady P) (s : State) (hi lo : Bool) : P s (s.spoil hi lo) := by
  have fold (rs : List RegNum) (s : State) : P s (rs.foldl State.freeGpr s) := by
    induction rs generalizing s with
    | nil => exact h.refl s
    | cons r rs ih => exact h.trans _ _ _ (h.quiet _ _ (quiet_freeGpr s r)) (ih _)
  exact h.trans _ _ _ (fold _ s) (h.quiet _ _ (by constructor <;> rfl))

theorem keeps_spoilReads (h : Steady P) (hi lo : Bool) : Op.Keeps P (spoilReads hi lo) := fun s => keeps_spoil h s hi lo

theorem keeps_writeHilo (h : Steady P) (hi lo : DWord) : Op.Keeps P (writeHilo hi lo) :=
  keeps_quiet h fun s => by constructor <;> rfl

theorem keeps_writeHiloOr (h : Steady P) (c : Bool) (hi lo : DWord) : Op.Keeps P (writeHiloOr c hi lo) :=
  keeps_bind h (keeps_freeIf h _ _) fun _ => keeps_bind h (keeps_freeIf h _ _) fun _ => keeps_writeHilo h _ _

theorem keeps_readHilo (h : Steady P) (b : Bool) (rd : RegNum) : Op.Keeps P (readHilo b rd) :=
  keeps_bind h (keeps_look h _) fun _ => keeps_bind h (keeps_writeGpr h _ _) fun _ =>
    keeps_quiet h fun s => by constructor <;> rfl

theorem quiet_loseOther (s : State) (b : Bool) : Quiet s (s.loseOther b) := by
  unfold State.loseOther
  split
  · cases b <;> (constructor <;> rfl)
  · constructor <;> rfl

theorem keeps_moveToHilo (h : Steady P) (b : Bool) (rs : RegNum) : Op.Keeps P (moveToHilo b rs) := by
  refine keeps_bind h (keeps_spoilReads h _ _) fun _ => keeps_bind h (keeps_readGpr h _) fun a => fun s => ?_
  have h1 := h.quiet _ _ (quiet_loseOther s b)
  cases b
  · exact h.trans _ _ _ h1 (h.quiet _ (State.setLo _ a) (by constructor <;> rfl))
  · exact h.trans _ _ _ h1 (h.quiet _ (State.setHi _ a) (by constructor <;> rfl))

theorem keeps_copCond (h : Steady P) (z : BitVec 2) : Op.Keeps P (copCond z) := by
  intro s; unfold copCond brCondLine
  repeat' split
  all_goals first
    | exact h.refl s
    | exact h.quiet _ _ (quiet_useFree s)

theorem keeps_fpCond (h : Steady P) (cc : BitVec 3) : Op.Keeps P (fpCond cc) := by
  intro s; unfold fpCond
  split
  · exact keeps_copCond h _ s
  · split
    · exact h.refl s
    · exact h.quiet _ _ (quiet_useFree s)

theorem quiet_advance (s : State) : Quiet s s.advance := by constructor <;> rfl
theorem keeps_branchIf (h : Steady P) (b : Bool) (o : BitVec 16) : Op.Keeps P (branchIf b o) :=
  keeps_quiet h fun s => by constructor <;> rfl
theorem keeps_branchLikelyIf (h : Steady P) (b : Bool) (o : BitVec 16) : Op.Keeps P (branchLikelyIf b o) :=
  keeps_quiet h fun s => by cases b <;> (constructor <;> rfl)
theorem keeps_jumpTo (h : Steady P) (a : DWord) : Op.Keeps P (jumpTo a) :=
  keeps_quiet h fun s => by constructor <;> rfl
theorem keeps_jumpReg (h : Steady P) (a : DWord) : Op.Keeps P (jumpReg a) :=
  keeps_quiet h fun s => by constructor <;> rfl

theorem keeps_readGprMerge (h : Steady P) (r : RegNum) : Op.Keeps P (readGprMerge r) := by
  intro s; unfold readGprMerge
  split
  · exact keeps_readGpr h r s
  · exact h.refl s

theorem keeps_setLink (h : Steady P) (l : Link) : Op.Keeps P (change fun s => s.setLink l) := fun s => h.link s l

theorem keeps_scSuccess (h : Steady P) (va : DWord) (pa : Nat) (c : BitVec 3) (n : Nat) :
    Op.Keeps P (scSuccess va pa c n) := by
  intro s; unfold scSuccess
  split
  · exact h.quiet _ _ (quiet_useFree s)
  · exact h.refl s

theorem keeps_putMemIf (h : Steady P) (b : Bool) (a n : Nat) (v : DWord) :
    Op.Keeps P (change fun s => if b then s.putMem a n v else s) := by
  intro s; cases b
  · exact h.refl s
  · exact keeps_putMem h s a n v

theorem keeps_dropLink (h : Steady P) : Op.Keeps P (change fun s => { s with llBit := false }) :=
  keeps_quiet h fun s => by constructor <;> rfl

theorem keeps_moveIf (h : Steady P) (c : Bool) (rs rd : RegNum) : Op.Keeps P (moveIf c rs rd) :=
  keeps_bind h (keeps_readGpr h _) fun _ => keeps_ite (keeps_writeGpr h _ _) (keeps_pure h ())

theorem keeps_wordTrapping (h : Steady P) (rd : RegNum) (a b : DWord) (f : Int → Int → Int) :
    Op.Keeps P (wordTrapping rd a b f) := by
  unfold wordTrapping
  refine keeps_ite ?_ ?_
  · exact keeps_bind h (keeps_raiseIf h _ fun _ => trivial) fun _ => keeps_writeGpr h _ _
  · exact keeps_bind h (keeps_fresh h) fun _ => keeps_bind h (keeps_raiseIf h _ fun _ => trivial) fun _ =>
      keeps_bind h (keeps_fresh h) fun _ => keeps_writeGpr h _ _

/-! ### The shapes of the meanings -/

theorem keeps_aluRR (h : Steady P) (rs rt rd : RegNum) (f : DWord → DWord → DWord) : Op.Keeps P (aluRR rs rt rd f) :=
  keeps_bind h (keeps_readGpr h _) fun _ => keeps_bind h (keeps_readGpr h _) fun _ => keeps_writeGpr h _ _

theorem keeps_aluR (h : Steady P) (rs rt : RegNum) (f : DWord → DWord) : Op.Keeps P (aluR rs rt f) :=
  keeps_bind h (keeps_readGpr h _) fun _ => keeps_writeGpr h _ _

theorem keeps_wordResult (h : Steady P) (rd : RegNum) (a b : DWord) (f : Word → Word → Word) : Op.Keeps P
    (wordResult rd a b f) :=
  keeps_bind h (keeps_freeIf h _ _) fun _ => keeps_writeGpr h _ _

theorem keeps_wordRR (h : Steady P) (rs rt rd : RegNum) (f : Word → Word → Word) : Op.Keeps P (wordRR rs rt rd f) :=
  keeps_bind h (keeps_readGpr h _) fun _ => keeps_bind h (keeps_readGpr h _) fun _ => keeps_wordResult h _ _ _ _

theorem keeps_wordR (h : Steady P) (rs rd : RegNum) (f : Word → Word) : Op.Keeps P (wordR rs rd f) :=
  keeps_bind h (keeps_readGpr h _) fun _ => keeps_wordResult h _ _ _ _

theorem keeps_dwordTrapping (h : Steady P) (rd : RegNum) (a b : DWord) (f : Int → Int → Int) : Op.Keeps P
    (dwordTrapping rd a b f) :=
  keeps_bind h (keeps_raiseIf h _ fun _ => trivial) fun _ => keeps_writeGpr h _ _

theorem keeps_dwordRR (h : Steady P) (rs rt rd : RegNum) (f : DWord → DWord → DWord) : Op.Keeps P (dwordRR rs rt rd
    f) :=
  keeps_bind h (keeps_require64 h) fun _ => keeps_aluRR h _ _ _ _

theorem keeps_dwordR (h : Steady P) (rs rd : RegNum) (f : DWord → DWord) : Op.Keeps P (dwordR rs rd f) :=
  keeps_bind h (keeps_require64 h) fun _ => keeps_aluR h _ _ _

theorem keeps_wordHilo (h : Steady P) (rs rt : RegNum) (bad : Word → Bool) (f : Word → Word → Word × Word) :
    Op.Keeps P (wordHilo rs rt bad f) :=
  keeps_bind h (keeps_spoilReads h _ _) fun _ => keeps_bind h (keeps_readGpr h _) fun _ => keeps_bind h (keeps_readGpr h _) fun _ => keeps_writeHiloOr h _ _ _

theorem keeps_dwordHilo (h : Steady P) (rs rt : RegNum) (bad : DWord → Bool) (f : DWord → DWord → DWord × DWord) :
    Op.Keeps P (dwordHilo rs rt bad f) :=
  keeps_bind h (keeps_require64 h) fun _ => keeps_bind h (keeps_spoilReads h _ _) fun _ => keeps_bind h
    (keeps_readGpr h _) fun _ => keeps_bind h (keeps_readGpr h _) fun _ => keeps_writeHiloOr h _ _ _

theorem keeps_require4650 (h : Steady P) : Op.Keeps P require4650 :=
  keeps_bind h (keeps_look h _) fun _ => keeps_raiseIf h _ fun _ => trivial

theorem keeps_accumulate (h : Steady P) (rs rt : RegNum) (f : Word → Word → Int) : Op.Keeps P (accumulate rs rt f) :=
  keeps_bind h (keeps_require4650 h) fun _ => keeps_bind h (keeps_spoilReads h _ _) fun _ => keeps_bind h
    (keeps_readGpr h _) fun _ => keeps_bind h (keeps_readGpr h _) fun _ => keeps_bind h (keeps_look h _) fun _ => keeps_writeHilo h _ _

theorem keeps_writeLink (h : Steady P) (rd : RegNum) : Op.Keeps P (writeLink rd) :=
  keeps_bind h (keeps_look h _) fun _ => keeps_writeGpr h _ _

theorem keeps_restartable (h : Steady P) (rs rd : RegNum) : Op.Keeps P (restartable rs rd) := by
  intro s; unfold restartable
  split
  · split
    · exact trivial
    · exact h.quiet _ _ (by constructor <;> rfl)
  · exact h.refl s

theorem keeps_branchReg (h : Steady P) (rs : RegNum) (test : DWord → Bool) (offset : BitVec 16) : Op.Keeps P
    (branchReg rs test offset) :=
  keeps_bind h (keeps_refuseInDelaySlot h) fun _ => keeps_bind h (keeps_readGpr h _) fun _ => keeps_branchIf h _ _

theorem keeps_branchRegLink (h : Steady P) (rs : RegNum) (test : DWord → Bool) (offset : BitVec 16) : Op.Keeps P
    (branchRegLink rs test offset) :=
  keeps_bind h (keeps_refuseInDelaySlot h) fun _ => keeps_bind h (keeps_restartable h _ _) fun _ => keeps_bind h (keeps_readGpr h _) fun _ => keeps_bind h
    (keeps_writeLink h _) fun _ => keeps_branchIf h _ _

theorem keeps_likelyReg (h : Steady P) (rs : RegNum) (test : DWord → Bool) (offset : BitVec 16) : Op.Keeps P
    (likelyReg rs test offset) :=
  keeps_bind h (keeps_requireIsa h _) fun _ => keeps_bind h (keeps_refuseInDelaySlot h) fun _ => keeps_bind h
    (keeps_readGpr h _) fun _ => keeps_branchLikelyIf h _ _

theorem keeps_likelyRegLink (h : Steady P) (rs : RegNum) (test : DWord → Bool) (offset : BitVec 16) : Op.Keeps P
    (likelyRegLink rs test offset) :=
  keeps_bind h (keeps_requireIsa h _) fun _ => keeps_bind h (keeps_refuseInDelaySlot h) fun _ => keeps_bind h
    (keeps_restartable h _ _) fun _ => keeps_bind h (keeps_readGpr h _) fun _ => keeps_bind h (keeps_writeLink h _) fun _ => keeps_branchLikelyIf h _ _

theorem keeps_branchRegs (h : Steady P) (rs rt : RegNum) (test : DWord → DWord → Bool) (offset : BitVec 16) :
    Op.Keeps P (branchRegs rs rt test offset) :=
  keeps_bind h (keeps_refuseInDelaySlot h) fun _ => keeps_bind h (keeps_readGpr h _) fun _ => keeps_bind h
    (keeps_readGpr h _) fun _ => keeps_branchIf h _ _

theorem keeps_likelyRegs (h : Steady P) (rs rt : RegNum) (test : DWord → DWord → Bool) (offset : BitVec 16) :
    Op.Keeps P (likelyRegs rs rt test offset) :=
  keeps_bind h (keeps_requireIsa h _) fun _ => keeps_bind h (keeps_refuseInDelaySlot h) fun _ => keeps_bind h
    (keeps_readGpr h _) fun _ => keeps_bind h (keeps_readGpr h _) fun _ => keeps_branchLikelyIf h _ _

theorem keeps_branchCop (h : Steady P) (z : BitVec 2) (tf : Bool) (offset : BitVec 16) : Op.Keeps P (branchCop z tf
    offset) :=
  keeps_bind h (keeps_requireCop h _) fun _ => keeps_bind h (keeps_refuseInDelaySlot h) fun _ => keeps_bind h
    (keeps_copCond h _) fun _ => keeps_branchIf h _ _

theorem keeps_likelyCop (h : Steady P) (z : BitVec 2) (tf : Bool) (offset : BitVec 16) : Op.Keeps P (likelyCop z tf
    offset) :=
  keeps_bind h (keeps_requireCop h _) fun _ => keeps_bind h (keeps_requireIsa h _) fun _ => keeps_bind h
    (keeps_refuseInDelaySlot h) fun _ => keeps_bind h (keeps_copCond h _) fun _ => keeps_branchLikelyIf h _ _

theorem keeps_branchFp (h : Steady P) (cc : BitVec 3) (tf : Bool) (offset : BitVec 16) : Op.Keeps P (branchFp cc tf
    offset) :=
  keeps_bind h (keeps_requireCop h _) fun _ => keeps_bind h (keeps_refuseInDelaySlot h) fun _ => keeps_bind h
    (keeps_fpCond h _) fun _ => keeps_branchIf h _ _

theorem keeps_likelyFp (h : Steady P) (cc : BitVec 3) (tf : Bool) (offset : BitVec 16) : Op.Keeps P (likelyFp cc tf
    offset) :=
  keeps_bind h (keeps_requireCop h _) fun _ => keeps_bind h (keeps_requireIsa h _) fun _ => keeps_bind h
    (keeps_refuseInDelaySlot h) fun _ => keeps_bind h (keeps_fpCond h _) fun _ => keeps_branchLikelyIf h _ _

theorem keeps_loadReg (h : Steady P) (base rt : RegNum) (offset : BitVec 16) (n : Nat) (f : DWord → DWord) :
    Op.Keeps P (loadReg base rt offset n f) :=
  keeps_bind h (keeps_loadField h _ _ _ _) fun _ => keeps_writeGprLoaded h _ _

theorem keeps_storeReg (h : Steady P) (base rt : RegNum) (offset : BitVec 16) (n : Nat) : Op.Keeps P (storeReg base
    rt offset n) :=
  keeps_bind h (keeps_readGpr h _) fun _ => keeps_storeField h _ _ _ _

theorem keeps_loadLeft (h : Steady P) (base rt : RegNum) (offset : BitVec 16) (n : Nat) : Op.Keeps P (loadLeft base
    rt offset n) :=
  keeps_bind h (keeps_effAddr h _ _) fun _ => keeps_bind h (keeps_translate h _ _ _) fun _ => keeps_bind h
    (keeps_checkData h _ _ _) fun _ => keeps_bind h (keeps_look h _) fun _ => keeps_bind h (keeps_readMem h _ _)
    fun _ => keeps_bind h (keeps_readGprMerge h _) fun _ => keeps_pure h _

theorem keeps_loadRight (h : Steady P) (base rt : RegNum) (offset : BitVec 16) (n : Nat) : Op.Keeps P (loadRight
    base rt offset n) :=
  keeps_bind h (keeps_effAddr h _ _) fun _ => keeps_bind h (keeps_translate h _ _ _) fun _ => keeps_bind h
    (keeps_checkData h _ _ _) fun _ => keeps_bind h (keeps_look h _) fun _ => keeps_bind h (keeps_readMem h _ _)
    fun _ => keeps_bind h (keeps_readGprMerge h _) fun _ => keeps_pure h _

theorem keeps_storeLeft (h : Steady P) (base rt : RegNum) (offset : BitVec 16) (n : Nat) : Op.Keeps P (storeLeft
    base rt offset n) :=
  keeps_bind h (keeps_readGpr h _) fun _ => keeps_bind h (keeps_effAddr h _ _) fun _ => keeps_bind h
    (keeps_translate h _ _ _) fun _ => keeps_bind h (keeps_checkData h _ _ _) fun _ => keeps_bind h (keeps_look h
    _) fun _ => keeps_writeMem h _ _ _

theorem keeps_storeRight (h : Steady P) (base rt : RegNum) (offset : BitVec 16) (n : Nat) : Op.Keeps P (storeRight
    base rt offset n) :=
  keeps_bind h (keeps_readGpr h _) fun _ => keeps_bind h (keeps_effAddr h _ _) fun _ => keeps_bind h
    (keeps_translate h _ _ _) fun _ => keeps_bind h (keeps_checkData h _ _ _) fun _ => keeps_bind h (keeps_look h
    _) fun _ => keeps_writeMem h _ _ _

theorem keeps_loadLinked (h : Steady P) (base rt : RegNum) (offset : BitVec 16) (n : Nat) (f : DWord → DWord) :
    Op.Keeps P (loadLinked base rt offset n f) :=
  keeps_bind h (keeps_effAddr h _ _) fun _ => keeps_bind h (keeps_translate h _ _ _) fun _ => keeps_bind h
    (keeps_checkData h _ _ _) fun _ => keeps_bind h (keeps_readMem h _ _) fun _ => keeps_bind h (keeps_look h _)
    fun _ => keeps_bind h (keeps_freeIf h _ _) fun _ => keeps_bind h (keeps_writeGpr h _ _) fun _ => keeps_setLink h _

theorem keeps_storeConditional (h : Steady P) (base rt : RegNum) (offset : BitVec 16) (n : Nat) : Op.Keeps P
    (storeConditional base rt offset n) :=
  keeps_bind h (keeps_readGpr h _) fun _ => keeps_bind h (keeps_effAddr h _ _) fun _ => keeps_bind h
    (keeps_translate h _ _ _) fun _ => keeps_bind h (keeps_checkData h _ _ _) fun _ => keeps_bind h
    (keeps_scSuccess h _ _ _ _) fun _ => keeps_bind h (keeps_look h _) fun _ => keeps_bind h (keeps_freeIf h _ _)
    fun _ => keeps_bind h (keeps_putMemIf h _ _ _ _) fun _ => keeps_bind h (keeps_freeIf h _ _) fun _ => keeps_bind
    h (keeps_writeGpr h _ _) fun _ => keeps_dropLink h

theorem keeps_loadAbsent (h : Steady P) (z : BitVec 2) (base : RegNum) (offset : BitVec 16) (n : Nat) : Op.Keeps P
    (loadAbsent z base offset n) :=
  keeps_bind h (keeps_requireCop h _) fun _ => keeps_bind h (keeps_loadField h _ _ _ _) fun _ => keeps_pure h _

theorem keeps_storeAbsent (h : Steady P) (z : BitVec 2) (base : RegNum) (offset : BitVec 16) (n : Nat) : Op.Keeps P
    (storeAbsent z base offset n) :=
  keeps_bind h (keeps_requireCop h _) fun _ => keeps_bind h (keeps_fresh h) fun _ => keeps_storeField h _ _ _ _

theorem keeps_trapRR (h : Steady P) (rs rt : RegNum) (test : DWord → DWord → Bool) : Op.Keeps P (trapRR rs rt test) :=
  keeps_bind h (keeps_requireIsa h _) fun _ => keeps_bind h (keeps_readGpr h _) fun _ => keeps_bind h
    (keeps_readGpr h _) fun _ => keeps_raiseIf h _ fun _ => trivial

theorem keeps_trapRI (h : Steady P) (rs : RegNum) (imm : BitVec 16) (test : DWord → DWord → Bool) : Op.Keeps P
    (trapRI rs imm test) :=
  keeps_bind h (keeps_requireIsa h _) fun _ => keeps_bind h (keeps_readGpr h _) fun _ => keeps_raiseIf h _ fun _ => trivial

theorem keeps_moveFromAbsent (h : Steady P) (z : BitVec 2) (rt : RegNum) : Op.Keeps P (moveFromAbsent z rt) :=
  keeps_bind h (keeps_requireCop h _) fun _ => keeps_bind h (keeps_fresh h) fun _ => keeps_writeGprMoved h _ _ _

/-- The move out of coprocessor 0 writes its register and notes the delay. -/
theorem writeGprFromCp0_eq (rt : RegNum) (v : DWord) (s : State) : writeGprFromCp0 rt v s =
    writeGprMoved (if s.par.mfc0Interlocked then .mips1 else .mips3) rt v s := rfl

theorem keeps_writeGprFromCp0 (h : Steady P) (rt : RegNum) (v : DWord) : Op.Keeps P (writeGprFromCp0 rt v) :=
  keeps_bind h (keeps_look h _) fun _ => keeps_writeGprMoved h _ _ _

theorem keeps_absentNop (h : Steady P) (z : BitVec 2) : Op.Keeps P (absentNop z) :=
  keeps_requireCop h _

theorem keeps_require4xxx (h : Steady P) : Op.Keeps P require4xxx :=
  keeps_bind h (keeps_requireCop h _) fun _ => keeps_bind h (keeps_look h _) fun _ => keeps_raiseIf h _ fun _ => trivial

theorem keeps_toWord (h : Steady P) (lvl : Isa) (f : FFmt) (fs fd : RegNum) (rm : Word → Rm) : Op.Keeps P (toWord
    lvl f fs fd rm) :=
  keeps_fpUnary h _ _ _ _ _ _ _

theorem keeps_toLong (h : Steady P) (f : FFmt) (fs fd : RegNum) (rm : Rm) : Op.Keeps P (toLong f fs fd rm) :=
  keeps_fpUnary h _ _ _ _ _ _ _

/-! ### Running a meaning -/

/-- What a meaning answers is related, or comes from a related state by an exception. -/
def Kept (P : State → State → Prop) (s : State) (r : Result) : Prop :=
  match r with
  | .next t => P s t ∨ ∃ e u, t = takeException e u ∧ P s u ∧ e.fits u.par
  | _ => True

theorem kept_runOp {x : Op Unit} (hx : x.Keeps P) (s : State) : Kept P s (runOp x s) := by
  have h1 := hx s
  unfold runOp
  cases e : x s with
  | ok r => rw [e] at h1; exact Or.inl h1
  | error e' =>
    rw [e] at h1
    cases e' with
    | exc x t => exact Or.inr ⟨x, t, rfl, h1.1, h1.2⟩
    | refused _ => trivial

theorem kept_runSeq (h : Steady P) {x : Op Unit} (hx : x.Keeps P) (s : State) : Kept P s (runSeq x s) :=
  kept_runOp (keeps_bind h hx fun _ => keeps_quiet h quiet_advance) s

end Sys2Proof.Machine
end

