-- ==== Sys2Proof/Laws/MulDiv.lean ====
section
/-! SUPPORT. What the shared operations on HI and LO do: one lemma each. -/

namespace Sys2Proof.Machine

theorem writeHiloOr_ok (u : Bool) (hi lo : DWord) (s : State) :
    ∃ h l n, writeHiloOr u hi lo s = .ok ((), (s.skip n).putHilo h l) ∧
      (u = false → h = hi ∧ l = lo) := by
  obtain ⟨h, n, e, he⟩ := freeIf_reads u hi s
  obtain ⟨l, m, e', he'⟩ := freeIf_reads u lo (s.skip n)
  refine ⟨h, l, n + m, ?_, fun g => ⟨he g, he' g⟩⟩
  rw [← State.skip_skip]
  exact (bind_ok e).trans ((bind_ok e').trans rfl)

theorem spoilReads_bind {α : Type} (hi lo : Bool) (k : Unit → Op α) (s : State) :
    (spoilReads hi lo >>= k) s = k () (s.spoil hi lo) := rfl

/-- An instruction that reads, and writes HI and LO. -/
theorem runSeq_putHilo {x : Op Unit} {s : State} {h l : DWord} {n : Nat}
    (e : x s = .ok ((), ((s.spoil true true).skip n).putHilo h l)) :
    ∃ t, runSeq x s = .next t ∧ t.hi = s.narrow h ∧ t.lo = s.narrow l ∧ t.hiVal = s.narrow h ∧ t.loVal = s.narrow l ∧
      Frame { gpr := s.spoiled true true, hilo := true } s t ∧ Sequential s t := by
  have hp : (((s.spoil true true).skip n).putHilo h l).advance.par = s.par := by simp
  have hh : (((s.spoil true true).skip n).putHilo h l).advance.hi = s.narrow h := by
    simp only [State.advance_hi, State.putHilo_hi]; exact narrow_congr (by simp) _
  have hl : (((s.spoil true true).skip n).putHilo h l).advance.lo = s.narrow l := by
    simp only [State.advance_lo, State.putHilo_lo]; exact narrow_congr (by simp) _
  refine ⟨_, runSeq_ok e, hh, hl, ?_, ?_, ?_, sequential_advance (by simp)⟩
  · unfold State.hiVal; rw [hh, narrow_congr hp, State.narrow_narrow]
  · unfold State.loVal; rw [hl, narrow_congr hp, State.narrow_narrow]
  · exact (frame_spoil s true true fun _ h => h).trans (((same_skip _ n).frame _).trans
      ((frame_putHilo _ _ _ rfl).trans ((same_advance _).frame _)))

theorem wordHilo_ok (rs rt : RegNum) (bad : Word → Bool) (f : Word → Word → Word × Word) (s : State) :
    ∃ a b h l n, wordHilo rs rt bad f s = .ok ((), ((s.spoil true true).skip n).putHilo h l) ∧ s.ReadsUnspoiled true true rs a ∧
      s.ReadsUnspoiled true true rt b ∧ (isWord a = true → isWord b = true → bad (lo32 b) = false →
        h = sext (f (lo32 a) (lo32 b)).1 ∧ l = sext (f (lo32 a) (lo32 b)).2) := by
  obtain ⟨a, b, n, e, ra, rb, -, -⟩ := read2 rs rt (s.spoil true true) fun a b =>
    writeHiloOr (!(isWord a && isWord b) || bad (lo32 b)) (sext (f (lo32 a) (lo32 b)).1) (sext (f (lo32 a) (lo32 b)).2)
  obtain ⟨h, l, m, e', g⟩ := writeHiloOr_ok (!(isWord a && isWord b) || bad (lo32 b)) (sext (f (lo32 a) (lo32 b)).1)
    (sext (f (lo32 a) (lo32 b)).2) ((s.spoil true true).skip n)
  exact ⟨a, b, h, l, n + m, by rw [← State.skip_skip]; exact e.trans e', reads_of_spoil ra, reads_of_spoil rb, fun ha hb hc => g (by simp [ha, hb, hc])⟩

theorem dwordHilo_ok (rs rt : RegNum) (bad : DWord → Bool) (f : DWord → DWord → DWord × DWord) (s : State)
    (h64 : s.Has64) :
    ∃ a b h l n, dwordHilo rs rt bad f s = .ok ((), ((s.spoil true true).skip n).putHilo h l) ∧ s.ReadsUnspoiled true true rs a ∧
      s.ReadsUnspoiled true true rt b ∧ (bad b = false → h = (f a b).1 ∧ l = (f a b).2) := by
  obtain ⟨a, b, n, e, ra, rb, -, -⟩ := read2 rs rt (s.spoil true true) fun a b => writeHiloOr (bad b) (f a b).1 (f a b).2
  obtain ⟨h, l, m, e', g⟩ := writeHiloOr_ok (bad b) (f a b).1 (f a b).2 ((s.spoil true true).skip n)
  refine ⟨a, b, h, l, n + m, ?_, reads_of_spoil ra, reads_of_spoil rb, g⟩
  rw [← State.skip_skip]
  exact (bind_ok (require64_ok h64)).trans (e.trans e')

theorem require4650_ok {s : State} (h : s.par.cpu.is4650 = true) : require4650 s = .ok ((), s) :=
  raiseIf_ok _ _ (by simp [h])

theorem require4650_error {s : State} (h : s.par.cpu.is4650 = false) :
    require4650 s = .error (.exc .reservedInstruction s) :=
  raiseIf_error _ _ (by simp [h])

theorem accumulate_ok (rs rt : RegNum) (f : Word → Word → Int) (s : State) (h : s.par.cpu.is4650 = true) :
    ∃ a b n, s.ReadsUnspoiled true true rs a ∧ s.ReadsUnspoiled true true rt b ∧
      let t : DWord := (lo32 s.hiVal ++ lo32 s.loVal) + BitVec.ofInt 64 (f (lo32 a) (lo32 b))
      accumulate rs rt f s = .ok ((), ((s.spoil true true).skip n).putHilo (sext (t.extractLsb' 32 32)) (sextLo t)) := by
  obtain ⟨a, b, n, e, ra, rb, -, -⟩ := read2 rs rt (s.spoil true true) fun a b => do
    let acc ← look fun s => lo32 s.hiVal ++ lo32 s.loVal
    let t : DWord := acc + BitVec.ofInt 64 (f (lo32 a) (lo32 b))
    writeHilo (sext (t.extractLsb' 32 32)) (sextLo t)
  have hh : ((s.spoil true true).skip n).hiVal = s.hiVal := hiVal_congr (by simp) (by simp)
  have hl : ((s.spoil true true).skip n).loVal = s.loVal := loVal_congr (by simp) (by simp)
  refine ⟨a, b, n, reads_of_spoil ra, reads_of_spoil rb, (bind_ok (require4650_ok h)).trans (e.trans ?_)⟩
  rw [look_bind, hh, hl]
  rfl

/-! ### Products and their halves -/

theorem halves_append (n : Nat) (p : Int) : (halves n p).1 ++ (halves n p).2 = BitVec.ofInt (n + n) p := by
  apply BitVec.eq_of_toNat_eq
  have h2 : (2 : Int) ^ n ≠ 0 := pow_ne_zero _ (by decide)
  have e1 : ((BitVec.ofInt n (p / 2 ^ n)).toNat : Int) = p / 2 ^ n % 2 ^ n := by
    rw [BitVec.toNat_ofInt, Int.toNat_of_nonneg (Int.emod_nonneg _ (by simp))]; simp
  have e2 : ((BitVec.ofInt n p).toNat : Int) = p % 2 ^ n := by
    rw [BitVec.toNat_ofInt, Int.toNat_of_nonneg (Int.emod_nonneg _ (by simp))]; simp
  have e3 : ((BitVec.ofInt (n + n) p).toNat : Int) = p % (2 ^ n * 2 ^ n) := by
    rw [BitVec.toNat_ofInt, Int.toNat_of_nonneg (Int.emod_nonneg _ (by positivity))]; simp [pow_add]
  have hlt : (BitVec.ofInt n p).toNat < 2 ^ n := (BitVec.ofInt n p).isLt
  have hz : ((((halves n p).1 ++ (halves n p).2).toNat : Nat) : Int) = p / 2 ^ n % 2 ^ n * 2 ^ n + p % 2 ^ n := by
    show (((BitVec.ofInt n (p / 2 ^ n) ++ BitVec.ofInt n p).toNat : Nat) : Int) = _
    rw [BitVec.toNat_append, ← Nat.shiftLeft_add_eq_or_of_lt hlt, Nat.shiftLeft_eq]
    push_cast
    show ((BitVec.ofInt n (p / 2 ^ n)).toNat : Int) * 2 ^ n + ((BitVec.ofInt n p).toNat : Int) = _
    rw [e1, e2]
  have hw : p % (2 ^ n * 2 ^ n) = p / 2 ^ n % 2 ^ n * 2 ^ n + p % 2 ^ n := by
    rw [Int.emod_def p, Int.emod_def (p / 2 ^ n), Int.emod_def p, ← Int.ediv_ediv_of_nonneg (by positivity)]
    ring
  exact_mod_cast hz.trans (hw.symm.trans e3.symm)

theorem words_of_append (t : DWord) : (t.extractLsb' 32 32 : Word) ++ lo32 t = t := by
  apply BitVec.eq_of_getLsbD_eq
  intro i hi
  simp only [BitVec.getLsbD_append, lo32, BitVec.getLsbD_setWidth, BitVec.getLsbD_extractLsb']
  split
  · rename_i h; simp [h]
  · rename_i h
    have : i - 32 < 32 := by omega
    simp only [this, decide_true, Bool.true_and]
    congr 1; omega

end Sys2Proof.Machine
end

