-- ==== Sys2Proof/Laws/PerInstr.lean ====
section
/-! SUPPORT. What the fields of an encoded word are, one lemma for each field of each format, and for every instruction
that decoding its encoding gives it back (spec/30_encoding.md R361, R362). -/

namespace Sys2Proof

set_option Elab.async false

/-- A bit of a concatenation. -/
theorem getLsbD_append_ite {m n : Nat} (x : BitVec m) (y : BitVec n) (i : Nat) :
    (x ++ y).getLsbD i = if i < n then y.getLsbD i else x.getLsbD (i - n) := by
  simp [BitVec.getLsbD_append]

/-! ### The fields of the formats -/

/-- The bits of packR. -/
theorem getLsbD_packR (op : BitVec 6) (rs : BitVec 5) (rt : BitVec 5) (rd : BitVec 5) (sa : BitVec 5) (fn : BitVec 6) (i : Nat) :
    (packR op rs rt rd sa fn).getLsbD i =
    if i < 6 then fn.getLsbD i
    else if i - 6 < 5 then sa.getLsbD (i - 6)
    else if i - 6 - 5 < 5 then rd.getLsbD (i - 6 - 5)
    else if i - 6 - 5 - 5 < 5 then rt.getLsbD (i - 6 - 5 - 5)
    else if i - 6 - 5 - 5 - 5 < 5 then rs.getLsbD (i - 6 - 5 - 5 - 5)
    else op.getLsbD (i - 6 - 5 - 5 - 5 - 5) :=
  (getLsbD_append_ite _ _ _).trans (congrArg (ite _ _) ((getLsbD_append_ite _ _ _).trans (congrArg (ite _ _) ((getLsbD_append_ite _ _ _).trans (congrArg (ite _ _) ((getLsbD_append_ite _ _ _).trans (congrArg (ite _ _) (getLsbD_append_ite _ _ _))))))))

@[simp] theorem fOp_packR (op : BitVec 6) (rs : BitVec 5) (rt : BitVec 5) (rd : BitVec 5) (sa : BitVec 5) (fn : BitVec 6) : fOp (packR op rs rt rd sa fn) = op := by
  apply BitVec.eq_of_getLsbD_eq
  intro i hi
  simp only [fOp, BitVec.getLsbD_extractLsb', hi, decide_true, Bool.true_and, getLsbD_packR]
  rw [if_neg (by omega), if_neg (by omega), if_neg (by omega), if_neg (by omega), if_neg (by omega)]
  congr 1; omega

@[simp] theorem fRs_packR (op : BitVec 6) (rs : BitVec 5) (rt : BitVec 5) (rd : BitVec 5) (sa : BitVec 5) (fn : BitVec 6) : fRs (packR op rs rt rd sa fn) = rs := by
  apply BitVec.eq_of_getLsbD_eq
  intro i hi
  simp only [fRs, BitVec.getLsbD_extractLsb', hi, decide_true, Bool.true_and, getLsbD_packR]
  rw [if_neg (by omega), if_neg (by omega), if_neg (by omega), if_neg (by omega), if_pos (by omega)]
  congr 1; omega

@[simp] theorem fRt_packR (op : BitVec 6) (rs : BitVec 5) (rt : BitVec 5) (rd : BitVec 5) (sa : BitVec 5) (fn : BitVec 6) : fRt (packR op rs rt rd sa fn) = rt := by
  apply BitVec.eq_of_getLsbD_eq
  intro i hi
  simp only [fRt, BitVec.getLsbD_extractLsb', hi, decide_true, Bool.true_and, getLsbD_packR]
  rw [if_neg (by omega), if_neg (by omega), if_neg (by omega), if_pos (by omega)]
  congr 1; omega

@[simp] theorem fRd_packR (op : BitVec 6) (rs : BitVec 5) (rt : BitVec 5) (rd : BitVec 5) (sa : BitVec 5) (fn : BitVec 6) : fRd (packR op rs rt rd sa fn) = rd := by
  apply BitVec.eq_of_getLsbD_eq
  intro i hi
  simp only [fRd, BitVec.getLsbD_extractLsb', hi, decide_true, Bool.true_and, getLsbD_packR]
  rw [if_neg (by omega), if_neg (by omega), if_pos (by omega)]
  congr 1; omega

@[simp] theorem fSa_packR (op : BitVec 6) (rs : BitVec 5) (rt : BitVec 5) (rd : BitVec 5) (sa : BitVec 5) (fn : BitVec 6) : fSa (packR op rs rt rd sa fn) = sa := by
  apply BitVec.eq_of_getLsbD_eq
  intro i hi
  simp only [fSa, BitVec.getLsbD_extractLsb', hi, decide_true, Bool.true_and, getLsbD_packR]
  rw [if_neg (by omega), if_pos (by omega)]
  congr 1; omega

@[simp] theorem fFn_packR (op : BitVec 6) (rs : BitVec 5) (rt : BitVec 5) (rd : BitVec 5) (sa : BitVec 5) (fn : BitVec 6) : fFn (packR op rs rt rd sa fn) = fn := by
  apply BitVec.eq_of_getLsbD_eq
  intro i hi
  simp only [fFn, BitVec.getLsbD_extractLsb', hi, decide_true, Bool.true_and, getLsbD_packR]
  rw [if_pos (by omega)]
  congr 1; omega

/-- The bits of packI. -/
theorem getLsbD_packI (op : BitVec 6) (rs : BitVec 5) (rt : BitVec 5) (imm : BitVec 16) (i : Nat) :
    (packI op rs rt imm).getLsbD i =
    if i < 16 then imm.getLsbD i
    else if i - 16 < 5 then rt.getLsbD (i - 16)
    else if i - 16 - 5 < 5 then rs.getLsbD (i - 16 - 5)
    else op.getLsbD (i - 16 - 5 - 5) :=
  (getLsbD_append_ite _ _ _).trans (congrArg (ite _ _) ((getLsbD_append_ite _ _ _).trans (congrArg (ite _ _) (getLsbD_append_ite _ _ _))))

@[simp] theorem fOp_packI (op : BitVec 6) (rs : BitVec 5) (rt : BitVec 5) (imm : BitVec 16) : fOp (packI op rs rt imm) = op := by
  apply BitVec.eq_of_getLsbD_eq
  intro i hi
  simp only [fOp, BitVec.getLsbD_extractLsb', hi, decide_true, Bool.true_and, getLsbD_packI]
  rw [if_neg (by omega), if_neg (by omega), if_neg (by omega)]
  congr 1; omega

@[simp] theorem fRs_packI (op : BitVec 6) (rs : BitVec 5) (rt : BitVec 5) (imm : BitVec 16) : fRs (packI op rs rt imm) = rs := by
  apply BitVec.eq_of_getLsbD_eq
  intro i hi
  simp only [fRs, BitVec.getLsbD_extractLsb', hi, decide_true, Bool.true_and, getLsbD_packI]
  rw [if_neg (by omega), if_neg (by omega), if_pos (by omega)]
  congr 1; omega

@[simp] theorem fRt_packI (op : BitVec 6) (rs : BitVec 5) (rt : BitVec 5) (imm : BitVec 16) : fRt (packI op rs rt imm) = rt := by
  apply BitVec.eq_of_getLsbD_eq
  intro i hi
  simp only [fRt, BitVec.getLsbD_extractLsb', hi, decide_true, Bool.true_and, getLsbD_packI]
  rw [if_neg (by omega), if_pos (by omega)]
  congr 1; omega

@[simp] theorem fImm_packI (op : BitVec 6) (rs : BitVec 5) (rt : BitVec 5) (imm : BitVec 16) : fImm (packI op rs rt imm) = imm := by
  apply BitVec.eq_of_getLsbD_eq
  intro i hi
  simp only [fImm, BitVec.getLsbD_extractLsb', hi, decide_true, Bool.true_and, getLsbD_packI]
  rw [if_pos (by omega)]
  congr 1; omega

/-- The bits of packJ. -/
theorem getLsbD_packJ (op : BitVec 6) (idx : BitVec 26) (i : Nat) :
    (packJ op idx).getLsbD i =
    if i < 26 then idx.getLsbD i
    else op.getLsbD (i - 26) :=
  getLsbD_append_ite _ _ _

@[simp] theorem fOp_packJ (op : BitVec 6) (idx : BitVec 26) : fOp (packJ op idx) = op := by
  apply BitVec.eq_of_getLsbD_eq
  intro i hi
  simp only [fOp, BitVec.getLsbD_extractLsb', hi, decide_true, Bool.true_and, getLsbD_packJ]
  rw [if_neg (by omega)]
  congr 1; omega

@[simp] theorem fIdx_packJ (op : BitVec 6) (idx : BitVec 26) : fIdx (packJ op idx) = idx := by
  apply BitVec.eq_of_getLsbD_eq
  intro i hi
  simp only [fIdx, BitVec.getLsbD_extractLsb', hi, decide_true, Bool.true_and, getLsbD_packJ]
  rw [if_pos (by omega)]
  congr 1; omega

/-- The bits of packCo. -/
theorem getLsbD_packCo (op : BitVec 6) (fn : BitVec 25) (i : Nat) :
    (packCo op fn).getLsbD i =
    if i < 25 then fn.getLsbD i
    else if i - 25 < 1 then (1#1).getLsbD (i - 25)
    else op.getLsbD (i - 25 - 1) :=
  (getLsbD_append_ite _ _ _).trans (congrArg (ite _ _) (getLsbD_append_ite _ _ _))

@[simp] theorem fOp_packCo (op : BitVec 6) (fn : BitVec 25) : fOp (packCo op fn) = op := by
  apply BitVec.eq_of_getLsbD_eq
  intro i hi
  simp only [fOp, BitVec.getLsbD_extractLsb', hi, decide_true, Bool.true_and, getLsbD_packCo]
  rw [if_neg (by omega), if_neg (by omega)]
  congr 1; omega

@[simp] theorem fCofun_packCo (op : BitVec 6) (fn : BitVec 25) : fCofun (packCo op fn) = fn := by
  apply BitVec.eq_of_getLsbD_eq
  intro i hi
  simp only [fCofun, BitVec.getLsbD_extractLsb', hi, decide_true, Bool.true_and, getLsbD_packCo]
  rw [if_pos (by omega)]
  congr 1; omega

/-- The bits of packCode. -/
theorem getLsbD_packCode (code : BitVec 20) (fn : BitVec 6) (i : Nat) :
    (packCode code fn).getLsbD i =
    if i < 6 then fn.getLsbD i
    else if i - 6 < 20 then code.getLsbD (i - 6)
    else (0#6).getLsbD (i - 6 - 20) :=
  (getLsbD_append_ite _ _ _).trans (congrArg (ite _ _) (getLsbD_append_ite _ _ _))

@[simp] theorem fOp_packCode (code : BitVec 20) (fn : BitVec 6) : fOp (packCode code fn) = 0#6 := by
  apply BitVec.eq_of_getLsbD_eq
  intro i hi
  simp only [fOp, BitVec.getLsbD_extractLsb', hi, decide_true, Bool.true_and, getLsbD_packCode]
  rw [if_neg (by omega), if_neg (by omega)]
  congr 1; omega

@[simp] theorem fCode20_packCode (code : BitVec 20) (fn : BitVec 6) : fCode20 (packCode code fn) = code := by
  apply BitVec.eq_of_getLsbD_eq
  intro i hi
  simp only [fCode20, BitVec.getLsbD_extractLsb', hi, decide_true, Bool.true_and, getLsbD_packCode]
  rw [if_neg (by omega), if_pos (by omega)]
  congr 1; omega

@[simp] theorem fFn_packCode (code : BitVec 20) (fn : BitVec 6) : fFn (packCode code fn) = fn := by
  apply BitVec.eq_of_getLsbD_eq
  intro i hi
  simp only [fFn, BitVec.getLsbD_extractLsb', hi, decide_true, Bool.true_and, getLsbD_packCode]
  rw [if_pos (by omega)]
  congr 1; omega

/-- The bits of packTrap. -/
theorem getLsbD_packTrap (rs : BitVec 5) (rt : BitVec 5) (code : BitVec 10) (fn : BitVec 6) (i : Nat) :
    (packTrap rs rt code fn).getLsbD i =
    if i < 6 then fn.getLsbD i
    else if i - 6 < 10 then code.getLsbD (i - 6)
    else if i - 6 - 10 < 5 then rt.getLsbD (i - 6 - 10)
    else if i - 6 - 10 - 5 < 5 then rs.getLsbD (i - 6 - 10 - 5)
    else (0#6).getLsbD (i - 6 - 10 - 5 - 5) :=
  (getLsbD_append_ite _ _ _).trans (congrArg (ite _ _) ((getLsbD_append_ite _ _ _).trans (congrArg (ite _ _) ((getLsbD_append_ite _ _ _).trans (congrArg (ite _ _) (getLsbD_append_ite _ _ _))))))

@[simp] theorem fOp_packTrap (rs : BitVec 5) (rt : BitVec 5) (code : BitVec 10) (fn : BitVec 6) : fOp (packTrap rs rt code fn) = 0#6 := by
  apply BitVec.eq_of_getLsbD_eq
  intro i hi
  simp only [fOp, BitVec.getLsbD_extractLsb', hi, decide_true, Bool.true_and, getLsbD_packTrap]
  rw [if_neg (by omega), if_neg (by omega), if_neg (by omega), if_neg (by omega)]
  congr 1; omega

@[simp] theorem fRs_packTrap (rs : BitVec 5) (rt : BitVec 5) (code : BitVec 10) (fn : BitVec 6) : fRs (packTrap rs rt code fn) = rs := by
  apply BitVec.eq_of_getLsbD_eq
  intro i hi
  simp only [fRs, BitVec.getLsbD_extractLsb', hi, decide_true, Bool.true_and, getLsbD_packTrap]
  rw [if_neg (by omega), if_neg (by omega), if_neg (by omega), if_pos (by omega)]
  congr 1; omega

@[simp] theorem fRt_packTrap (rs : BitVec 5) (rt : BitVec 5) (code : BitVec 10) (fn : BitVec 6) : fRt (packTrap rs rt code fn) = rt := by
  apply BitVec.eq_of_getLsbD_eq
  intro i hi
  simp only [fRt, BitVec.getLsbD_extractLsb', hi, decide_true, Bool.true_and, getLsbD_packTrap]
  rw [if_neg (by omega), if_neg (by omega), if_pos (by omega)]
  congr 1; omega

@[simp] theorem fCode10_packTrap (rs : BitVec 5) (rt : BitVec 5) (code : BitVec 10) (fn : BitVec 6) : fCode10 (packTrap rs rt code fn) = code := by
  apply BitVec.eq_of_getLsbD_eq
  intro i hi
  simp only [fCode10, BitVec.getLsbD_extractLsb', hi, decide_true, Bool.true_and, getLsbD_packTrap]
  rw [if_neg (by omega), if_pos (by omega)]
  congr 1; omega

@[simp] theorem fFn_packTrap (rs : BitVec 5) (rt : BitVec 5) (code : BitVec 10) (fn : BitVec 6) : fFn (packTrap rs rt code fn) = fn := by
  apply BitVec.eq_of_getLsbD_eq
  intro i hi
  simp only [fFn, BitVec.getLsbD_extractLsb', hi, decide_true, Bool.true_and, getLsbD_packTrap]
  rw [if_pos (by omega)]
  congr 1; omega

/-- The bits of packBc. -/
theorem getLsbD_packBc (op : BitVec 6) (cc : BitVec 3) (ndTf : BitVec 2) (off : BitVec 16) (i : Nat) :
    (packBc op cc ndTf off).getLsbD i =
    if i < 16 then off.getLsbD i
    else if i - 16 < 2 then ndTf.getLsbD (i - 16)
    else if i - 16 - 2 < 3 then cc.getLsbD (i - 16 - 2)
    else if i - 16 - 2 - 3 < 5 then (8#5).getLsbD (i - 16 - 2 - 3)
    else op.getLsbD (i - 16 - 2 - 3 - 5) :=
  (getLsbD_append_ite _ _ _).trans (congrArg (ite _ _) ((getLsbD_append_ite _ _ _).trans (congrArg (ite _ _) ((getLsbD_append_ite _ _ _).trans (congrArg (ite _ _) (getLsbD_append_ite _ _ _))))))

@[simp] theorem fOp_packBc (op : BitVec 6) (cc : BitVec 3) (ndTf : BitVec 2) (off : BitVec 16) : fOp (packBc op cc ndTf off) = op := by
  apply BitVec.eq_of_getLsbD_eq
  intro i hi
  simp only [fOp, BitVec.getLsbD_extractLsb', hi, decide_true, Bool.true_and, getLsbD_packBc]
  rw [if_neg (by omega), if_neg (by omega), if_neg (by omega), if_neg (by omega)]
  congr 1; omega

@[simp] theorem fRs_packBc (op : BitVec 6) (cc : BitVec 3) (ndTf : BitVec 2) (off : BitVec 16) : fRs (packBc op cc ndTf off) = 8#5 := by
  apply BitVec.eq_of_getLsbD_eq
  intro i hi
  simp only [fRs, BitVec.getLsbD_extractLsb', hi, decide_true, Bool.true_and, getLsbD_packBc]
  rw [if_neg (by omega), if_neg (by omega), if_neg (by omega), if_pos (by omega)]
  congr 1; omega

@[simp] theorem fCc_packBc (op : BitVec 6) (cc : BitVec 3) (ndTf : BitVec 2) (off : BitVec 16) : fCc (packBc op cc ndTf off) = cc := by
  apply BitVec.eq_of_getLsbD_eq
  intro i hi
  simp only [fCc, BitVec.getLsbD_extractLsb', hi, decide_true, Bool.true_and, getLsbD_packBc]
  rw [if_neg (by omega), if_neg (by omega), if_pos (by omega)]
  congr 1; omega

@[simp] theorem fNdTf_packBc (op : BitVec 6) (cc : BitVec 3) (ndTf : BitVec 2) (off : BitVec 16) : fNdTf (packBc op cc ndTf off) = ndTf := by
  apply BitVec.eq_of_getLsbD_eq
  intro i hi
  simp only [fNdTf, BitVec.getLsbD_extractLsb', hi, decide_true, Bool.true_and, getLsbD_packBc]
  rw [if_neg (by omega), if_pos (by omega)]
  congr 1; omega

@[simp] theorem fImm_packBc (op : BitVec 6) (cc : BitVec 3) (ndTf : BitVec 2) (off : BitVec 16) : fImm (packBc op cc ndTf off) = off := by
  apply BitVec.eq_of_getLsbD_eq
  intro i hi
  simp only [fImm, BitVec.getLsbD_extractLsb', hi, decide_true, Bool.true_and, getLsbD_packBc]
  rw [if_pos (by omega)]
  congr 1; omega

/-- The bits of packMovc. -/
theorem getLsbD_packMovc (op : BitVec 6) (rs : BitVec 5) (cc : BitVec 3) (tf : BitVec 1) (rd : BitVec 5) (sa : BitVec 5) (fn : BitVec 6) (i : Nat) :
    (packMovc op rs cc tf rd sa fn).getLsbD i =
    if i < 6 then fn.getLsbD i
    else if i - 6 < 5 then sa.getLsbD (i - 6)
    else if i - 6 - 5 < 5 then rd.getLsbD (i - 6 - 5)
    else if i - 6 - 5 - 5 < 1 then tf.getLsbD (i - 6 - 5 - 5)
    else if i - 6 - 5 - 5 - 1 < 1 then (0#1).getLsbD (i - 6 - 5 - 5 - 1)
    else if i - 6 - 5 - 5 - 1 - 1 < 3 then cc.getLsbD (i - 6 - 5 - 5 - 1 - 1)
    else if i - 6 - 5 - 5 - 1 - 1 - 3 < 5 then rs.getLsbD (i - 6 - 5 - 5 - 1 - 1 - 3)
    else op.getLsbD (i - 6 - 5 - 5 - 1 - 1 - 3 - 5) :=
  (getLsbD_append_ite _ _ _).trans (congrArg (ite _ _) ((getLsbD_append_ite _ _ _).trans (congrArg (ite _ _) ((getLsbD_append_ite _ _ _).trans (congrArg (ite _ _) ((getLsbD_append_ite _ _ _).trans (congrArg (ite _ _) ((getLsbD_append_ite _ _ _).trans (congrArg (ite _ _) ((getLsbD_append_ite _ _ _).trans (congrArg (ite _ _) (getLsbD_append_ite _ _ _))))))))))))

@[simp] theorem fOp_packMovc (op : BitVec 6) (rs : BitVec 5) (cc : BitVec 3) (tf : BitVec 1) (rd : BitVec 5) (sa : BitVec 5) (fn : BitVec 6) : fOp (packMovc op rs cc tf rd sa fn) = op := by
  apply BitVec.eq_of_getLsbD_eq
  intro i hi
  simp only [fOp, BitVec.getLsbD_extractLsb', hi, decide_true, Bool.true_and, getLsbD_packMovc]
  rw [if_neg (by omega), if_neg (by omega), if_neg (by omega), if_neg (by omega), if_neg (by omega), if_neg (by omega), if_neg (by omega)]
  congr 1; omega

@[simp] theorem fRs_packMovc (op : BitVec 6) (rs : BitVec 5) (cc : BitVec 3) (tf : BitVec 1) (rd : BitVec 5) (sa : BitVec 5) (fn : BitVec 6) : fRs (packMovc op rs cc tf rd sa fn) = rs := by
  apply BitVec.eq_of_getLsbD_eq
  intro i hi
  simp only [fRs, BitVec.getLsbD_extractLsb', hi, decide_true, Bool.true_and, getLsbD_packMovc]
  rw [if_neg (by omega), if_neg (by omega), if_neg (by omega), if_neg (by omega), if_neg (by omega), if_neg (by omega), if_pos (by omega)]
  congr 1; omega

@[simp] theorem fCc_packMovc (op : BitVec 6) (rs : BitVec 5) (cc : BitVec 3) (tf : BitVec 1) (rd : BitVec 5) (sa : BitVec 5) (fn : BitVec 6) : fCc (packMovc op rs cc tf rd sa fn) = cc := by
  apply BitVec.eq_of_getLsbD_eq
  intro i hi
  simp only [fCc, BitVec.getLsbD_extractLsb', hi, decide_true, Bool.true_and, getLsbD_packMovc]
  rw [if_neg (by omega), if_neg (by omega), if_neg (by omega), if_neg (by omega), if_neg (by omega), if_pos (by omega)]
  congr 1; omega

@[simp] theorem fTf_packMovc (op : BitVec 6) (rs : BitVec 5) (cc : BitVec 3) (tf : BitVec 1) (rd : BitVec 5) (sa : BitVec 5) (fn : BitVec 6) : fTf (packMovc op rs cc tf rd sa fn) = tf := by
  apply BitVec.eq_of_getLsbD_eq
  intro i hi
  simp only [fTf, BitVec.getLsbD_extractLsb', hi, decide_true, Bool.true_and, getLsbD_packMovc]
  rw [if_neg (by omega), if_neg (by omega), if_neg (by omega), if_pos (by omega)]
  congr 1; omega

@[simp] theorem fRd_packMovc (op : BitVec 6) (rs : BitVec 5) (cc : BitVec 3) (tf : BitVec 1) (rd : BitVec 5) (sa : BitVec 5) (fn : BitVec 6) : fRd (packMovc op rs cc tf rd sa fn) = rd := by
  apply BitVec.eq_of_getLsbD_eq
  intro i hi
  simp only [fRd, BitVec.getLsbD_extractLsb', hi, decide_true, Bool.true_and, getLsbD_packMovc]
  rw [if_neg (by omega), if_neg (by omega), if_pos (by omega)]
  congr 1; omega

@[simp] theorem fSa_packMovc (op : BitVec 6) (rs : BitVec 5) (cc : BitVec 3) (tf : BitVec 1) (rd : BitVec 5) (sa : BitVec 5) (fn : BitVec 6) : fSa (packMovc op rs cc tf rd sa fn) = sa := by
  apply BitVec.eq_of_getLsbD_eq
  intro i hi
  simp only [fSa, BitVec.getLsbD_extractLsb', hi, decide_true, Bool.true_and, getLsbD_packMovc]
  rw [if_neg (by omega), if_pos (by omega)]
  congr 1; omega

@[simp] theorem fFn_packMovc (op : BitVec 6) (rs : BitVec 5) (cc : BitVec 3) (tf : BitVec 1) (rd : BitVec 5) (sa : BitVec 5) (fn : BitVec 6) : fFn (packMovc op rs cc tf rd sa fn) = fn := by
  apply BitVec.eq_of_getLsbD_eq
  intro i hi
  simp only [fFn, BitVec.getLsbD_extractLsb', hi, decide_true, Bool.true_and, getLsbD_packMovc]
  rw [if_pos (by omega)]
  congr 1; omega

/-- The bits of packCmp. -/
theorem getLsbD_packCmp (fmt : BitVec 5) (ft : BitVec 5) (fs : BitVec 5) (cc : BitVec 3) (fn : BitVec 6) (i : Nat) :
    (packCmp fmt ft fs cc fn).getLsbD i =
    if i < 6 then fn.getLsbD i
    else if i - 6 < 2 then (0#2).getLsbD (i - 6)
    else if i - 6 - 2 < 3 then cc.getLsbD (i - 6 - 2)
    else if i - 6 - 2 - 3 < 5 then fs.getLsbD (i - 6 - 2 - 3)
    else if i - 6 - 2 - 3 - 5 < 5 then ft.getLsbD (i - 6 - 2 - 3 - 5)
    else if i - 6 - 2 - 3 - 5 - 5 < 5 then fmt.getLsbD (i - 6 - 2 - 3 - 5 - 5)
    else (0x11#6).getLsbD (i - 6 - 2 - 3 - 5 - 5 - 5) :=
  (getLsbD_append_ite _ _ _).trans (congrArg (ite _ _) ((getLsbD_append_ite _ _ _).trans (congrArg (ite _ _) ((getLsbD_append_ite _ _ _).trans (congrArg (ite _ _) ((getLsbD_append_ite _ _ _).trans (congrArg (ite _ _) ((getLsbD_append_ite _ _ _).trans (congrArg (ite _ _) (getLsbD_append_ite _ _ _))))))))))

@[simp] theorem fOp_packCmp (fmt : BitVec 5) (ft : BitVec 5) (fs : BitVec 5) (cc : BitVec 3) (fn : BitVec 6) : fOp (packCmp fmt ft fs cc fn) = 0x11#6 := by
  apply BitVec.eq_of_getLsbD_eq
  intro i hi
  simp only [fOp, BitVec.getLsbD_extractLsb', hi, decide_true, Bool.true_and, getLsbD_packCmp]
  rw [if_neg (by omega), if_neg (by omega), if_neg (by omega), if_neg (by omega), if_neg (by omega), if_neg (by omega)]
  congr 1; omega

@[simp] theorem fRs_packCmp (fmt : BitVec 5) (ft : BitVec 5) (fs : BitVec 5) (cc : BitVec 3) (fn : BitVec 6) : fRs (packCmp fmt ft fs cc fn) = fmt := by
  apply BitVec.eq_of_getLsbD_eq
  intro i hi
  simp only [fRs, BitVec.getLsbD_extractLsb', hi, decide_true, Bool.true_and, getLsbD_packCmp]
  rw [if_neg (by omega), if_neg (by omega), if_neg (by omega), if_neg (by omega), if_neg (by omega), if_pos (by omega)]
  congr 1; omega

@[simp] theorem fRt_packCmp (fmt : BitVec 5) (ft : BitVec 5) (fs : BitVec 5) (cc : BitVec 3) (fn : BitVec 6) : fRt (packCmp fmt ft fs cc fn) = ft := by
  apply BitVec.eq_of_getLsbD_eq
  intro i hi
  simp only [fRt, BitVec.getLsbD_extractLsb', hi, decide_true, Bool.true_and, getLsbD_packCmp]
  rw [if_neg (by omega), if_neg (by omega), if_neg (by omega), if_neg (by omega), if_pos (by omega)]
  congr 1; omega

@[simp] theorem fRd_packCmp (fmt : BitVec 5) (ft : BitVec 5) (fs : BitVec 5) (cc : BitVec 3) (fn : BitVec 6) : fRd (packCmp fmt ft fs cc fn) = fs := by
  apply BitVec.eq_of_getLsbD_eq
  intro i hi
  simp only [fRd, BitVec.getLsbD_extractLsb', hi, decide_true, Bool.true_and, getLsbD_packCmp]
  rw [if_neg (by omega), if_neg (by omega), if_neg (by omega), if_pos (by omega)]
  congr 1; omega

@[simp] theorem fCmpCc_packCmp (fmt : BitVec 5) (ft : BitVec 5) (fs : BitVec 5) (cc : BitVec 3) (fn : BitVec 6) : fCmpCc (packCmp fmt ft fs cc fn) = cc := by
  apply BitVec.eq_of_getLsbD_eq
  intro i hi
  simp only [fCmpCc, BitVec.getLsbD_extractLsb', hi, decide_true, Bool.true_and, getLsbD_packCmp]
  rw [if_neg (by omega), if_neg (by omega), if_pos (by omega)]
  congr 1; omega

@[simp] theorem fFn_packCmp (fmt : BitVec 5) (ft : BitVec 5) (fs : BitVec 5) (cc : BitVec 3) (fn : BitVec 6) : fFn (packCmp fmt ft fs cc fn) = fn := by
  apply BitVec.eq_of_getLsbD_eq
  intro i hi
  simp only [fFn, BitVec.getLsbD_extractLsb', hi, decide_true, Bool.true_and, getLsbD_packCmp]
  rw [if_pos (by omega)]
  congr 1; omega

/-- The function of a coprocessor operation: the low six bits. -/
theorem fFn_packCo (op : BitVec 6) (fn : BitVec 25) : fFn (packCo op fn) = fn.extractLsb' 0 6 := by
  apply BitVec.eq_of_getLsbD_eq
  intro i hi
  simp only [fFn, BitVec.getLsbD_extractLsb', hi, decide_true, Bool.true_and, getLsbD_packCo]
  rw [if_pos (by omega)]

/-- The CO bit of a coprocessor operation. -/
@[simp] theorem fRs_packCo_msb (op : BitVec 6) (fn : BitVec 25) : (fRs (packCo op fn)).msb = true := by
  rw [BitVec.msb_eq_getLsbD_last, fRs, BitVec.getLsbD_extractLsb', getLsbD_packCo]
  simp

/-- The sub-opcodes of the moves are below 16. -/
theorem msb_low : (0#5).msb = false ∧ (1#5).msb = false ∧ (2#5).msb = false ∧ (4#5).msb = false ∧
    (5#5).msb = false ∧ (6#5).msb = false := by decide

/-- Decoding the encoding of the instruction gives it back, at every level at which it is well formed. -/
def Laws.RoundTrip.Statement (i : Instr) : Prop :=
  ∀ isa : Isa, i.wellFormed isa = true → decode isa (encode i) = .ok i

open Laws.RoundTrip (Statement)

/-! ### The tables, one after the other -/

theorem decode_special (isa : Isa) {w : Word} (h : fOp w = 0#6) : decode isa w = decodeSpecial w := by
  unfold decode; rw [h]; rfl
theorem decode_regimm (isa : Isa) {w : Word} (h : fOp w = 1#6) : decode isa w = decodeRegimm w := by
  unfold decode; rw [h]; rfl
theorem decode_special2 (isa : Isa) {w : Word} (h : fOp w = 0x1c#6) : decode isa w = decodeSpecial2 w := by
  unfold decode; rw [h]; rfl
theorem decode_cop0 (isa : Isa) {w : Word} (h : fOp w = 0x10#6) : decode isa w = decodeCop0 w := by
  unfold decode; rw [h]; rfl
theorem decode_cop1 (isa : Isa) {w : Word} (h : fOp w = 0x11#6) : decode isa w = decodeCop1 w := by
  unfold decode; rw [h]; rfl
theorem decode_cop2 (isa : Isa) {w : Word} (h : fOp w = 0x12#6) : decode isa w = decodeCop2 w := by
  unfold decode; rw [h]; rfl

/-- Coprocessor 3 exists below MIPS III. -/
theorem decode_cop3 {isa : Isa} (hi : isa = .mips1 ∨ isa = .mips2) {w : Word} (h : fOp w = 0x13#6) :
    decode isa w = decodeCop3 w := by
  unfold decode; rw [h]; rcases hi with rfl | rfl <;> rfl

/-- COP1X exists in MIPS IV. -/
theorem decode_cop1x {isa : Isa} (hi : isa = .mips4) {w : Word} (h : fOp w = 0x13#6) :
    decode isa w = decodeCop1x w := by
  unfold decode; rw [h, hi]; rfl

theorem decodeCop1_bc {w : Word} (h : fRs w = 8#5) : decodeCop1 w = decodeBc1 w := by
  unfold decodeCop1; rw [h]; rfl
theorem decodeCop1_s {w : Word} (h : fRs w = 16#5) : decodeCop1 w = decodeFpS w := by
  unfold decodeCop1; rw [h]; rfl
theorem decodeCop1_d {w : Word} (h : fRs w = 17#5) : decodeCop1 w = decodeFpD w := by
  unfold decodeCop1; rw [h]; rfl
theorem decodeCop1_w {w : Word} (h : fRs w = 20#5) : decodeCop1 w = decodeFpW w := by
  unfold decodeCop1; rw [h]; rfl
theorem decodeCop1_l {w : Word} (h : fRs w = 21#5) : decodeCop1 w = decodeFpL w := by
  unfold decodeCop1; rw [h]; rfl

theorem decodeCop0_op {w : Word} (h : (fRs w).msb = true) : decodeCop0 w = decodeCop0Op w := by
  unfold decodeCop0; rw [h]; rfl
theorem decodeCop0_bc {w : Word} (h : fRs w = 8#5) : decodeCop0 w = decodeBc0 w := by
  unfold decodeCop0; rw [h]; rfl
theorem decodeCop2_bc {w : Word} (h : fRs w = 8#5) : decodeCop2 w = decodeBc2 w := by
  unfold decodeCop2; rw [h]; rfl
theorem decodeCop3_bc {w : Word} (h : fRs w = 8#5) : decodeCop3 w = decodeBc3 w := by
  unfold decodeCop3; rw [h]; rfl

theorem low_of_wellFormed {isa : Isa} (h : (isa == .mips1 || isa == .mips2) = true) : isa = .mips1 ∨ isa = .mips2 := by
  revert h; cases isa <;> decide

theorem mips4_of_wellFormed {isa : Isa} (h : (isa == .mips4) = true) : isa = .mips4 := by
  revert h; cases isa <;> decide

/-! ### One lemma for each instruction -/

theorem Laws.RoundTrip.add (rs : RegNum) (rt : RegNum) (rd : RegNum) : Statement (.add rs rt rd) := fun isa _ => by
  refine (decode_special isa (fOp_packR ..)).trans ?_
  unfold decodeSpecial; rw [fFn_packR]
  exact congrArg Decoded.ok (by simp)

theorem Laws.RoundTrip.addu (rs : RegNum) (rt : RegNum) (rd : RegNum) : Statement (.addu rs rt rd) := fun isa _ => by
  refine (decode_special isa (fOp_packR ..)).trans ?_
  unfold decodeSpecial; rw [fFn_packR]
  exact congrArg Decoded.ok (by simp)

theorem Laws.RoundTrip.sub (rs : RegNum) (rt : RegNum) (rd : RegNum) : Statement (.sub rs rt rd) := fun isa _ => by
  refine (decode_special isa (fOp_packR ..)).trans ?_
  unfold decodeSpecial; rw [fFn_packR]
  exact congrArg Decoded.ok (by simp)

theorem Laws.RoundTrip.subu (rs : RegNum) (rt : RegNum) (rd : RegNum) : Statement (.subu rs rt rd) := fun isa _ => by
  refine (decode_special isa (fOp_packR ..)).trans ?_
  unfold decodeSpecial; rw [fFn_packR]
  exact congrArg Decoded.ok (by simp)

theorem Laws.RoundTrip.dadd (rs : RegNum) (rt : RegNum) (rd : RegNum) : Statement (.dadd rs rt rd) := fun isa _ => by
  refine (decode_special isa (fOp_packR ..)).trans ?_
  unfold decodeSpecial; rw [fFn_packR]
  exact congrArg Decoded.ok (by simp)

theorem Laws.RoundTrip.daddu (rs : RegNum) (rt : RegNum) (rd : RegNum) : Statement (.daddu rs rt rd) := fun isa _ => by
  refine (decode_special isa (fOp_packR ..)).trans ?_
  unfold decodeSpecial; rw [fFn_packR]
  exact congrArg Decoded.ok (by simp)

theorem Laws.RoundTrip.dsub (rs : RegNum) (rt : RegNum) (rd : RegNum) : Statement (.dsub rs rt rd) := fun isa _ => by
  refine (decode_special isa (fOp_packR ..)).trans ?_
  unfold decodeSpecial; rw [fFn_packR]
  exact congrArg Decoded.ok (by simp)

theorem Laws.RoundTrip.dsubu (rs : RegNum) (rt : RegNum) (rd : RegNum) : Statement (.dsubu rs rt rd) := fun isa _ => by
  refine (decode_special isa (fOp_packR ..)).trans ?_
  unfold decodeSpecial; rw [fFn_packR]
  exact congrArg Decoded.ok (by simp)

theorem Laws.RoundTrip.and (rs : RegNum) (rt : RegNum) (rd : RegNum) : Statement (.and rs rt rd) := fun isa _ => by
  refine (decode_special isa (fOp_packR ..)).trans ?_
  unfold decodeSpecial; rw [fFn_packR]
  exact congrArg Decoded.ok (by simp)

theorem Laws.RoundTrip.or (rs : RegNum) (rt : RegNum) (rd : RegNum) : Statement (.or rs rt rd) := fun isa _ => by
  refine (decode_special isa (fOp_packR ..)).trans ?_
  unfold decodeSpecial; rw [fFn_packR]
  exact congrArg Decoded.ok (by simp)

theorem Laws.RoundTrip.xor (rs : RegNum) (rt : RegNum) (rd : RegNum) : Statement (.xor rs rt rd) := fun isa _ => by
  refine (decode_special isa (fOp_packR ..)).trans ?_
  unfold decodeSpecial; rw [fFn_packR]
  exact congrArg Decoded.ok (by simp)

theorem Laws.RoundTrip.nor (rs : RegNum) (rt : RegNum) (rd : RegNum) : Statement (.nor rs rt rd) := fun isa _ => by
  refine (decode_special isa (fOp_packR ..)).trans ?_
  unfold decodeSpecial; rw [fFn_packR]
  exact congrArg Decoded.ok (by simp)

theorem Laws.RoundTrip.slt (rs : RegNum) (rt : RegNum) (rd : RegNum) : Statement (.slt rs rt rd) := fun isa _ => by
  refine (decode_special isa (fOp_packR ..)).trans ?_
  unfold decodeSpecial; rw [fFn_packR]
  exact congrArg Decoded.ok (by simp)

theorem Laws.RoundTrip.sltu (rs : RegNum) (rt : RegNum) (rd : RegNum) : Statement (.sltu rs rt rd) := fun isa _ => by
  refine (decode_special isa (fOp_packR ..)).trans ?_
  unfold decodeSpecial; rw [fFn_packR]
  exact congrArg Decoded.ok (by simp)

theorem Laws.RoundTrip.sllv (rs : RegNum) (rt : RegNum) (rd : RegNum) : Statement (.sllv rs rt rd) := fun isa _ => by
  refine (decode_special isa (fOp_packR ..)).trans ?_
  unfold decodeSpecial; rw [fFn_packR]
  exact congrArg Decoded.ok (by simp)

theorem Laws.RoundTrip.srlv (rs : RegNum) (rt : RegNum) (rd : RegNum) : Statement (.srlv rs rt rd) := fun isa _ => by
  refine (decode_special isa (fOp_packR ..)).trans ?_
  unfold decodeSpecial; rw [fFn_packR]
  exact congrArg Decoded.ok (by simp)

theorem Laws.RoundTrip.srav (rs : RegNum) (rt : RegNum) (rd : RegNum) : Statement (.srav rs rt rd) := fun isa _ => by
  refine (decode_special isa (fOp_packR ..)).trans ?_
  unfold decodeSpecial; rw [fFn_packR]
  exact congrArg Decoded.ok (by simp)

theorem Laws.RoundTrip.dsllv (rs : RegNum) (rt : RegNum) (rd : RegNum) : Statement (.dsllv rs rt rd) := fun isa _ => by
  refine (decode_special isa (fOp_packR ..)).trans ?_
  unfold decodeSpecial; rw [fFn_packR]
  exact congrArg Decoded.ok (by simp)

theorem Laws.RoundTrip.dsrlv (rs : RegNum) (rt : RegNum) (rd : RegNum) : Statement (.dsrlv rs rt rd) := fun isa _ => by
  refine (decode_special isa (fOp_packR ..)).trans ?_
  unfold decodeSpecial; rw [fFn_packR]
  exact congrArg Decoded.ok (by simp)

theorem Laws.RoundTrip.dsrav (rs : RegNum) (rt : RegNum) (rd : RegNum) : Statement (.dsrav rs rt rd) := fun isa _ => by
  refine (decode_special isa (fOp_packR ..)).trans ?_
  unfold decodeSpecial; rw [fFn_packR]
  exact congrArg Decoded.ok (by simp)

theorem Laws.RoundTrip.movn (rs : RegNum) (rt : RegNum) (rd : RegNum) : Statement (.movn rs rt rd) := fun isa _ => by
  refine (decode_special isa (fOp_packR ..)).trans ?_
  unfold decodeSpecial; rw [fFn_packR]
  exact congrArg Decoded.ok (by simp)

theorem Laws.RoundTrip.movz (rs : RegNum) (rt : RegNum) (rd : RegNum) : Statement (.movz rs rt rd) := fun isa _ => by
  refine (decode_special isa (fOp_packR ..)).trans ?_
  unfold decodeSpecial; rw [fFn_packR]
  exact congrArg Decoded.ok (by simp)

theorem Laws.RoundTrip.sll (rt : RegNum) (rd : RegNum) (sa : BitVec 5) : Statement (.sll rt rd sa) := fun isa _ => by
  refine (decode_special isa (fOp_packR ..)).trans ?_
  unfold decodeSpecial; rw [fFn_packR]
  exact congrArg Decoded.ok (by simp)

theorem Laws.RoundTrip.srl (rt : RegNum) (rd : RegNum) (sa : BitVec 5) : Statement (.srl rt rd sa) := fun isa _ => by
  refine (decode_special isa (fOp_packR ..)).trans ?_
  unfold decodeSpecial; rw [fFn_packR]
  exact congrArg Decoded.ok (by simp)

theorem Laws.RoundTrip.sra (rt : RegNum) (rd : RegNum) (sa : BitVec 5) : Statement (.sra rt rd sa) := fun isa _ => by
  refine (decode_special isa (fOp_packR ..)).trans ?_
  unfold decodeSpecial; rw [fFn_packR]
  exact congrArg Decoded.ok (by simp)

theorem Laws.RoundTrip.dsll (rt : RegNum) (rd : RegNum) (sa : BitVec 5) : Statement (.dsll rt rd sa) := fun isa _ => by
  refine (decode_special isa (fOp_packR ..)).trans ?_
  unfold decodeSpecial; rw [fFn_packR]
  exact congrArg Decoded.ok (by simp)

theorem Laws.RoundTrip.dsrl (rt : RegNum) (rd : RegNum) (sa : BitVec 5) : Statement (.dsrl rt rd sa) := fun isa _ => by
  refine (decode_special isa (fOp_packR ..)).trans ?_
  unfold decodeSpecial; rw [fFn_packR]
  exact congrArg Decoded.ok (by simp)

theorem Laws.RoundTrip.dsra (rt : RegNum) (rd : RegNum) (sa : BitVec 5) : Statement (.dsra rt rd sa) := fun isa _ => by
  refine (decode_special isa (fOp_packR ..)).trans ?_
  unfold decodeSpecial; rw [fFn_packR]
  exact congrArg Decoded.ok (by simp)

theorem Laws.RoundTrip.dsll32 (rt : RegNum) (rd : RegNum) (sa : BitVec 5) : Statement (.dsll32 rt rd sa) := fun isa _ => by
  refine (decode_special isa (fOp_packR ..)).trans ?_
  unfold decodeSpecial; rw [fFn_packR]
  exact congrArg Decoded.ok (by simp)

theorem Laws.RoundTrip.dsrl32 (rt : RegNum) (rd : RegNum) (sa : BitVec 5) : Statement (.dsrl32 rt rd sa) := fun isa _ => by
  refine (decode_special isa (fOp_packR ..)).trans ?_
  unfold decodeSpecial; rw [fFn_packR]
  exact congrArg Decoded.ok (by simp)

theorem Laws.RoundTrip.dsra32 (rt : RegNum) (rd : RegNum) (sa : BitVec 5) : Statement (.dsra32 rt rd sa) := fun isa _ => by
  refine (decode_special isa (fOp_packR ..)).trans ?_
  unfold decodeSpecial; rw [fFn_packR]
  exact congrArg Decoded.ok (by simp)

theorem Laws.RoundTrip.movf (rs : RegNum) (cc : BitVec 3) (rd : RegNum) : Statement (.movf rs cc rd) := fun isa _ => by
  refine (decode_special isa (fOp_packMovc ..)).trans ?_
  simp [decodeSpecial]

theorem Laws.RoundTrip.movt (rs : RegNum) (cc : BitVec 3) (rd : RegNum) : Statement (.movt rs cc rd) := fun isa _ => by
  refine (decode_special isa (fOp_packMovc ..)).trans ?_
  simp [decodeSpecial]

theorem Laws.RoundTrip.addi (rs : RegNum) (rt : RegNum) (imm : BitVec 16) : Statement (.addi rs rt imm) := fun isa _ => by
  unfold decode; rw [show fOp (encode (.addi rs rt imm)) = 0x8#6 from fOp_packI ..]
  exact congrArg Decoded.ok (by simp [encode])

theorem Laws.RoundTrip.addiu (rs : RegNum) (rt : RegNum) (imm : BitVec 16) : Statement (.addiu rs rt imm) := fun isa _ => by
  unfold decode; rw [show fOp (encode (.addiu rs rt imm)) = 0x9#6 from fOp_packI ..]
  exact congrArg Decoded.ok (by simp [encode])

theorem Laws.RoundTrip.slti (rs : RegNum) (rt : RegNum) (imm : BitVec 16) : Statement (.slti rs rt imm) := fun isa _ => by
  unfold decode; rw [show fOp (encode (.slti rs rt imm)) = 0xa#6 from fOp_packI ..]
  exact congrArg Decoded.ok (by simp [encode])

theorem Laws.RoundTrip.sltiu (rs : RegNum) (rt : RegNum) (imm : BitVec 16) : Statement (.sltiu rs rt imm) := fun isa _ => by
  unfold decode; rw [show fOp (encode (.sltiu rs rt imm)) = 0xb#6 from fOp_packI ..]
  exact congrArg Decoded.ok (by simp [encode])

theorem Laws.RoundTrip.andi (rs : RegNum) (rt : RegNum) (imm : BitVec 16) : Statement (.andi rs rt imm) := fun isa _ => by
  unfold decode; rw [show fOp (encode (.andi rs rt imm)) = 0xc#6 from fOp_packI ..]
  exact congrArg Decoded.ok (by simp [encode])

theorem Laws.RoundTrip.ori (rs : RegNum) (rt : RegNum) (imm : BitVec 16) : Statement (.ori rs rt imm) := fun isa _ => by
  unfold decode; rw [show fOp (encode (.ori rs rt imm)) = 0xd#6 from fOp_packI ..]
  exact congrArg Decoded.ok (by simp [encode])

theorem Laws.RoundTrip.xori (rs : RegNum) (rt : RegNum) (imm : BitVec 16) : Statement (.xori rs rt imm) := fun isa _ => by
  unfold decode; rw [show fOp (encode (.xori rs rt imm)) = 0xe#6 from fOp_packI ..]
  exact congrArg Decoded.ok (by simp [encode])

theorem Laws.RoundTrip.daddi (rs : RegNum) (rt : RegNum) (imm : BitVec 16) : Statement (.daddi rs rt imm) := fun isa _ => by
  unfold decode; rw [show fOp (encode (.daddi rs rt imm)) = 0x18#6 from fOp_packI ..]
  exact congrArg Decoded.ok (by simp [encode])

theorem Laws.RoundTrip.daddiu (rs : RegNum) (rt : RegNum) (imm : BitVec 16) : Statement (.daddiu rs rt imm) := fun isa _ => by
  unfold decode; rw [show fOp (encode (.daddiu rs rt imm)) = 0x19#6 from fOp_packI ..]
  exact congrArg Decoded.ok (by simp [encode])

theorem Laws.RoundTrip.lui (rt : RegNum) (imm : BitVec 16) : Statement (.lui rt imm) := fun isa _ => by
  unfold decode; rw [show fOp (encode (.lui rt imm)) = 0xf#6 from fOp_packI ..]
  exact congrArg Decoded.ok (by simp [encode])

theorem Laws.RoundTrip.mfhi (rd : RegNum) : Statement (.mfhi rd) := fun isa _ => by
  refine (decode_special isa (fOp_packR ..)).trans ?_
  unfold decodeSpecial; rw [fFn_packR]
  exact congrArg Decoded.ok (by simp)

theorem Laws.RoundTrip.mflo (rd : RegNum) : Statement (.mflo rd) := fun isa _ => by
  refine (decode_special isa (fOp_packR ..)).trans ?_
  unfold decodeSpecial; rw [fFn_packR]
  exact congrArg Decoded.ok (by simp)

theorem Laws.RoundTrip.mthi (rs : RegNum) : Statement (.mthi rs) := fun isa _ => by
  refine (decode_special isa (fOp_packR ..)).trans ?_
  unfold decodeSpecial; rw [fFn_packR]
  exact congrArg Decoded.ok (by simp)

theorem Laws.RoundTrip.mtlo (rs : RegNum) : Statement (.mtlo rs) := fun isa _ => by
  refine (decode_special isa (fOp_packR ..)).trans ?_
  unfold decodeSpecial; rw [fFn_packR]
  exact congrArg Decoded.ok (by simp)

theorem Laws.RoundTrip.div (rs : RegNum) (rt : RegNum) : Statement (.div rs rt) := fun isa _ => by
  refine (decode_special isa (fOp_packR ..)).trans ?_
  unfold decodeSpecial; rw [fFn_packR]
  exact congrArg Decoded.ok (by simp)

theorem Laws.RoundTrip.divu (rs : RegNum) (rt : RegNum) : Statement (.divu rs rt) := fun isa _ => by
  refine (decode_special isa (fOp_packR ..)).trans ?_
  unfold decodeSpecial; rw [fFn_packR]
  exact congrArg Decoded.ok (by simp)

theorem Laws.RoundTrip.ddiv (rs : RegNum) (rt : RegNum) : Statement (.ddiv rs rt) := fun isa _ => by
  refine (decode_special isa (fOp_packR ..)).trans ?_
  unfold decodeSpecial; rw [fFn_packR]
  exact congrArg Decoded.ok (by simp)

theorem Laws.RoundTrip.ddivu (rs : RegNum) (rt : RegNum) : Statement (.ddivu rs rt) := fun isa _ => by
  refine (decode_special isa (fOp_packR ..)).trans ?_
  unfold decodeSpecial; rw [fFn_packR]
  exact congrArg Decoded.ok (by simp)

theorem Laws.RoundTrip.mult (rs : RegNum) (rt : RegNum) : Statement (.mult rs rt) := fun isa _ => by
  refine (decode_special isa (fOp_packR ..)).trans ?_
  unfold decodeSpecial; rw [fFn_packR]
  exact congrArg Decoded.ok (by simp)

theorem Laws.RoundTrip.multu (rs : RegNum) (rt : RegNum) : Statement (.multu rs rt) := fun isa _ => by
  refine (decode_special isa (fOp_packR ..)).trans ?_
  unfold decodeSpecial; rw [fFn_packR]
  exact congrArg Decoded.ok (by simp)

theorem Laws.RoundTrip.dmult (rs : RegNum) (rt : RegNum) : Statement (.dmult rs rt) := fun isa _ => by
  refine (decode_special isa (fOp_packR ..)).trans ?_
  unfold decodeSpecial; rw [fFn_packR]
  exact congrArg Decoded.ok (by simp)

theorem Laws.RoundTrip.dmultu (rs : RegNum) (rt : RegNum) : Statement (.dmultu rs rt) := fun isa _ => by
  refine (decode_special isa (fOp_packR ..)).trans ?_
  unfold decodeSpecial; rw [fFn_packR]
  exact congrArg Decoded.ok (by simp)

theorem Laws.RoundTrip.mad (rs : RegNum) (rt : RegNum) : Statement (.mad rs rt) := fun isa _ => by
  refine (decode_special2 isa (fOp_packR ..)).trans ?_
  simp [decodeSpecial2]

theorem Laws.RoundTrip.madu (rs : RegNum) (rt : RegNum) : Statement (.madu rs rt) := fun isa _ => by
  refine (decode_special2 isa (fOp_packR ..)).trans ?_
  simp [decodeSpecial2]

theorem Laws.RoundTrip.mul (rs : RegNum) (rt : RegNum) (rd : RegNum) : Statement (.mul rs rt rd) := fun isa _ => by
  refine (decode_special2 isa (fOp_packR ..)).trans ?_
  simp [decodeSpecial2]

theorem Laws.RoundTrip.j (idx : BitVec 26) : Statement (.j idx) := fun isa _ => by
  unfold decode; rw [show fOp (encode (.j idx)) = 0x2#6 from fOp_packJ ..]
  exact congrArg Decoded.ok (by simp [encode])

theorem Laws.RoundTrip.jal (idx : BitVec 26) : Statement (.jal idx) := fun isa _ => by
  unfold decode; rw [show fOp (encode (.jal idx)) = 0x3#6 from fOp_packJ ..]
  exact congrArg Decoded.ok (by simp [encode])

theorem Laws.RoundTrip.jr (rs : RegNum) : Statement (.jr rs) := fun isa _ => by
  refine (decode_special isa (fOp_packR ..)).trans ?_
  unfold decodeSpecial; rw [fFn_packR]
  exact congrArg Decoded.ok (by simp)

theorem Laws.RoundTrip.jalr (rs : RegNum) (rd : RegNum) : Statement (.jalr rs rd) := fun isa _ => by
  refine (decode_special isa (fOp_packR ..)).trans ?_
  unfold decodeSpecial; rw [fFn_packR]
  exact congrArg Decoded.ok (by simp)

theorem Laws.RoundTrip.beq (rs : RegNum) (rt : RegNum) (offset : BitVec 16) : Statement (.beq rs rt offset) := fun isa _ => by
  unfold decode; rw [show fOp (encode (.beq rs rt offset)) = 0x4#6 from fOp_packI ..]
  exact congrArg Decoded.ok (by simp [encode])

theorem Laws.RoundTrip.bne (rs : RegNum) (rt : RegNum) (offset : BitVec 16) : Statement (.bne rs rt offset) := fun isa _ => by
  unfold decode; rw [show fOp (encode (.bne rs rt offset)) = 0x5#6 from fOp_packI ..]
  exact congrArg Decoded.ok (by simp [encode])

theorem Laws.RoundTrip.beql (rs : RegNum) (rt : RegNum) (offset : BitVec 16) : Statement (.beql rs rt offset) := fun isa _ => by
  unfold decode; rw [show fOp (encode (.beql rs rt offset)) = 0x14#6 from fOp_packI ..]
  exact congrArg Decoded.ok (by simp [encode])

theorem Laws.RoundTrip.bnel (rs : RegNum) (rt : RegNum) (offset : BitVec 16) : Statement (.bnel rs rt offset) := fun isa _ => by
  unfold decode; rw [show fOp (encode (.bnel rs rt offset)) = 0x15#6 from fOp_packI ..]
  exact congrArg Decoded.ok (by simp [encode])

theorem Laws.RoundTrip.blez (rs : RegNum) (offset : BitVec 16) : Statement (.blez rs offset) := fun isa _ => by
  unfold decode; rw [show fOp (encode (.blez rs offset)) = 0x6#6 from fOp_packI ..]
  exact congrArg Decoded.ok (by simp [encode])

theorem Laws.RoundTrip.bgtz (rs : RegNum) (offset : BitVec 16) : Statement (.bgtz rs offset) := fun isa _ => by
  unfold decode; rw [show fOp (encode (.bgtz rs offset)) = 0x7#6 from fOp_packI ..]
  exact congrArg Decoded.ok (by simp [encode])

theorem Laws.RoundTrip.blezl (rs : RegNum) (offset : BitVec 16) : Statement (.blezl rs offset) := fun isa _ => by
  unfold decode; rw [show fOp (encode (.blezl rs offset)) = 0x16#6 from fOp_packI ..]
  exact congrArg Decoded.ok (by simp [encode])

theorem Laws.RoundTrip.bgtzl (rs : RegNum) (offset : BitVec 16) : Statement (.bgtzl rs offset) := fun isa _ => by
  unfold decode; rw [show fOp (encode (.bgtzl rs offset)) = 0x17#6 from fOp_packI ..]
  exact congrArg Decoded.ok (by simp [encode])

theorem Laws.RoundTrip.bltz (rs : RegNum) (offset : BitVec 16) : Statement (.bltz rs offset) := fun isa _ => by
  refine (decode_regimm isa (fOp_packI ..)).trans ?_
  simp [decodeRegimm]

theorem Laws.RoundTrip.bgez (rs : RegNum) (offset : BitVec 16) : Statement (.bgez rs offset) := fun isa _ => by
  refine (decode_regimm isa (fOp_packI ..)).trans ?_
  simp [decodeRegimm]

theorem Laws.RoundTrip.bltzl (rs : RegNum) (offset : BitVec 16) : Statement (.bltzl rs offset) := fun isa _ => by
  refine (decode_regimm isa (fOp_packI ..)).trans ?_
  simp [decodeRegimm]

theorem Laws.RoundTrip.bgezl (rs : RegNum) (offset : BitVec 16) : Statement (.bgezl rs offset) := fun isa _ => by
  refine (decode_regimm isa (fOp_packI ..)).trans ?_
  simp [decodeRegimm]

theorem Laws.RoundTrip.bltzal (rs : RegNum) (offset : BitVec 16) : Statement (.bltzal rs offset) := fun isa _ => by
  refine (decode_regimm isa (fOp_packI ..)).trans ?_
  simp [decodeRegimm]

theorem Laws.RoundTrip.bgezal (rs : RegNum) (offset : BitVec 16) : Statement (.bgezal rs offset) := fun isa _ => by
  refine (decode_regimm isa (fOp_packI ..)).trans ?_
  simp [decodeRegimm]

theorem Laws.RoundTrip.bltzall (rs : RegNum) (offset : BitVec 16) : Statement (.bltzall rs offset) := fun isa _ => by
  refine (decode_regimm isa (fOp_packI ..)).trans ?_
  simp [decodeRegimm]

theorem Laws.RoundTrip.bgezall (rs : RegNum) (offset : BitVec 16) : Statement (.bgezall rs offset) := fun isa _ => by
  refine (decode_regimm isa (fOp_packI ..)).trans ?_
  simp [decodeRegimm]

theorem Laws.RoundTrip.bc0f (offset : BitVec 16) : Statement (.bc0f offset) := fun isa _ => by
  refine (decode_cop0 isa (fOp_packBc ..)).trans ((decodeCop0_bc (fRs_packBc ..)).trans ?_)
  simp [decodeBc0]

theorem Laws.RoundTrip.bc0t (offset : BitVec 16) : Statement (.bc0t offset) := fun isa _ => by
  refine (decode_cop0 isa (fOp_packBc ..)).trans ((decodeCop0_bc (fRs_packBc ..)).trans ?_)
  simp [decodeBc0]

theorem Laws.RoundTrip.bc0fl (offset : BitVec 16) : Statement (.bc0fl offset) := fun isa _ => by
  refine (decode_cop0 isa (fOp_packBc ..)).trans ((decodeCop0_bc (fRs_packBc ..)).trans ?_)
  simp [decodeBc0]

theorem Laws.RoundTrip.bc0tl (offset : BitVec 16) : Statement (.bc0tl offset) := fun isa _ => by
  refine (decode_cop0 isa (fOp_packBc ..)).trans ((decodeCop0_bc (fRs_packBc ..)).trans ?_)
  simp [decodeBc0]

theorem Laws.RoundTrip.bc2f (offset : BitVec 16) : Statement (.bc2f offset) := fun isa _ => by
  refine (decode_cop2 isa (fOp_packBc ..)).trans ((decodeCop2_bc (fRs_packBc ..)).trans ?_)
  simp [decodeBc2]

theorem Laws.RoundTrip.bc2t (offset : BitVec 16) : Statement (.bc2t offset) := fun isa _ => by
  refine (decode_cop2 isa (fOp_packBc ..)).trans ((decodeCop2_bc (fRs_packBc ..)).trans ?_)
  simp [decodeBc2]

theorem Laws.RoundTrip.bc2fl (offset : BitVec 16) : Statement (.bc2fl offset) := fun isa _ => by
  refine (decode_cop2 isa (fOp_packBc ..)).trans ((decodeCop2_bc (fRs_packBc ..)).trans ?_)
  simp [decodeBc2]

theorem Laws.RoundTrip.bc2tl (offset : BitVec 16) : Statement (.bc2tl offset) := fun isa _ => by
  refine (decode_cop2 isa (fOp_packBc ..)).trans ((decodeCop2_bc (fRs_packBc ..)).trans ?_)
  simp [decodeBc2]

theorem Laws.RoundTrip.bc3f (offset : BitVec 16) : Statement (.bc3f offset) := fun isa h => by
  refine (decode_cop3 (low_of_wellFormed h) (fOp_packBc ..)).trans ((decodeCop3_bc (fRs_packBc ..)).trans ?_)
  simp [decodeBc3]

theorem Laws.RoundTrip.bc3t (offset : BitVec 16) : Statement (.bc3t offset) := fun isa h => by
  refine (decode_cop3 (low_of_wellFormed h) (fOp_packBc ..)).trans ((decodeCop3_bc (fRs_packBc ..)).trans ?_)
  simp [decodeBc3]

theorem Laws.RoundTrip.bc3fl (offset : BitVec 16) : Statement (.bc3fl offset) := fun isa h => by
  refine (decode_cop3 (low_of_wellFormed h) (fOp_packBc ..)).trans ((decodeCop3_bc (fRs_packBc ..)).trans ?_)
  simp [decodeBc3]

theorem Laws.RoundTrip.bc3tl (offset : BitVec 16) : Statement (.bc3tl offset) := fun isa h => by
  refine (decode_cop3 (low_of_wellFormed h) (fOp_packBc ..)).trans ((decodeCop3_bc (fRs_packBc ..)).trans ?_)
  simp [decodeBc3]

theorem Laws.RoundTrip.lb (base : RegNum) (rt : RegNum) (offset : BitVec 16) : Statement (.lb base rt offset) := fun isa _ => by
  unfold decode; rw [show fOp (encode (.lb base rt offset)) = 0x20#6 from fOp_packI ..]
  exact congrArg Decoded.ok (by simp [encode])

theorem Laws.RoundTrip.lbu (base : RegNum) (rt : RegNum) (offset : BitVec 16) : Statement (.lbu base rt offset) := fun isa _ => by
  unfold decode; rw [show fOp (encode (.lbu base rt offset)) = 0x24#6 from fOp_packI ..]
  exact congrArg Decoded.ok (by simp [encode])

theorem Laws.RoundTrip.lh (base : RegNum) (rt : RegNum) (offset : BitVec 16) : Statement (.lh base rt offset) := fun isa _ => by
  unfold decode; rw [show fOp (encode (.lh base rt offset)) = 0x21#6 from fOp_packI ..]
  exact congrArg Decoded.ok (by simp [encode])

theorem Laws.RoundTrip.lhu (base : RegNum) (rt : RegNum) (offset : BitVec 16) : Statement (.lhu base rt offset) := fun isa _ => by
  unfold decode; rw [show fOp (encode (.lhu base rt offset)) = 0x25#6 from fOp_packI ..]
  exact congrArg Decoded.ok (by simp [encode])

theorem Laws.RoundTrip.lw (base : RegNum) (rt : RegNum) (offset : BitVec 16) : Statement (.lw base rt offset) := fun isa _ => by
  unfold decode; rw [show fOp (encode (.lw base rt offset)) = 0x23#6 from fOp_packI ..]
  exact congrArg Decoded.ok (by simp [encode])

theorem Laws.RoundTrip.lwu (base : RegNum) (rt : RegNum) (offset : BitVec 16) : Statement (.lwu base rt offset) := fun isa _ => by
  unfold decode; rw [show fOp (encode (.lwu base rt offset)) = 0x27#6 from fOp_packI ..]
  exact congrArg Decoded.ok (by simp [encode])

theorem Laws.RoundTrip.ld (base : RegNum) (rt : RegNum) (offset : BitVec 16) : Statement (.ld base rt offset) := fun isa _ => by
  unfold decode; rw [show fOp (encode (.ld base rt offset)) = 0x37#6 from fOp_packI ..]
  exact congrArg Decoded.ok (by simp [encode])

theorem Laws.RoundTrip.sb (base : RegNum) (rt : RegNum) (offset : BitVec 16) : Statement (.sb base rt offset) := fun isa _ => by
  unfold decode; rw [show fOp (encode (.sb base rt offset)) = 0x28#6 from fOp_packI ..]
  exact congrArg Decoded.ok (by simp [encode])

theorem Laws.RoundTrip.sh (base : RegNum) (rt : RegNum) (offset : BitVec 16) : Statement (.sh base rt offset) := fun isa _ => by
  unfold decode; rw [show fOp (encode (.sh base rt offset)) = 0x29#6 from fOp_packI ..]
  exact congrArg Decoded.ok (by simp [encode])

theorem Laws.RoundTrip.sw (base : RegNum) (rt : RegNum) (offset : BitVec 16) : Statement (.sw base rt offset) := fun isa _ => by
  unfold decode; rw [show fOp (encode (.sw base rt offset)) = 0x2b#6 from fOp_packI ..]
  exact congrArg Decoded.ok (by simp [encode])

theorem Laws.RoundTrip.sd (base : RegNum) (rt : RegNum) (offset : BitVec 16) : Statement (.sd base rt offset) := fun isa _ => by
  unfold decode; rw [show fOp (encode (.sd base rt offset)) = 0x3f#6 from fOp_packI ..]
  exact congrArg Decoded.ok (by simp [encode])

theorem Laws.RoundTrip.lwl (base : RegNum) (rt : RegNum) (offset : BitVec 16) : Statement (.lwl base rt offset) := fun isa _ => by
  unfold decode; rw [show fOp (encode (.lwl base rt offset)) = 0x22#6 from fOp_packI ..]
  exact congrArg Decoded.ok (by simp [encode])

theorem Laws.RoundTrip.lwr (base : RegNum) (rt : RegNum) (offset : BitVec 16) : Statement (.lwr base rt offset) := fun isa _ => by
  unfold decode; rw [show fOp (encode (.lwr base rt offset)) = 0x26#6 from fOp_packI ..]
  exact congrArg Decoded.ok (by simp [encode])

theorem Laws.RoundTrip.swl (base : RegNum) (rt : RegNum) (offset : BitVec 16) : Statement (.swl base rt offset) := fun isa _ => by
  unfold decode; rw [show fOp (encode (.swl base rt offset)) = 0x2a#6 from fOp_packI ..]
  exact congrArg Decoded.ok (by simp [encode])

theorem Laws.RoundTrip.swr (base : RegNum) (rt : RegNum) (offset : BitVec 16) : Statement (.swr base rt offset) := fun isa _ => by
  unfold decode; rw [show fOp (encode (.swr base rt offset)) = 0x2e#6 from fOp_packI ..]
  exact congrArg Decoded.ok (by simp [encode])

theorem Laws.RoundTrip.ldl (base : RegNum) (rt : RegNum) (offset : BitVec 16) : Statement (.ldl base rt offset) := fun isa _ => by
  unfold decode; rw [show fOp (encode (.ldl base rt offset)) = 0x1a#6 from fOp_packI ..]
  exact congrArg Decoded.ok (by simp [encode])

theorem Laws.RoundTrip.ldr (base : RegNum) (rt : RegNum) (offset : BitVec 16) : Statement (.ldr base rt offset) := fun isa _ => by
  unfold decode; rw [show fOp (encode (.ldr base rt offset)) = 0x1b#6 from fOp_packI ..]
  exact congrArg Decoded.ok (by simp [encode])

theorem Laws.RoundTrip.sdl (base : RegNum) (rt : RegNum) (offset : BitVec 16) : Statement (.sdl base rt offset) := fun isa _ => by
  unfold decode; rw [show fOp (encode (.sdl base rt offset)) = 0x2c#6 from fOp_packI ..]
  exact congrArg Decoded.ok (by simp [encode])

theorem Laws.RoundTrip.sdr (base : RegNum) (rt : RegNum) (offset : BitVec 16) : Statement (.sdr base rt offset) := fun isa _ => by
  unfold decode; rw [show fOp (encode (.sdr base rt offset)) = 0x2d#6 from fOp_packI ..]
  exact congrArg Decoded.ok (by simp [encode])

theorem Laws.RoundTrip.ll (base : RegNum) (rt : RegNum) (offset : BitVec 16) : Statement (.ll base rt offset) := fun isa _ => by
  unfold decode; rw [show fOp (encode (.ll base rt offset)) = 0x30#6 from fOp_packI ..]
  exact congrArg Decoded.ok (by simp [encode])

theorem Laws.RoundTrip.sc (base : RegNum) (rt : RegNum) (offset : BitVec 16) : Statement (.sc base rt offset) := fun isa _ => by
  unfold decode; rw [show fOp (encode (.sc base rt offset)) = 0x38#6 from fOp_packI ..]
  exact congrArg Decoded.ok (by simp [encode])

theorem Laws.RoundTrip.lld (base : RegNum) (rt : RegNum) (offset : BitVec 16) : Statement (.lld base rt offset) := fun isa _ => by
  unfold decode; rw [show fOp (encode (.lld base rt offset)) = 0x34#6 from fOp_packI ..]
  exact congrArg Decoded.ok (by simp [encode])

theorem Laws.RoundTrip.scd (base : RegNum) (rt : RegNum) (offset : BitVec 16) : Statement (.scd base rt offset) := fun isa _ => by
  unfold decode; rw [show fOp (encode (.scd base rt offset)) = 0x3c#6 from fOp_packI ..]
  exact congrArg Decoded.ok (by simp [encode])

theorem Laws.RoundTrip.lwc2 (base : RegNum) (rt : RegNum) (offset : BitVec 16) : Statement (.lwc2 base rt offset) := fun isa _ => by
  unfold decode; rw [show fOp (encode (.lwc2 base rt offset)) = 0x32#6 from fOp_packI ..]
  exact congrArg Decoded.ok (by simp [encode])

theorem Laws.RoundTrip.lwc3 (base : RegNum) (rt : RegNum) (offset : BitVec 16) : Statement (.lwc3 base rt offset) := fun isa h => by
  rcases low_of_wellFormed h with rfl | rfl <;> simp [decode, encode]

theorem Laws.RoundTrip.swc2 (base : RegNum) (rt : RegNum) (offset : BitVec 16) : Statement (.swc2 base rt offset) := fun isa _ => by
  unfold decode; rw [show fOp (encode (.swc2 base rt offset)) = 0x3a#6 from fOp_packI ..]
  exact congrArg Decoded.ok (by simp [encode])

theorem Laws.RoundTrip.swc3 (base : RegNum) (rt : RegNum) (offset : BitVec 16) : Statement (.swc3 base rt offset) := fun isa _ => by
  unfold decode; rw [show fOp (encode (.swc3 base rt offset)) = 0x3b#6 from fOp_packI ..]
  exact congrArg Decoded.ok (by simp [encode])

theorem Laws.RoundTrip.ldc2 (base : RegNum) (rt : RegNum) (offset : BitVec 16) : Statement (.ldc2 base rt offset) := fun isa _ => by
  unfold decode; rw [show fOp (encode (.ldc2 base rt offset)) = 0x36#6 from fOp_packI ..]
  exact congrArg Decoded.ok (by simp [encode])

theorem Laws.RoundTrip.sdc2 (base : RegNum) (rt : RegNum) (offset : BitVec 16) : Statement (.sdc2 base rt offset) := fun isa _ => by
  unfold decode; rw [show fOp (encode (.sdc2 base rt offset)) = 0x3e#6 from fOp_packI ..]
  exact congrArg Decoded.ok (by simp [encode])

theorem Laws.RoundTrip.pref (base : RegNum) (hint : BitVec 5) (offset : BitVec 16) : Statement (.pref base hint offset) := fun isa h => by
  rw [mips4_of_wellFormed h]; simp [decode, encode]

theorem Laws.RoundTrip.syscall (code : BitVec 20) : Statement (.syscall code) := fun isa _ => by
  refine (decode_special isa (fOp_packCode ..)).trans ?_
  unfold decodeSpecial; rw [fFn_packCode]
  exact congrArg Decoded.ok (by simp)

theorem Laws.RoundTrip.brk (code : BitVec 20) : Statement (.brk code) := fun isa _ => by
  refine (decode_special isa (fOp_packCode ..)).trans ?_
  unfold decodeSpecial; rw [fFn_packCode]
  exact congrArg Decoded.ok (by simp)

theorem Laws.RoundTrip.sync (stype : BitVec 5) : Statement (.sync stype) := fun isa _ => by
  refine (decode_special isa (fOp_packR ..)).trans ?_
  unfold decodeSpecial; rw [fFn_packR]
  exact congrArg Decoded.ok (by simp)

theorem Laws.RoundTrip.mfc0 (rt : RegNum) (rd : RegNum) : Statement (.mfc0 rt rd) := fun isa _ => by
  refine (decode_cop0 isa (fOp_packR ..)).trans ?_
  simp [decodeCop0]

theorem Laws.RoundTrip.mtc0 (rt : RegNum) (rd : RegNum) : Statement (.mtc0 rt rd) := fun isa _ => by
  refine (decode_cop0 isa (fOp_packR ..)).trans ?_
  simp [decodeCop0, msb_low]

theorem Laws.RoundTrip.dmfc0 (rt : RegNum) (rd : RegNum) : Statement (.dmfc0 rt rd) := fun isa _ => by
  refine (decode_cop0 isa (fOp_packR ..)).trans ?_
  simp [decodeCop0]

theorem Laws.RoundTrip.dmtc0 (rt : RegNum) (rd : RegNum) : Statement (.dmtc0 rt rd) := fun isa _ => by
  refine (decode_cop0 isa (fOp_packR ..)).trans ?_
  simp [decodeCop0, msb_low]

theorem Laws.RoundTrip.mfc2 (rt : RegNum) (rd : RegNum) : Statement (.mfc2 rt rd) := fun isa _ => by
  refine (decode_cop2 isa (fOp_packR ..)).trans ?_
  simp [decodeCop2]

theorem Laws.RoundTrip.mtc2 (rt : RegNum) (rd : RegNum) : Statement (.mtc2 rt rd) := fun isa _ => by
  refine (decode_cop2 isa (fOp_packR ..)).trans ?_
  simp [decodeCop2, msb_low]

theorem Laws.RoundTrip.cfc2 (rt : RegNum) (rd : RegNum) : Statement (.cfc2 rt rd) := fun isa _ => by
  refine (decode_cop2 isa (fOp_packR ..)).trans ?_
  simp [decodeCop2, msb_low]

theorem Laws.RoundTrip.ctc2 (rt : RegNum) (rd : RegNum) : Statement (.ctc2 rt rd) := fun isa _ => by
  refine (decode_cop2 isa (fOp_packR ..)).trans ?_
  simp [decodeCop2, msb_low]

theorem Laws.RoundTrip.cop2 (fn : BitVec 25) : Statement (.cop2 fn) := fun isa _ => by
  refine (decode_cop2 isa (fOp_packCo ..)).trans ?_
  simp [decodeCop2]

theorem Laws.RoundTrip.mfc3 (rt : RegNum) (rd : RegNum) : Statement (.mfc3 rt rd) := fun isa h => by
  refine (decode_cop3 (low_of_wellFormed h) (fOp_packR ..)).trans ?_
  simp [decodeCop3]

theorem Laws.RoundTrip.mtc3 (rt : RegNum) (rd : RegNum) : Statement (.mtc3 rt rd) := fun isa h => by
  refine (decode_cop3 (low_of_wellFormed h) (fOp_packR ..)).trans ?_
  simp [decodeCop3, msb_low]

theorem Laws.RoundTrip.cfc3 (rt : RegNum) (rd : RegNum) : Statement (.cfc3 rt rd) := fun isa h => by
  refine (decode_cop3 (low_of_wellFormed h) (fOp_packR ..)).trans ?_
  simp [decodeCop3, msb_low]

theorem Laws.RoundTrip.ctc3 (rt : RegNum) (rd : RegNum) : Statement (.ctc3 rt rd) := fun isa h => by
  refine (decode_cop3 (low_of_wellFormed h) (fOp_packR ..)).trans ?_
  simp [decodeCop3, msb_low]

theorem Laws.RoundTrip.cop3 (fn : BitVec 25) : Statement (.cop3 fn) := fun isa h => by
  refine (decode_cop3 (low_of_wellFormed h) (fOp_packCo ..)).trans ?_
  simp [decodeCop3]

theorem Laws.RoundTrip.cache (base : RegNum) (op : BitVec 5) (offset : BitVec 16) : Statement (.cache base op offset) := fun isa _ => by
  unfold decode; rw [show fOp (encode (.cache base op offset)) = 0x2f#6 from fOp_packI ..]
  exact congrArg Decoded.ok (by simp [encode])

theorem Laws.RoundTrip.tlbr : Statement .tlbr := fun isa _ => by
  refine (decode_cop0 isa (fOp_packCo ..)).trans ((decodeCop0_op (fRs_packCo_msb ..)).trans ?_)
  simp [decodeCop0Op, fFn_packCo]

theorem Laws.RoundTrip.tlbwi : Statement .tlbwi := fun isa _ => by
  refine (decode_cop0 isa (fOp_packCo ..)).trans ((decodeCop0_op (fRs_packCo_msb ..)).trans ?_)
  simp [decodeCop0Op, fFn_packCo]

theorem Laws.RoundTrip.tlbwr : Statement .tlbwr := fun isa _ => by
  refine (decode_cop0 isa (fOp_packCo ..)).trans ((decodeCop0_op (fRs_packCo_msb ..)).trans ?_)
  simp [decodeCop0Op, fFn_packCo]

theorem Laws.RoundTrip.tlbp : Statement .tlbp := fun isa _ => by
  refine (decode_cop0 isa (fOp_packCo ..)).trans ((decodeCop0_op (fRs_packCo_msb ..)).trans ?_)
  simp [decodeCop0Op, fFn_packCo]

theorem Laws.RoundTrip.rfe : Statement .rfe := fun isa _ => by
  refine (decode_cop0 isa (fOp_packCo ..)).trans ((decodeCop0_op (fRs_packCo_msb ..)).trans ?_)
  simp [decodeCop0Op, fFn_packCo]

theorem Laws.RoundTrip.eret : Statement .eret := fun isa _ => by
  refine (decode_cop0 isa (fOp_packCo ..)).trans ((decodeCop0_op (fRs_packCo_msb ..)).trans ?_)
  simp [decodeCop0Op, fFn_packCo]

theorem Laws.RoundTrip.wait : Statement .wait := fun isa _ => by
  refine (decode_cop0 isa (fOp_packCo ..)).trans ((decodeCop0_op (fRs_packCo_msb ..)).trans ?_)
  simp [decodeCop0Op, fFn_packCo]

theorem Laws.RoundTrip.tge (rs : RegNum) (rt : RegNum) (code : BitVec 10) : Statement (.tge rs rt code) := fun isa _ => by
  refine (decode_special isa (fOp_packTrap ..)).trans ?_
  unfold decodeSpecial; rw [fFn_packTrap]
  exact congrArg Decoded.ok (by simp)

theorem Laws.RoundTrip.tgeu (rs : RegNum) (rt : RegNum) (code : BitVec 10) : Statement (.tgeu rs rt code) := fun isa _ => by
  refine (decode_special isa (fOp_packTrap ..)).trans ?_
  unfold decodeSpecial; rw [fFn_packTrap]
  exact congrArg Decoded.ok (by simp)

theorem Laws.RoundTrip.tlt (rs : RegNum) (rt : RegNum) (code : BitVec 10) : Statement (.tlt rs rt code) := fun isa _ => by
  refine (decode_special isa (fOp_packTrap ..)).trans ?_
  unfold decodeSpecial; rw [fFn_packTrap]
  exact congrArg Decoded.ok (by simp)

theorem Laws.RoundTrip.tltu (rs : RegNum) (rt : RegNum) (code : BitVec 10) : Statement (.tltu rs rt code) := fun isa _ => by
  refine (decode_special isa (fOp_packTrap ..)).trans ?_
  unfold decodeSpecial; rw [fFn_packTrap]
  exact congrArg Decoded.ok (by simp)

theorem Laws.RoundTrip.teq (rs : RegNum) (rt : RegNum) (code : BitVec 10) : Statement (.teq rs rt code) := fun isa _ => by
  refine (decode_special isa (fOp_packTrap ..)).trans ?_
  unfold decodeSpecial; rw [fFn_packTrap]
  exact congrArg Decoded.ok (by simp)

theorem Laws.RoundTrip.tne (rs : RegNum) (rt : RegNum) (code : BitVec 10) : Statement (.tne rs rt code) := fun isa _ => by
  refine (decode_special isa (fOp_packTrap ..)).trans ?_
  unfold decodeSpecial; rw [fFn_packTrap]
  exact congrArg Decoded.ok (by simp)

theorem Laws.RoundTrip.tgei (rs : RegNum) (imm : BitVec 16) : Statement (.tgei rs imm) := fun isa _ => by
  refine (decode_regimm isa (fOp_packI ..)).trans ?_
  simp [decodeRegimm]

theorem Laws.RoundTrip.tgeiu (rs : RegNum) (imm : BitVec 16) : Statement (.tgeiu rs imm) := fun isa _ => by
  refine (decode_regimm isa (fOp_packI ..)).trans ?_
  simp [decodeRegimm]

theorem Laws.RoundTrip.tlti (rs : RegNum) (imm : BitVec 16) : Statement (.tlti rs imm) := fun isa _ => by
  refine (decode_regimm isa (fOp_packI ..)).trans ?_
  simp [decodeRegimm]

theorem Laws.RoundTrip.tltiu (rs : RegNum) (imm : BitVec 16) : Statement (.tltiu rs imm) := fun isa _ => by
  refine (decode_regimm isa (fOp_packI ..)).trans ?_
  simp [decodeRegimm]

theorem Laws.RoundTrip.teqi (rs : RegNum) (imm : BitVec 16) : Statement (.teqi rs imm) := fun isa _ => by
  refine (decode_regimm isa (fOp_packI ..)).trans ?_
  simp [decodeRegimm]

theorem Laws.RoundTrip.tnei (rs : RegNum) (imm : BitVec 16) : Statement (.tnei rs imm) := fun isa _ => by
  refine (decode_regimm isa (fOp_packI ..)).trans ?_
  simp [decodeRegimm]

theorem Laws.RoundTrip.mfc1 (rt : RegNum) (fs : RegNum) : Statement (.mfc1 rt fs) := fun isa _ => by
  refine (decode_cop1 isa (fOp_packR ..)).trans ?_
  simp [decodeCop1]

theorem Laws.RoundTrip.mtc1 (rt : RegNum) (fs : RegNum) : Statement (.mtc1 rt fs) := fun isa _ => by
  refine (decode_cop1 isa (fOp_packR ..)).trans ?_
  simp [decodeCop1]

theorem Laws.RoundTrip.cfc1 (rt : RegNum) (fs : RegNum) : Statement (.cfc1 rt fs) := fun isa _ => by
  refine (decode_cop1 isa (fOp_packR ..)).trans ?_
  simp [decodeCop1]

theorem Laws.RoundTrip.ctc1 (rt : RegNum) (fs : RegNum) : Statement (.ctc1 rt fs) := fun isa _ => by
  refine (decode_cop1 isa (fOp_packR ..)).trans ?_
  simp [decodeCop1]

theorem Laws.RoundTrip.dmfc1 (rt : RegNum) (fs : RegNum) : Statement (.dmfc1 rt fs) := fun isa _ => by
  refine (decode_cop1 isa (fOp_packR ..)).trans ?_
  simp [decodeCop1]

theorem Laws.RoundTrip.dmtc1 (rt : RegNum) (fs : RegNum) : Statement (.dmtc1 rt fs) := fun isa _ => by
  refine (decode_cop1 isa (fOp_packR ..)).trans ?_
  simp [decodeCop1]

theorem Laws.RoundTrip.lwc1 (base : RegNum) (ft : RegNum) (offset : BitVec 16) : Statement (.lwc1 base ft offset) := fun isa _ => by
  unfold decode; rw [show fOp (encode (.lwc1 base ft offset)) = 0x31#6 from fOp_packI ..]
  exact congrArg Decoded.ok (by simp [encode])

theorem Laws.RoundTrip.ldc1 (base : RegNum) (ft : RegNum) (offset : BitVec 16) : Statement (.ldc1 base ft offset) := fun isa _ => by
  unfold decode; rw [show fOp (encode (.ldc1 base ft offset)) = 0x35#6 from fOp_packI ..]
  exact congrArg Decoded.ok (by simp [encode])

theorem Laws.RoundTrip.swc1 (base : RegNum) (ft : RegNum) (offset : BitVec 16) : Statement (.swc1 base ft offset) := fun isa _ => by
  unfold decode; rw [show fOp (encode (.swc1 base ft offset)) = 0x39#6 from fOp_packI ..]
  exact congrArg Decoded.ok (by simp [encode])

theorem Laws.RoundTrip.sdc1 (base : RegNum) (ft : RegNum) (offset : BitVec 16) : Statement (.sdc1 base ft offset) := fun isa _ => by
  unfold decode; rw [show fOp (encode (.sdc1 base ft offset)) = 0x3d#6 from fOp_packI ..]
  exact congrArg Decoded.ok (by simp [encode])

theorem Laws.RoundTrip.lwxc1 (base : RegNum) (index : RegNum) (fd : RegNum) : Statement (.lwxc1 base index fd) := fun isa h => by
  refine (decode_cop1x (mips4_of_wellFormed h) (fOp_packR ..)).trans ?_
  simp [decodeCop1x]

theorem Laws.RoundTrip.ldxc1 (base : RegNum) (index : RegNum) (fd : RegNum) : Statement (.ldxc1 base index fd) := fun isa h => by
  refine (decode_cop1x (mips4_of_wellFormed h) (fOp_packR ..)).trans ?_
  simp [decodeCop1x]

theorem Laws.RoundTrip.swxc1 (base : RegNum) (index : RegNum) (fs : RegNum) : Statement (.swxc1 base index fs) := fun isa h => by
  refine (decode_cop1x (mips4_of_wellFormed h) (fOp_packR ..)).trans ?_
  simp [decodeCop1x]

theorem Laws.RoundTrip.sdxc1 (base : RegNum) (index : RegNum) (fs : RegNum) : Statement (.sdxc1 base index fs) := fun isa h => by
  refine (decode_cop1x (mips4_of_wellFormed h) (fOp_packR ..)).trans ?_
  simp [decodeCop1x]

theorem Laws.RoundTrip.prefx (base : RegNum) (index : RegNum) (hint : BitVec 5) : Statement (.prefx base index hint) := fun isa h => by
  refine (decode_cop1x (mips4_of_wellFormed h) (fOp_packR ..)).trans ?_
  simp [decodeCop1x]

theorem Laws.RoundTrip.bc1f (cc : BitVec 3) (offset : BitVec 16) : Statement (.bc1f cc offset) := fun isa _ => by
  refine (decode_cop1 isa (fOp_packBc ..)).trans ((decodeCop1_bc (fRs_packBc ..)).trans ?_)
  simp [decodeBc1]

theorem Laws.RoundTrip.bc1fl (cc : BitVec 3) (offset : BitVec 16) : Statement (.bc1fl cc offset) := fun isa _ => by
  refine (decode_cop1 isa (fOp_packBc ..)).trans ((decodeCop1_bc (fRs_packBc ..)).trans ?_)
  simp [decodeBc1]

theorem Laws.RoundTrip.bc1t (cc : BitVec 3) (offset : BitVec 16) : Statement (.bc1t cc offset) := fun isa _ => by
  refine (decode_cop1 isa (fOp_packBc ..)).trans ((decodeCop1_bc (fRs_packBc ..)).trans ?_)
  simp [decodeBc1]

theorem Laws.RoundTrip.bc1tl (cc : BitVec 3) (offset : BitVec 16) : Statement (.bc1tl cc offset) := fun isa _ => by
  refine (decode_cop1 isa (fOp_packBc ..)).trans ((decodeCop1_bc (fRs_packBc ..)).trans ?_)
  simp [decodeBc1]

theorem Laws.RoundTrip.addS (ft : RegNum) (fs : RegNum) (fd : RegNum) : Statement (.addS ft fs fd) := fun isa _ => by
  refine (decode_cop1 isa (fOp_packR ..)).trans ((decodeCop1_s (fRs_packR ..)).trans ?_)
  unfold decodeFpS; rw [fFn_packR]
  exact congrArg Decoded.ok (by simp)

theorem Laws.RoundTrip.subS (ft : RegNum) (fs : RegNum) (fd : RegNum) : Statement (.subS ft fs fd) := fun isa _ => by
  refine (decode_cop1 isa (fOp_packR ..)).trans ((decodeCop1_s (fRs_packR ..)).trans ?_)
  unfold decodeFpS; rw [fFn_packR]
  exact congrArg Decoded.ok (by simp)

theorem Laws.RoundTrip.mulS (ft : RegNum) (fs : RegNum) (fd : RegNum) : Statement (.mulS ft fs fd) := fun isa _ => by
  refine (decode_cop1 isa (fOp_packR ..)).trans ((decodeCop1_s (fRs_packR ..)).trans ?_)
  unfold decodeFpS; rw [fFn_packR]
  exact congrArg Decoded.ok (by simp)

theorem Laws.RoundTrip.divS (ft : RegNum) (fs : RegNum) (fd : RegNum) : Statement (.divS ft fs fd) := fun isa _ => by
  refine (decode_cop1 isa (fOp_packR ..)).trans ((decodeCop1_s (fRs_packR ..)).trans ?_)
  unfold decodeFpS; rw [fFn_packR]
  exact congrArg Decoded.ok (by simp)

theorem Laws.RoundTrip.sqrtS (fs : RegNum) (fd : RegNum) : Statement (.sqrtS fs fd) := fun isa _ => by
  refine (decode_cop1 isa (fOp_packR ..)).trans ((decodeCop1_s (fRs_packR ..)).trans ?_)
  unfold decodeFpS; rw [fFn_packR]
  exact congrArg Decoded.ok (by simp)

theorem Laws.RoundTrip.absS (fs : RegNum) (fd : RegNum) : Statement (.absS fs fd) := fun isa _ => by
  refine (decode_cop1 isa (fOp_packR ..)).trans ((decodeCop1_s (fRs_packR ..)).trans ?_)
  unfold decodeFpS; rw [fFn_packR]
  exact congrArg Decoded.ok (by simp)

theorem Laws.RoundTrip.movS (fs : RegNum) (fd : RegNum) : Statement (.movS fs fd) := fun isa _ => by
  refine (decode_cop1 isa (fOp_packR ..)).trans ((decodeCop1_s (fRs_packR ..)).trans ?_)
  unfold decodeFpS; rw [fFn_packR]
  exact congrArg Decoded.ok (by simp)

theorem Laws.RoundTrip.negS (fs : RegNum) (fd : RegNum) : Statement (.negS fs fd) := fun isa _ => by
  refine (decode_cop1 isa (fOp_packR ..)).trans ((decodeCop1_s (fRs_packR ..)).trans ?_)
  unfold decodeFpS; rw [fFn_packR]
  exact congrArg Decoded.ok (by simp)

theorem Laws.RoundTrip.recipS (fs : RegNum) (fd : RegNum) : Statement (.recipS fs fd) := fun isa _ => by
  refine (decode_cop1 isa (fOp_packR ..)).trans ((decodeCop1_s (fRs_packR ..)).trans ?_)
  unfold decodeFpS; rw [fFn_packR]
  exact congrArg Decoded.ok (by simp)

theorem Laws.RoundTrip.rsqrtS (fs : RegNum) (fd : RegNum) : Statement (.rsqrtS fs fd) := fun isa _ => by
  refine (decode_cop1 isa (fOp_packR ..)).trans ((decodeCop1_s (fRs_packR ..)).trans ?_)
  unfold decodeFpS; rw [fFn_packR]
  exact congrArg Decoded.ok (by simp)

theorem Laws.RoundTrip.roundLS (fs : RegNum) (fd : RegNum) : Statement (.roundLS fs fd) := fun isa _ => by
  refine (decode_cop1 isa (fOp_packR ..)).trans ((decodeCop1_s (fRs_packR ..)).trans ?_)
  unfold decodeFpS; rw [fFn_packR]
  exact congrArg Decoded.ok (by simp)

theorem Laws.RoundTrip.truncLS (fs : RegNum) (fd : RegNum) : Statement (.truncLS fs fd) := fun isa _ => by
  refine (decode_cop1 isa (fOp_packR ..)).trans ((decodeCop1_s (fRs_packR ..)).trans ?_)
  unfold decodeFpS; rw [fFn_packR]
  exact congrArg Decoded.ok (by simp)

theorem Laws.RoundTrip.ceilLS (fs : RegNum) (fd : RegNum) : Statement (.ceilLS fs fd) := fun isa _ => by
  refine (decode_cop1 isa (fOp_packR ..)).trans ((decodeCop1_s (fRs_packR ..)).trans ?_)
  unfold decodeFpS; rw [fFn_packR]
  exact congrArg Decoded.ok (by simp)

theorem Laws.RoundTrip.floorLS (fs : RegNum) (fd : RegNum) : Statement (.floorLS fs fd) := fun isa _ => by
  refine (decode_cop1 isa (fOp_packR ..)).trans ((decodeCop1_s (fRs_packR ..)).trans ?_)
  unfold decodeFpS; rw [fFn_packR]
  exact congrArg Decoded.ok (by simp)

theorem Laws.RoundTrip.roundWS (fs : RegNum) (fd : RegNum) : Statement (.roundWS fs fd) := fun isa _ => by
  refine (decode_cop1 isa (fOp_packR ..)).trans ((decodeCop1_s (fRs_packR ..)).trans ?_)
  unfold decodeFpS; rw [fFn_packR]
  exact congrArg Decoded.ok (by simp)

theorem Laws.RoundTrip.truncWS (fs : RegNum) (fd : RegNum) : Statement (.truncWS fs fd) := fun isa _ => by
  refine (decode_cop1 isa (fOp_packR ..)).trans ((decodeCop1_s (fRs_packR ..)).trans ?_)
  unfold decodeFpS; rw [fFn_packR]
  exact congrArg Decoded.ok (by simp)

theorem Laws.RoundTrip.ceilWS (fs : RegNum) (fd : RegNum) : Statement (.ceilWS fs fd) := fun isa _ => by
  refine (decode_cop1 isa (fOp_packR ..)).trans ((decodeCop1_s (fRs_packR ..)).trans ?_)
  unfold decodeFpS; rw [fFn_packR]
  exact congrArg Decoded.ok (by simp)

theorem Laws.RoundTrip.floorWS (fs : RegNum) (fd : RegNum) : Statement (.floorWS fs fd) := fun isa _ => by
  refine (decode_cop1 isa (fOp_packR ..)).trans ((decodeCop1_s (fRs_packR ..)).trans ?_)
  unfold decodeFpS; rw [fFn_packR]
  exact congrArg Decoded.ok (by simp)

theorem Laws.RoundTrip.cvtWS (fs : RegNum) (fd : RegNum) : Statement (.cvtWS fs fd) := fun isa _ => by
  refine (decode_cop1 isa (fOp_packR ..)).trans ((decodeCop1_s (fRs_packR ..)).trans ?_)
  unfold decodeFpS; rw [fFn_packR]
  exact congrArg Decoded.ok (by simp)

theorem Laws.RoundTrip.cvtLS (fs : RegNum) (fd : RegNum) : Statement (.cvtLS fs fd) := fun isa _ => by
  refine (decode_cop1 isa (fOp_packR ..)).trans ((decodeCop1_s (fRs_packR ..)).trans ?_)
  unfold decodeFpS; rw [fFn_packR]
  exact congrArg Decoded.ok (by simp)

theorem Laws.RoundTrip.movfS (cc : BitVec 3) (fs : RegNum) (fd : RegNum) : Statement (.movfS cc fs fd) := fun isa _ => by
  refine (decode_cop1 isa (fOp_packMovc ..)).trans ((decodeCop1_s (fRs_packMovc ..)).trans ?_)
  simp [decodeFpS]

theorem Laws.RoundTrip.movtS (cc : BitVec 3) (fs : RegNum) (fd : RegNum) : Statement (.movtS cc fs fd) := fun isa _ => by
  refine (decode_cop1 isa (fOp_packMovc ..)).trans ((decodeCop1_s (fRs_packMovc ..)).trans ?_)
  simp [decodeFpS]

theorem Laws.RoundTrip.movzS (rt : RegNum) (fs : RegNum) (fd : RegNum) : Statement (.movzS rt fs fd) := fun isa _ => by
  refine (decode_cop1 isa (fOp_packR ..)).trans ((decodeCop1_s (fRs_packR ..)).trans ?_)
  unfold decodeFpS; rw [fFn_packR]
  exact congrArg Decoded.ok (by simp)

theorem Laws.RoundTrip.movnS (rt : RegNum) (fs : RegNum) (fd : RegNum) : Statement (.movnS rt fs fd) := fun isa _ => by
  refine (decode_cop1 isa (fOp_packR ..)).trans ((decodeCop1_s (fRs_packR ..)).trans ?_)
  unfold decodeFpS; rw [fFn_packR]
  exact congrArg Decoded.ok (by simp)

theorem Laws.RoundTrip.cFS (ft : RegNum) (fs : RegNum) (cc : BitVec 3) : Statement (.cFS ft fs cc) := fun isa _ => by
  refine (decode_cop1 isa (fOp_packCmp ..)).trans ((decodeCop1_s (fRs_packCmp ..)).trans ?_)
  unfold decodeFpS; rw [fFn_packCmp]
  exact congrArg Decoded.ok (by simp)

theorem Laws.RoundTrip.cUnS (ft : RegNum) (fs : RegNum) (cc : BitVec 3) : Statement (.cUnS ft fs cc) := fun isa _ => by
  refine (decode_cop1 isa (fOp_packCmp ..)).trans ((decodeCop1_s (fRs_packCmp ..)).trans ?_)
  unfold decodeFpS; rw [fFn_packCmp]
  exact congrArg Decoded.ok (by simp)

theorem Laws.RoundTrip.cEqS (ft : RegNum) (fs : RegNum) (cc : BitVec 3) : Statement (.cEqS ft fs cc) := fun isa _ => by
  refine (decode_cop1 isa (fOp_packCmp ..)).trans ((decodeCop1_s (fRs_packCmp ..)).trans ?_)
  unfold decodeFpS; rw [fFn_packCmp]
  exact congrArg Decoded.ok (by simp)

theorem Laws.RoundTrip.cUeqS (ft : RegNum) (fs : RegNum) (cc : BitVec 3) : Statement (.cUeqS ft fs cc) := fun isa _ => by
  refine (decode_cop1 isa (fOp_packCmp ..)).trans ((decodeCop1_s (fRs_packCmp ..)).trans ?_)
  unfold decodeFpS; rw [fFn_packCmp]
  exact congrArg Decoded.ok (by simp)

theorem Laws.RoundTrip.cOltS (ft : RegNum) (fs : RegNum) (cc : BitVec 3) : Statement (.cOltS ft fs cc) := fun isa _ => by
  refine (decode_cop1 isa (fOp_packCmp ..)).trans ((decodeCop1_s (fRs_packCmp ..)).trans ?_)
  unfold decodeFpS; rw [fFn_packCmp]
  exact congrArg Decoded.ok (by simp)

theorem Laws.RoundTrip.cUltS (ft : RegNum) (fs : RegNum) (cc : BitVec 3) : Statement (.cUltS ft fs cc) := fun isa _ => by
  refine (decode_cop1 isa (fOp_packCmp ..)).trans ((decodeCop1_s (fRs_packCmp ..)).trans ?_)
  unfold decodeFpS; rw [fFn_packCmp]
  exact congrArg Decoded.ok (by simp)

theorem Laws.RoundTrip.cOleS (ft : RegNum) (fs : RegNum) (cc : BitVec 3) : Statement (.cOleS ft fs cc) := fun isa _ => by
  refine (decode_cop1 isa (fOp_packCmp ..)).trans ((decodeCop1_s (fRs_packCmp ..)).trans ?_)
  unfold decodeFpS; rw [fFn_packCmp]
  exact congrArg Decoded.ok (by simp)

theorem Laws.RoundTrip.cUleS (ft : RegNum) (fs : RegNum) (cc : BitVec 3) : Statement (.cUleS ft fs cc) := fun isa _ => by
  refine (decode_cop1 isa (fOp_packCmp ..)).trans ((decodeCop1_s (fRs_packCmp ..)).trans ?_)
  unfold decodeFpS; rw [fFn_packCmp]
  exact congrArg Decoded.ok (by simp)

theorem Laws.RoundTrip.cSfS (ft : RegNum) (fs : RegNum) (cc : BitVec 3) : Statement (.cSfS ft fs cc) := fun isa _ => by
  refine (decode_cop1 isa (fOp_packCmp ..)).trans ((decodeCop1_s (fRs_packCmp ..)).trans ?_)
  unfold decodeFpS; rw [fFn_packCmp]
  exact congrArg Decoded.ok (by simp)

theorem Laws.RoundTrip.cNgleS (ft : RegNum) (fs : RegNum) (cc : BitVec 3) : Statement (.cNgleS ft fs cc) := fun isa _ => by
  refine (decode_cop1 isa (fOp_packCmp ..)).trans ((decodeCop1_s (fRs_packCmp ..)).trans ?_)
  unfold decodeFpS; rw [fFn_packCmp]
  exact congrArg Decoded.ok (by simp)

theorem Laws.RoundTrip.cSeqS (ft : RegNum) (fs : RegNum) (cc : BitVec 3) : Statement (.cSeqS ft fs cc) := fun isa _ => by
  refine (decode_cop1 isa (fOp_packCmp ..)).trans ((decodeCop1_s (fRs_packCmp ..)).trans ?_)
  unfold decodeFpS; rw [fFn_packCmp]
  exact congrArg Decoded.ok (by simp)

theorem Laws.RoundTrip.cNglS (ft : RegNum) (fs : RegNum) (cc : BitVec 3) : Statement (.cNglS ft fs cc) := fun isa _ => by
  refine (decode_cop1 isa (fOp_packCmp ..)).trans ((decodeCop1_s (fRs_packCmp ..)).trans ?_)
  unfold decodeFpS; rw [fFn_packCmp]
  exact congrArg Decoded.ok (by simp)

theorem Laws.RoundTrip.cLtS (ft : RegNum) (fs : RegNum) (cc : BitVec 3) : Statement (.cLtS ft fs cc) := fun isa _ => by
  refine (decode_cop1 isa (fOp_packCmp ..)).trans ((decodeCop1_s (fRs_packCmp ..)).trans ?_)
  unfold decodeFpS; rw [fFn_packCmp]
  exact congrArg Decoded.ok (by simp)

theorem Laws.RoundTrip.cNgeS (ft : RegNum) (fs : RegNum) (cc : BitVec 3) : Statement (.cNgeS ft fs cc) := fun isa _ => by
  refine (decode_cop1 isa (fOp_packCmp ..)).trans ((decodeCop1_s (fRs_packCmp ..)).trans ?_)
  unfold decodeFpS; rw [fFn_packCmp]
  exact congrArg Decoded.ok (by simp)

theorem Laws.RoundTrip.cLeS (ft : RegNum) (fs : RegNum) (cc : BitVec 3) : Statement (.cLeS ft fs cc) := fun isa _ => by
  refine (decode_cop1 isa (fOp_packCmp ..)).trans ((decodeCop1_s (fRs_packCmp ..)).trans ?_)
  unfold decodeFpS; rw [fFn_packCmp]
  exact congrArg Decoded.ok (by simp)

theorem Laws.RoundTrip.cNgtS (ft : RegNum) (fs : RegNum) (cc : BitVec 3) : Statement (.cNgtS ft fs cc) := fun isa _ => by
  refine (decode_cop1 isa (fOp_packCmp ..)).trans ((decodeCop1_s (fRs_packCmp ..)).trans ?_)
  unfold decodeFpS; rw [fFn_packCmp]
  exact congrArg Decoded.ok (by simp)

theorem Laws.RoundTrip.addD (ft : RegNum) (fs : RegNum) (fd : RegNum) : Statement (.addD ft fs fd) := fun isa _ => by
  refine (decode_cop1 isa (fOp_packR ..)).trans ((decodeCop1_d (fRs_packR ..)).trans ?_)
  unfold decodeFpD; rw [fFn_packR]
  exact congrArg Decoded.ok (by simp)

theorem Laws.RoundTrip.subD (ft : RegNum) (fs : RegNum) (fd : RegNum) : Statement (.subD ft fs fd) := fun isa _ => by
  refine (decode_cop1 isa (fOp_packR ..)).trans ((decodeCop1_d (fRs_packR ..)).trans ?_)
  unfold decodeFpD; rw [fFn_packR]
  exact congrArg Decoded.ok (by simp)

theorem Laws.RoundTrip.mulD (ft : RegNum) (fs : RegNum) (fd : RegNum) : Statement (.mulD ft fs fd) := fun isa _ => by
  refine (decode_cop1 isa (fOp_packR ..)).trans ((decodeCop1_d (fRs_packR ..)).trans ?_)
  unfold decodeFpD; rw [fFn_packR]
  exact congrArg Decoded.ok (by simp)

theorem Laws.RoundTrip.divD (ft : RegNum) (fs : RegNum) (fd : RegNum) : Statement (.divD ft fs fd) := fun isa _ => by
  refine (decode_cop1 isa (fOp_packR ..)).trans ((decodeCop1_d (fRs_packR ..)).trans ?_)
  unfold decodeFpD; rw [fFn_packR]
  exact congrArg Decoded.ok (by simp)

theorem Laws.RoundTrip.sqrtD (fs : RegNum) (fd : RegNum) : Statement (.sqrtD fs fd) := fun isa _ => by
  refine (decode_cop1 isa (fOp_packR ..)).trans ((decodeCop1_d (fRs_packR ..)).trans ?_)
  unfold decodeFpD; rw [fFn_packR]
  exact congrArg Decoded.ok (by simp)

theorem Laws.RoundTrip.absD (fs : RegNum) (fd : RegNum) : Statement (.absD fs fd) := fun isa _ => by
  refine (decode_cop1 isa (fOp_packR ..)).trans ((decodeCop1_d (fRs_packR ..)).trans ?_)
  unfold decodeFpD; rw [fFn_packR]
  exact congrArg Decoded.ok (by simp)

theorem Laws.RoundTrip.movD (fs : RegNum) (fd : RegNum) : Statement (.movD fs fd) := fun isa _ => by
  refine (decode_cop1 isa (fOp_packR ..)).trans ((decodeCop1_d (fRs_packR ..)).trans ?_)
  unfold decodeFpD; rw [fFn_packR]
  exact congrArg Decoded.ok (by simp)

theorem Laws.RoundTrip.negD (fs : RegNum) (fd : RegNum) : Statement (.negD fs fd) := fun isa _ => by
  refine (decode_cop1 isa (fOp_packR ..)).trans ((decodeCop1_d (fRs_packR ..)).trans ?_)
  unfold decodeFpD; rw [fFn_packR]
  exact congrArg Decoded.ok (by simp)

theorem Laws.RoundTrip.recipD (fs : RegNum) (fd : RegNum) : Statement (.recipD fs fd) := fun isa _ => by
  refine (decode_cop1 isa (fOp_packR ..)).trans ((decodeCop1_d (fRs_packR ..)).trans ?_)
  unfold decodeFpD; rw [fFn_packR]
  exact congrArg Decoded.ok (by simp)

theorem Laws.RoundTrip.rsqrtD (fs : RegNum) (fd : RegNum) : Statement (.rsqrtD fs fd) := fun isa _ => by
  refine (decode_cop1 isa (fOp_packR ..)).trans ((decodeCop1_d (fRs_packR ..)).trans ?_)
  unfold decodeFpD; rw [fFn_packR]
  exact congrArg Decoded.ok (by simp)

theorem Laws.RoundTrip.roundLD (fs : RegNum) (fd : RegNum) : Statement (.roundLD fs fd) := fun isa _ => by
  refine (decode_cop1 isa (fOp_packR ..)).trans ((decodeCop1_d (fRs_packR ..)).trans ?_)
  unfold decodeFpD; rw [fFn_packR]
  exact congrArg Decoded.ok (by simp)

theorem Laws.RoundTrip.truncLD (fs : RegNum) (fd : RegNum) : Statement (.truncLD fs fd) := fun isa _ => by
  refine (decode_cop1 isa (fOp_packR ..)).trans ((decodeCop1_d (fRs_packR ..)).trans ?_)
  unfold decodeFpD; rw [fFn_packR]
  exact congrArg Decoded.ok (by simp)

theorem Laws.RoundTrip.ceilLD (fs : RegNum) (fd : RegNum) : Statement (.ceilLD fs fd) := fun isa _ => by
  refine (decode_cop1 isa (fOp_packR ..)).trans ((decodeCop1_d (fRs_packR ..)).trans ?_)
  unfold decodeFpD; rw [fFn_packR]
  exact congrArg Decoded.ok (by simp)

theorem Laws.RoundTrip.floorLD (fs : RegNum) (fd : RegNum) : Statement (.floorLD fs fd) := fun isa _ => by
  refine (decode_cop1 isa (fOp_packR ..)).trans ((decodeCop1_d (fRs_packR ..)).trans ?_)
  unfold decodeFpD; rw [fFn_packR]
  exact congrArg Decoded.ok (by simp)

theorem Laws.RoundTrip.roundWD (fs : RegNum) (fd : RegNum) : Statement (.roundWD fs fd) := fun isa _ => by
  refine (decode_cop1 isa (fOp_packR ..)).trans ((decodeCop1_d (fRs_packR ..)).trans ?_)
  unfold decodeFpD; rw [fFn_packR]
  exact congrArg Decoded.ok (by simp)

theorem Laws.RoundTrip.truncWD (fs : RegNum) (fd : RegNum) : Statement (.truncWD fs fd) := fun isa _ => by
  refine (decode_cop1 isa (fOp_packR ..)).trans ((decodeCop1_d (fRs_packR ..)).trans ?_)
  unfold decodeFpD; rw [fFn_packR]
  exact congrArg Decoded.ok (by simp)

theorem Laws.RoundTrip.ceilWD (fs : RegNum) (fd : RegNum) : Statement (.ceilWD fs fd) := fun isa _ => by
  refine (decode_cop1 isa (fOp_packR ..)).trans ((decodeCop1_d (fRs_packR ..)).trans ?_)
  unfold decodeFpD; rw [fFn_packR]
  exact congrArg Decoded.ok (by simp)

theorem Laws.RoundTrip.floorWD (fs : RegNum) (fd : RegNum) : Statement (.floorWD fs fd) := fun isa _ => by
  refine (decode_cop1 isa (fOp_packR ..)).trans ((decodeCop1_d (fRs_packR ..)).trans ?_)
  unfold decodeFpD; rw [fFn_packR]
  exact congrArg Decoded.ok (by simp)

theorem Laws.RoundTrip.cvtWD (fs : RegNum) (fd : RegNum) : Statement (.cvtWD fs fd) := fun isa _ => by
  refine (decode_cop1 isa (fOp_packR ..)).trans ((decodeCop1_d (fRs_packR ..)).trans ?_)
  unfold decodeFpD; rw [fFn_packR]
  exact congrArg Decoded.ok (by simp)

theorem Laws.RoundTrip.cvtLD (fs : RegNum) (fd : RegNum) : Statement (.cvtLD fs fd) := fun isa _ => by
  refine (decode_cop1 isa (fOp_packR ..)).trans ((decodeCop1_d (fRs_packR ..)).trans ?_)
  unfold decodeFpD; rw [fFn_packR]
  exact congrArg Decoded.ok (by simp)

theorem Laws.RoundTrip.movfD (cc : BitVec 3) (fs : RegNum) (fd : RegNum) : Statement (.movfD cc fs fd) := fun isa _ => by
  refine (decode_cop1 isa (fOp_packMovc ..)).trans ((decodeCop1_d (fRs_packMovc ..)).trans ?_)
  simp [decodeFpD]

theorem Laws.RoundTrip.movtD (cc : BitVec 3) (fs : RegNum) (fd : RegNum) : Statement (.movtD cc fs fd) := fun isa _ => by
  refine (decode_cop1 isa (fOp_packMovc ..)).trans ((decodeCop1_d (fRs_packMovc ..)).trans ?_)
  simp [decodeFpD]

theorem Laws.RoundTrip.movzD (rt : RegNum) (fs : RegNum) (fd : RegNum) : Statement (.movzD rt fs fd) := fun isa _ => by
  refine (decode_cop1 isa (fOp_packR ..)).trans ((decodeCop1_d (fRs_packR ..)).trans ?_)
  unfold decodeFpD; rw [fFn_packR]
  exact congrArg Decoded.ok (by simp)

theorem Laws.RoundTrip.movnD (rt : RegNum) (fs : RegNum) (fd : RegNum) : Statement (.movnD rt fs fd) := fun isa _ => by
  refine (decode_cop1 isa (fOp_packR ..)).trans ((decodeCop1_d (fRs_packR ..)).trans ?_)
  unfold decodeFpD; rw [fFn_packR]
  exact congrArg Decoded.ok (by simp)

theorem Laws.RoundTrip.cFD (ft : RegNum) (fs : RegNum) (cc : BitVec 3) : Statement (.cFD ft fs cc) := fun isa _ => by
  refine (decode_cop1 isa (fOp_packCmp ..)).trans ((decodeCop1_d (fRs_packCmp ..)).trans ?_)
  unfold decodeFpD; rw [fFn_packCmp]
  exact congrArg Decoded.ok (by simp)

theorem Laws.RoundTrip.cUnD (ft : RegNum) (fs : RegNum) (cc : BitVec 3) : Statement (.cUnD ft fs cc) := fun isa _ => by
  refine (decode_cop1 isa (fOp_packCmp ..)).trans ((decodeCop1_d (fRs_packCmp ..)).trans ?_)
  unfold decodeFpD; rw [fFn_packCmp]
  exact congrArg Decoded.ok (by simp)

theorem Laws.RoundTrip.cEqD (ft : RegNum) (fs : RegNum) (cc : BitVec 3) : Statement (.cEqD ft fs cc) := fun isa _ => by
  refine (decode_cop1 isa (fOp_packCmp ..)).trans ((decodeCop1_d (fRs_packCmp ..)).trans ?_)
  unfold decodeFpD; rw [fFn_packCmp]
  exact congrArg Decoded.ok (by simp)

theorem Laws.RoundTrip.cUeqD (ft : RegNum) (fs : RegNum) (cc : BitVec 3) : Statement (.cUeqD ft fs cc) := fun isa _ => by
  refine (decode_cop1 isa (fOp_packCmp ..)).trans ((decodeCop1_d (fRs_packCmp ..)).trans ?_)
  unfold decodeFpD; rw [fFn_packCmp]
  exact congrArg Decoded.ok (by simp)

theorem Laws.RoundTrip.cOltD (ft : RegNum) (fs : RegNum) (cc : BitVec 3) : Statement (.cOltD ft fs cc) := fun isa _ => by
  refine (decode_cop1 isa (fOp_packCmp ..)).trans ((decodeCop1_d (fRs_packCmp ..)).trans ?_)
  unfold decodeFpD; rw [fFn_packCmp]
  exact congrArg Decoded.ok (by simp)

theorem Laws.RoundTrip.cUltD (ft : RegNum) (fs : RegNum) (cc : BitVec 3) : Statement (.cUltD ft fs cc) := fun isa _ => by
  refine (decode_cop1 isa (fOp_packCmp ..)).trans ((decodeCop1_d (fRs_packCmp ..)).trans ?_)
  unfold decodeFpD; rw [fFn_packCmp]
  exact congrArg Decoded.ok (by simp)

theorem Laws.RoundTrip.cOleD (ft : RegNum) (fs : RegNum) (cc : BitVec 3) : Statement (.cOleD ft fs cc) := fun isa _ => by
  refine (decode_cop1 isa (fOp_packCmp ..)).trans ((decodeCop1_d (fRs_packCmp ..)).trans ?_)
  unfold decodeFpD; rw [fFn_packCmp]
  exact congrArg Decoded.ok (by simp)

theorem Laws.RoundTrip.cUleD (ft : RegNum) (fs : RegNum) (cc : BitVec 3) : Statement (.cUleD ft fs cc) := fun isa _ => by
  refine (decode_cop1 isa (fOp_packCmp ..)).trans ((decodeCop1_d (fRs_packCmp ..)).trans ?_)
  unfold decodeFpD; rw [fFn_packCmp]
  exact congrArg Decoded.ok (by simp)

theorem Laws.RoundTrip.cSfD (ft : RegNum) (fs : RegNum) (cc : BitVec 3) : Statement (.cSfD ft fs cc) := fun isa _ => by
  refine (decode_cop1 isa (fOp_packCmp ..)).trans ((decodeCop1_d (fRs_packCmp ..)).trans ?_)
  unfold decodeFpD; rw [fFn_packCmp]
  exact congrArg Decoded.ok (by simp)

theorem Laws.RoundTrip.cNgleD (ft : RegNum) (fs : RegNum) (cc : BitVec 3) : Statement (.cNgleD ft fs cc) := fun isa _ => by
  refine (decode_cop1 isa (fOp_packCmp ..)).trans ((decodeCop1_d (fRs_packCmp ..)).trans ?_)
  unfold decodeFpD; rw [fFn_packCmp]
  exact congrArg Decoded.ok (by simp)

theorem Laws.RoundTrip.cSeqD (ft : RegNum) (fs : RegNum) (cc : BitVec 3) : Statement (.cSeqD ft fs cc) := fun isa _ => by
  refine (decode_cop1 isa (fOp_packCmp ..)).trans ((decodeCop1_d (fRs_packCmp ..)).trans ?_)
  unfold decodeFpD; rw [fFn_packCmp]
  exact congrArg Decoded.ok (by simp)

theorem Laws.RoundTrip.cNglD (ft : RegNum) (fs : RegNum) (cc : BitVec 3) : Statement (.cNglD ft fs cc) := fun isa _ => by
  refine (decode_cop1 isa (fOp_packCmp ..)).trans ((decodeCop1_d (fRs_packCmp ..)).trans ?_)
  unfold decodeFpD; rw [fFn_packCmp]
  exact congrArg Decoded.ok (by simp)

theorem Laws.RoundTrip.cLtD (ft : RegNum) (fs : RegNum) (cc : BitVec 3) : Statement (.cLtD ft fs cc) := fun isa _ => by
  refine (decode_cop1 isa (fOp_packCmp ..)).trans ((decodeCop1_d (fRs_packCmp ..)).trans ?_)
  unfold decodeFpD; rw [fFn_packCmp]
  exact congrArg Decoded.ok (by simp)

theorem Laws.RoundTrip.cNgeD (ft : RegNum) (fs : RegNum) (cc : BitVec 3) : Statement (.cNgeD ft fs cc) := fun isa _ => by
  refine (decode_cop1 isa (fOp_packCmp ..)).trans ((decodeCop1_d (fRs_packCmp ..)).trans ?_)
  unfold decodeFpD; rw [fFn_packCmp]
  exact congrArg Decoded.ok (by simp)

theorem Laws.RoundTrip.cLeD (ft : RegNum) (fs : RegNum) (cc : BitVec 3) : Statement (.cLeD ft fs cc) := fun isa _ => by
  refine (decode_cop1 isa (fOp_packCmp ..)).trans ((decodeCop1_d (fRs_packCmp ..)).trans ?_)
  unfold decodeFpD; rw [fFn_packCmp]
  exact congrArg Decoded.ok (by simp)

theorem Laws.RoundTrip.cNgtD (ft : RegNum) (fs : RegNum) (cc : BitVec 3) : Statement (.cNgtD ft fs cc) := fun isa _ => by
  refine (decode_cop1 isa (fOp_packCmp ..)).trans ((decodeCop1_d (fRs_packCmp ..)).trans ?_)
  unfold decodeFpD; rw [fFn_packCmp]
  exact congrArg Decoded.ok (by simp)

theorem Laws.RoundTrip.cvtSD (fs : RegNum) (fd : RegNum) : Statement (.cvtSD fs fd) := fun isa _ => by
  refine (decode_cop1 isa (fOp_packR ..)).trans ((decodeCop1_d (fRs_packR ..)).trans ?_)
  unfold decodeFpD; rw [fFn_packR]
  exact congrArg Decoded.ok (by simp)

theorem Laws.RoundTrip.cvtSW (fs : RegNum) (fd : RegNum) : Statement (.cvtSW fs fd) := fun isa _ => by
  refine (decode_cop1 isa (fOp_packR ..)).trans ((decodeCop1_w (fRs_packR ..)).trans ?_)
  simp [decodeFpW]

theorem Laws.RoundTrip.cvtSL (fs : RegNum) (fd : RegNum) : Statement (.cvtSL fs fd) := fun isa _ => by
  refine (decode_cop1 isa (fOp_packR ..)).trans ((decodeCop1_l (fRs_packR ..)).trans ?_)
  simp [decodeFpL]

theorem Laws.RoundTrip.cvtDS (fs : RegNum) (fd : RegNum) : Statement (.cvtDS fs fd) := fun isa _ => by
  refine (decode_cop1 isa (fOp_packR ..)).trans ((decodeCop1_s (fRs_packR ..)).trans ?_)
  unfold decodeFpS; rw [fFn_packR]
  exact congrArg Decoded.ok (by simp)

theorem Laws.RoundTrip.cvtDW (fs : RegNum) (fd : RegNum) : Statement (.cvtDW fs fd) := fun isa _ => by
  refine (decode_cop1 isa (fOp_packR ..)).trans ((decodeCop1_w (fRs_packR ..)).trans ?_)
  simp [decodeFpW]

theorem Laws.RoundTrip.cvtDL (fs : RegNum) (fd : RegNum) : Statement (.cvtDL fs fd) := fun isa _ => by
  refine (decode_cop1 isa (fOp_packR ..)).trans ((decodeCop1_l (fRs_packR ..)).trans ?_)
  simp [decodeFpL]

theorem Laws.RoundTrip.maddS (fr : RegNum) (ft : RegNum) (fs : RegNum) (fd : RegNum) : Statement (.maddS fr ft fs fd) := fun isa h => by
  refine (decode_cop1x (mips4_of_wellFormed h) (fOp_packR ..)).trans ?_
  simp [decodeCop1x]

theorem Laws.RoundTrip.maddD (fr : RegNum) (ft : RegNum) (fs : RegNum) (fd : RegNum) : Statement (.maddD fr ft fs fd) := fun isa h => by
  refine (decode_cop1x (mips4_of_wellFormed h) (fOp_packR ..)).trans ?_
  simp [decodeCop1x]

theorem Laws.RoundTrip.msubS (fr : RegNum) (ft : RegNum) (fs : RegNum) (fd : RegNum) : Statement (.msubS fr ft fs fd) := fun isa h => by
  refine (decode_cop1x (mips4_of_wellFormed h) (fOp_packR ..)).trans ?_
  simp [decodeCop1x]

theorem Laws.RoundTrip.msubD (fr : RegNum) (ft : RegNum) (fs : RegNum) (fd : RegNum) : Statement (.msubD fr ft fs fd) := fun isa h => by
  refine (decode_cop1x (mips4_of_wellFormed h) (fOp_packR ..)).trans ?_
  simp [decodeCop1x]

theorem Laws.RoundTrip.nmaddS (fr : RegNum) (ft : RegNum) (fs : RegNum) (fd : RegNum) : Statement (.nmaddS fr ft fs fd) := fun isa h => by
  refine (decode_cop1x (mips4_of_wellFormed h) (fOp_packR ..)).trans ?_
  simp [decodeCop1x]

theorem Laws.RoundTrip.nmaddD (fr : RegNum) (ft : RegNum) (fs : RegNum) (fd : RegNum) : Statement (.nmaddD fr ft fs fd) := fun isa h => by
  refine (decode_cop1x (mips4_of_wellFormed h) (fOp_packR ..)).trans ?_
  simp [decodeCop1x]

theorem Laws.RoundTrip.nmsubS (fr : RegNum) (ft : RegNum) (fs : RegNum) (fd : RegNum) : Statement (.nmsubS fr ft fs fd) := fun isa h => by
  refine (decode_cop1x (mips4_of_wellFormed h) (fOp_packR ..)).trans ?_
  simp [decodeCop1x]

theorem Laws.RoundTrip.nmsubD (fr : RegNum) (ft : RegNum) (fs : RegNum) (fd : RegNum) : Statement (.nmsubD fr ft fs fd) := fun isa h => by
  refine (decode_cop1x (mips4_of_wellFormed h) (fOp_packR ..)).trans ?_
  simp [decodeCop1x]

end Sys2Proof
end

