-- ==== Sys2Proof/Laws/Round.lean ====
section
/-! SUPPORT. What rounding does: `roundNat` to an integer, `roundF` to a format (spec/46_fpu_arith.md R890, R898), the
fields of an encoding put together by `packF` (spec/45_fpu_state_moves.md R825), and the integer square root. -/

namespace Sys2Proof.Machine

/-! ### Rounding to an integer -/

/-- What rounding to an integer leaves of the number `v = m + less than 1`, in units of `2^k`. -/
structure RoundedNat (rm : Rm) (neg : Bool) (k : Nat) (v : ℝ) (r : Nat × Bool) : Prop where
  near : |(r.1 : ℝ) * 2 ^ k - v| < 2 ^ k
  nearest : rm = .nearest → 2 * |(r.1 : ℝ) * 2 ^ k - v| ≤ 2 ^ k ∧
    (2 * |(r.1 : ℝ) * 2 ^ k - v| = 2 ^ k → r.1 % 2 = 0)
  zero : rm = .zero → (r.1 : ℝ) * 2 ^ k ≤ v
  up : rm = .up → if neg then (r.1 : ℝ) * 2 ^ k ≤ v else v ≤ (r.1 : ℝ) * 2 ^ k
  down : rm = .down → if neg then v ≤ (r.1 : ℝ) * 2 ^ k else (r.1 : ℝ) * 2 ^ k ≤ v
  inexact : r.2 = false ↔ (r.1 : ℝ) * 2 ^ k = v

/-- Rounding `v`, the number `m` plus less than one, to a multiple of `2^k` (R890). -/
theorem roundNat_rounded (rm : Rm) (neg : Bool) (m k : Nat) (sticky : Bool) (v : ℝ)
    (lo : (m : ℝ) ≤ v) (hi : v < m + 1) (hs : sticky = false ↔ v = m) (hk : sticky = true → k ≠ 0) :
    RoundedNat rm neg k v (roundNat rm neg m k sticky) := by
  set d := 2 ^ k with hd
  have hd0 : 0 < d := by positivity
  have hdr : ((2 : ℝ) ^ k) = (d : ℝ) := by rw [hd]; push_cast; rfl
  set q := m / d with hq
  set r := m % d with hr
  have hm : m = d * q + r := (Nat.div_add_mod m d).symm
  have hrd : r < d := Nat.mod_lt _ hd0
  have hmr : (m : ℝ) = d * q + r := by exact_mod_cast hm
  have hrd' : (r : ℝ) + 1 ≤ d := by exact_mod_cast hrd
  have hr0 : (0 : ℝ) ≤ r := by positivity
  -- the cut-off part
  have w0 : 0 ≤ v - q * d := by rw [hmr] at lo; nlinarith
  have w1 : v - q * d < d := by rw [hmr] at hi; nlinarith
  have evens : sticky = true → ∃ h, d = 2 * h := fun hs => by
    obtain ⟨j, rfl⟩ := Nat.exists_eq_succ_of_ne_zero (hk hs)
    exact ⟨2 ^ j, by rw [hd, pow_succ]; ring⟩
  have zeroIff : (v - q * d = 0) ↔ (r = 0 ∧ sticky = false) := by
    constructor
    · intro h
      have h1 : (r : ℝ) = 0 := by rw [hmr] at lo; nlinarith
      refine ⟨by exact_mod_cast h1, hs.2 ?_⟩
      rw [hmr, h1]; linarith
    · rintro ⟨h, h2⟩
      rw [hs.1 h2, hmr, h]; push_cast; ring
  have ltHalf : 2 * r < d → 2 * (v - q * d) < d := by
    intro h
    cases e : sticky
    · have := hs.1 e
      have h' : 2 * (r : ℝ) < d := by exact_mod_cast h
      rw [this, hmr]; linarith
    · obtain ⟨j, hj⟩ := evens e
      have h' : (r : ℝ) + 1 ≤ j := by exact_mod_cast (by omega : r + 1 ≤ j)
      have h2 : (d : ℝ) = 2 * j := by exact_mod_cast hj
      rw [hmr] at hi; rw [h2] at hi ⊢; linarith
  have eqHalf : 2 * r = d → sticky = false → 2 * (v - q * d) = d := by
    intro h e
    have h' : 2 * (r : ℝ) = d := by exact_mod_cast h
    rw [hs.1 e, hmr]; linarith
  have gtHalf : ¬ 2 * r < d → ¬ (2 * r = d ∧ sticky = false) → (d : ℝ) < 2 * (v - q * d) := by
    intro h h2
    rcases Nat.lt_or_ge d (2 * r) with h3 | h3
    · have h' : (d : ℝ) < 2 * r := by exact_mod_cast h3
      rw [hmr] at lo; linarith
    · have h4 : 2 * r = d := by omega
      have e : sticky = true := by
        cases e : sticky
        · exact absurd ⟨h4, e⟩ h2
        · rfl
      have h' : 2 * (r : ℝ) = d := by exact_mod_cast h4
      have : v ≠ m := fun h => by rw [hs.2 h] at e; exact Bool.noConfusion e
      have : (m : ℝ) < v := lt_of_le_of_ne lo (Ne.symm this)
      rw [hmr] at this; linarith
  have down : ∀ b : Bool, (b = false ↔ v - q * d = 0) →
      (rm = .nearest → 2 * (v - q * d) ≤ d ∧ (2 * (v - q * d) = d → q % 2 = 0)) →
      (rm = .up → neg = false → v - q * d = 0) → (rm = .down → neg = true → v - q * d = 0) →
      RoundedNat rm neg k v (q, b) := by
    intro b hb hn hu hdn
    refine ⟨?_, ?_, ?_, ?_, ?_, ?_⟩ <;> simp only [hdr]
    · rw [abs_lt]; constructor <;> linarith
    · intro h
      rw [show (q : ℝ) * d - v = -(v - q * d) by ring, abs_neg, abs_of_nonneg w0]
      exact hn h
    · intro; linarith
    · intro h
      cases neg
      · have := hu h rfl; simp only [Bool.false_eq_true, if_false]; linarith
      · simp only [if_true]; linarith
    · intro h
      cases neg
      · simp only [Bool.false_eq_true, if_false]; linarith
      · have := hdn h rfl; simp only [if_true]; linarith
    · rw [hb]; constructor <;> intro h <;> linarith
  have up : ∀ b : Bool, b = true → 0 < v - q * d →
      (rm = .nearest → (d : ℝ) ≤ 2 * (v - q * d) ∧ (2 * (v - q * d) = d → q % 2 = 1)) →
      rm ≠ .zero → (rm = .up → neg = false) → (rm = .down → neg = true) →
      RoundedNat rm neg k v (q + 1, b) := by
    intro b hb hp hn hz hu hdn
    refine ⟨?_, ?_, ?_, ?_, ?_, ?_⟩ <;> simp only [hdr] <;> push_cast
    · rw [abs_lt]; constructor <;> linarith
    · intro h
      rw [abs_of_nonneg (by linarith)]
      refine ⟨by linarith [(hn h).1], fun e => ?_⟩
      have := (hn h).2 (by linarith)
      omega
    · intro h; exact absurd h hz
    · intro h
      rw [hu h]; simp only [Bool.false_eq_true, if_false]; linarith
    · intro h
      rw [hdn h]; simp only [if_true]; linarith
    · rw [hb]; constructor
      · intro h; exact Bool.noConfusion h
      · intro h; linarith
  have restIff : (2 * r != 0 || sticky) = false ↔ v - q * d = 0 := by
    rw [zeroIff, Bool.or_eq_false_iff, bne_eq_false_iff_eq]
    constructor <;> rintro ⟨h1, h2⟩ <;> exact ⟨by omega, h2⟩
  have restPos : (2 * r != 0 || sticky) = true → 0 < v - q * d := by
    intro h
    refine lt_of_le_of_ne w0 fun e => ?_
    rw [restIff.2 e.symm] at h; exact Bool.noConfusion h
  unfold roundNat
  simp only [← hd, ← hq, ← hr]
  generalize hB : (2 * r != 0 || sticky) = b at restIff restPos ⊢
  have dpos : (0 : ℝ) < d := by exact_mod_cast hd0
  cases rm
  · by_cases h1 : 2 * r < d
    · have := ltHalf h1
      simp only [h1, if_true]
      exact down b restIff (fun _ => ⟨this.le, fun e => absurd e this.ne⟩) (by simp) (by simp)
    · by_cases h2 : 2 * r = d ∧ sticky = false
      · have hw := eqHalf h2.1 h2.2
        have hb : b = true := by
          rw [← Bool.not_eq_false, restIff]; intro e; rw [e] at hw; linarith
        simp only [h2.1, h2.2, lt_irrefl, if_false, Bool.not_false, and_self, if_true, roundsUp, hb,
          show (Ordering.eq == Ordering.gt) = false from rfl, show (Ordering.eq == Ordering.eq) = true from rfl,
          Bool.false_or, Bool.true_and, beq_iff_eq]
        split
        · rename_i ho
          exact up true rfl (by linarith) (fun _ => ⟨hw.ge, fun _ => ho⟩) (by simp) (by simp) (by simp)
        · rename_i ho
          exact down true (by rw [← hb]; exact restIff) (fun _ => ⟨hw.le, fun _ => by omega⟩) (by simp) (by simp)
      · have hw := gtHalf h1 h2
        have hb : b = true := by
          rw [← Bool.not_eq_false, restIff]; intro e; rw [e] at hw; linarith
        have h2' : ¬(2 * r = d ∧ (!sticky) = true) := by simpa using h2
        rw [if_neg h1, if_neg h2']
        exact up b hb (restPos hb) (fun _ => ⟨hw.le, fun e => absurd e hw.ne'⟩) (by simp) (by simp) (by simp)
  · exact down b restIff (by simp) (by simp) (by simp)
  · cases neg
    · cases b
      · exact down false restIff (by simp) (fun _ _ => restIff.1 rfl) (by simp)
      · exact up true rfl (restPos rfl) (by simp) (by simp) (by simp) (by simp)
    · simp only [roundsUp, Bool.not_true, Bool.and_false, Bool.false_eq_true, if_false]
      exact down b restIff (by simp) (by simp) (by simp)
  · cases neg
    · simp only [roundsUp, Bool.and_false, Bool.false_eq_true, if_false]
      exact down b restIff (by simp) (by simp) (by simp)
    · cases b
      · exact down false restIff (by simp) (by simp) (fun _ _ => restIff.1 rfl)
      · exact up true rfl (restPos rfl) (by simp) (by simp) (by simp) (by simp)
/-! ### The fields of an encoding (R825) -/

/-- The exponent field put in. -/
theorem fExp_packF (f : FFmt) (neg : Bool) (e m : Nat) (he : e < 2 ^ f.ebits) (hm : m < 2 ^ f.mbits) :
    fExp f (packF f neg e m) = e := by
  cases f <;> cases neg <;> simp only [fExp, packF, FFmt.mbits, FFmt.ebits, FFmt.signBit, BitVec.toNat_ofNat] at * <;>
    norm_num at * <;> omega

/-- The mantissa field put in. -/
theorem fMant_packF (f : FFmt) (neg : Bool) (e m : Nat) (he : e < 2 ^ f.ebits) (hm : m < 2 ^ f.mbits) :
    fMant f (packF f neg e m) = m := by
  cases f <;> cases neg <;> simp only [fMant, packF, FFmt.mbits, FFmt.ebits, FFmt.signBit, BitVec.toNat_ofNat] at * <;>
    norm_num at * <;> omega

/-- The sign put in. -/
theorem fSign_packF (f : FFmt) (neg : Bool) (e m : Nat) (he : e < 2 ^ f.ebits) (hm : m < 2 ^ f.mbits) :
    fSign f (packF f neg e m) = neg := by
  cases f <;> cases neg <;> simp only [fSign, bit, packF, FFmt.mbits, FFmt.ebits, FFmt.signBit, BitVec.getLsbD_ofNat,
    Nat.testBit_eq_decide_div_mod_eq] at * <;>
    norm_num at * <;> omega

/-- A normal number put together stands for the number its fields give. -/
theorem unpackF_packF (f : FFmt) (neg : Bool) (e m : Nat) (h0 : e ≠ 0) (he : e < f.emax) (hm : m < 2 ^ f.mbits) :
    unpackF f (packF f neg e m) = .fin neg (m + 2 ^ f.mbits) (e - f.bias - f.mbits) := by
  have he' : e < 2 ^ f.ebits := by unfold FFmt.emax at he; omega
  unfold unpackF
  rw [fExp_packF f neg e m he' hm, fMant_packF f neg e m he' hm, fSign_packF f neg e m he' hm]
  simp only [he.ne, h0, if_false]

/-! ### Rounding to a format -/

/-- The last part of a rounding: the number `mant * 2^(top - mbits)`, with one bit more than the mantissa field, in
a format. -/
def placeF (f : FFmt) (rm : Rm) (neg : Bool) (mant : Nat) (top : Int) (inexact : Bool) : FpOut :=
  let field : Int := top + f.bias
  if field ≥ f.emax then .cond (overflowResult f rm neg) (condO ||| condI)
  else if field ≤ 0 then { bits := fZero f neg, e := condU ||| condI, anyNan := false, tiny := true }
  else .cond (packF f neg field.toNat (mant - 2 ^ f.mbits)) (if inexact then condI else 0)

/-- The largest exponent field by the bias. -/
theorem emax_eq_bias (f : FFmt) : (f.emax : Int) = 2 * f.bias + 1 := by cases f <;> rfl

/-- Overflow, a tiny result and a number of the format told apart by the size of the rounded number `r` (R898). -/
theorem placeF_eq (f : FFmt) (rm : Rm) (neg : Bool) (mant : Nat) (top : Int) (inexact : Bool) (r a : ℝ)
    (lo : 2 ^ f.mbits ≤ mant) (hi : mant < 2 ^ (f.mbits + 1)) (hr : r = (mant : ℝ) * 2 ^ (top - f.mbits))
    (hi' : inexact = false ↔ r = a) :
    let o := placeF f rm neg mant top inexact
    if (2 : ℝ) ^ (f.bias + 1) ≤ r then
      o = .cond (if rm = .nearest ∨ (rm = .up ∧ neg = false) ∨ (rm = .down ∧ neg = true) then fInf f neg
        else fHuge f neg) (condO ||| condI)
    else if r < 2 ^ (1 - (f.bias : Int)) then
      o = { bits := fZero f neg, e := condU ||| condI, anyNan := false, tiny := true }
    else (∃ m e, unpackF f o.bits = .fin neg m e ∧ 2 ^ f.mbits ≤ m ∧ (m : ℝ) * 2 ^ e = r) ∧
      o = .cond o.bits (if r = a then 0 else condI) := by
  have two : (0 : ℝ) < 2 := by norm_num
  have r1 : (2 : ℝ) ^ top ≤ r := by
    rw [hr]
    have : (2 : ℝ) ^ top = 2 ^ f.mbits * 2 ^ (top - f.mbits) := by
      rw [← zpow_natCast, ← zpow_add₀ two.ne']; congr 1; ring
    rw [this]
    exact mul_le_mul_of_nonneg_right (by exact_mod_cast lo) (by positivity)
  have r2 : r < (2 : ℝ) ^ (top + 1) := by
    rw [hr]
    have : (2 : ℝ) ^ (top + 1) = 2 ^ (f.mbits + 1) * 2 ^ (top - f.mbits) := by
      rw [← zpow_natCast, ← zpow_add₀ two.ne']; congr 1; push_cast; ring
    rw [this]
    exact mul_lt_mul_of_pos_right (by exact_mod_cast hi) (by positivity)
  have key : ∀ k : Int, (2 : ℝ) ^ k ≤ r ↔ k ≤ top := fun k => by
    constructor
    · intro h
      have := (zpow_lt_zpow_iff_right₀ (by norm_num : (1 : ℝ) < 2)).1 (h.trans_lt r2)
      omega
    · intro h
      exact ((zpow_le_zpow_iff_right₀ (by norm_num : (1 : ℝ) < 2)).2 h).trans r1
  have c1 : (2 : ℝ) ^ (f.bias + 1) ≤ r ↔ top + f.bias ≥ f.emax := by
    rw [← zpow_natCast, key, emax_eq_bias]; push_cast; omega
  have c2 : r < (2 : ℝ) ^ (1 - (f.bias : Int)) ↔ top + f.bias ≤ 0 := by
    rw [← not_le, key]; omega
  unfold placeF
  simp only [c1, c2]
  split
  · cases rm <;> cases neg <;> simp [overflowResult]
  · rename_i h
    split
    · rfl
    · rename_i h2
      refine ⟨⟨mant, top - f.mbits, ?_, lo, hr.symm⟩, ?_⟩
      · show unpackF f (packF f neg (top + f.bias).toNat (mant - 2 ^ f.mbits)) = _
        rw [unpackF_packF _ _ _ _ (by omega) (by omega) (by rw [pow_succ] at hi; omega)]
        congr 1 <;> omega
      · show FpOut.cond _ _ = FpOut.cond _ _
        congr 1
        cases inexact
        · rw [if_pos (hi'.1 rfl)]; rfl
        · rw [if_neg fun e => Bool.noConfusion (hi'.2 e)]; rfl

/-- Whatever number `x` is `v * 2^e` in magnitude, with `v` the integer `m` plus less than one: `roundF` rounds it once to
the format (R890, R898). -/
theorem roundF_rounded (f : FFmt) (rm : Rm) (x v : ℝ) (z : Bool) (m : Nat) (e : Int) (sticky : Bool)
    (hm : m ≠ 0) (lo : (m : ℝ) ≤ v) (hi : v < m + 1) (hs : sticky = false ↔ v = m) (hx : |x| = v * 2 ^ e)
    (hk : sticky = true → 2 ^ (f.mbits + 1) ≤ m) : Rounded f rm x z (roundF f rm (decide (x < 0)) m e sticky) := by
  have two : (0 : ℝ) < 2 := by norm_num
  have hm1 : (1 : ℝ) ≤ m := by exact_mod_cast Nat.one_le_iff_ne_zero.2 hm
  have hx0 : x ≠ 0 := by
    rw [← abs_pos, hx]; have : 0 < v := by linarith
    positivity
  unfold Rounded
  rw [if_neg hx0]
  set neg := decide (x < 0)
  set p := f.mbits + 1 with hp
  have l1 : 2 ^ m.log2 ≤ m := Nat.log2_self_le hm
  have l2 : m < 2 ^ (m.log2 + 1) := Nat.lt_log2_self
  set n := m.log2 + 1 with hn
  have R := roundNat_rounded rm neg m (n - p) sticky v lo hi hs (fun h => by
    have := (Nat.pow_lt_pow_iff_right (a := 2) (by norm_num)).1 ((hk h).trans_lt l2)
    omega)
  set y := roundNat rm neg m (n - p) sticky with hy
  have e2 : ((2 : ℝ) ^ (e + ((n - p : Nat) : Int) - ((p - n : Nat) : Int))) * 2 ^ (p - n) = 2 ^ (n - p) * 2 ^ e := by
    rw [← zpow_natCast 2 (p - n), ← zpow_add₀ two.ne', ← zpow_natCast 2 (n - p), ← zpow_add₀ two.ne']
    congr 1; ring
  set t := e + ((n - p : Nat) : Int) - ((p - n : Nat) : Int) with ht
  -- the two shapes: nothing cut off, or nothing filled in
  have shape : (p - n ≠ 0 ∧ y.1 = m ∧ v = m ∧ sticky = false) ∨ p - n = 0 := by
    by_cases h : p - n = 0
    · exact Or.inr h
    · left
      have hnp : n - p = 0 := by omega
      have hs' : sticky = false := by
        cases q : sticky
        · rfl
        · have := (Nat.pow_lt_pow_iff_right (a := 2) (by norm_num)).1 ((hk q).trans_lt l2)
          omega
      have hv := hs.1 hs'
      refine ⟨h, ?_, hv, hs'⟩
      have := R.near
      rw [hnp, hv, pow_zero, mul_one, abs_lt] at this
      have a1 : (m : ℝ) < y.1 + 1 := by linarith [this.1]
      have a2 : (y.1 : ℝ) < m + 1 := by linarith [this.2]
      have a1 : m < y.1 + 1 := by exact_mod_cast a1
      have a2 : y.1 < m + 1 := by exact_mod_cast a2
      omega
  have tp : (0 : ℝ) < 2 ^ t := by positivity
  have ep : (0 : ℝ) < 2 ^ e := by positivity
  set q := y.1 * 2 ^ (p - n) with hq
  have hr : (q : ℝ) * 2 ^ t = (y.1 * 2 ^ (n - p)) * 2 ^ e := by
    rw [hq]; push_cast
    rw [mul_assoc, mul_comm ((2 : ℝ) ^ (p - n)), e2]; ring
  have ha : abs ((q : ℝ) * 2 ^ t - |x|) = |(y.1 : ℝ) * 2 ^ (n - p) - v| * 2 ^ e := by
    rw [hr, hx, ← sub_mul, abs_mul, abs_of_pos ep]
  have unit : abs ((q : ℝ) * 2 ^ t - |x|) < 2 ^ t ∧
      (rm = .nearest → 2 * abs ((q : ℝ) * 2 ^ t - |x|) ≤ 2 ^ t ∧
        (2 * abs ((q : ℝ) * 2 ^ t - |x|) = 2 ^ t → q % 2 = 0)) := by
    rcases shape with ⟨hd, h1, h2, h3⟩ | hd
    · have : abs ((q : ℝ) * 2 ^ t - |x|) = 0 := by
        have hnp : n - p = 0 := by omega
        rw [ha, h1, h2, hnp]; simp
      rw [this, mul_zero]
      exact ⟨tp, fun _ => ⟨tp.le, fun h => absurd h tp.ne⟩⟩
    · rw [hd, pow_zero, mul_one] at e2
      rw [ha, e2]
      refine ⟨mul_lt_mul_of_pos_right R.near ep, fun h => ⟨?_, fun h2 => ?_⟩⟩
      · rw [← mul_assoc]; exact mul_le_mul_of_nonneg_right (R.nearest h).1 ep.le
      · rw [← mul_assoc] at h2
        have := (R.nearest h).2 (mul_right_cancel₀ ep.ne' h2)
        rw [hq, hd, pow_zero, mul_one]; exact this
  have bounds : (2 : ℝ) ^ f.mbits * 2 ^ t ≤ |x| ∧ |x| < 2 ^ p * 2 ^ t := by
    rcases shape with ⟨hd, h1, h2, h3⟩ | hd
    · have hnp : n - p = 0 := by omega
      rw [hnp, pow_zero, one_mul] at e2
      rw [hx, h2, ← e2]
      have g1 : 2 ^ f.mbits ≤ m * 2 ^ (p - n) := by
        calc 2 ^ f.mbits = 2 ^ m.log2 * 2 ^ (p - n) := by rw [← pow_add]; congr 1; omega
          _ ≤ _ := Nat.mul_le_mul_right _ l1
      have g2 : m * 2 ^ (p - n) < 2 ^ p := by
        calc m * 2 ^ (p - n) < 2 ^ n * 2 ^ (p - n) := Nat.mul_lt_mul_of_pos_right l2 (by positivity)
          _ = _ := by rw [← pow_add]; congr 1; omega
      have g1 : (2 : ℝ) ^ f.mbits ≤ m * 2 ^ (p - n) := by exact_mod_cast g1
      have g2 : (m : ℝ) * 2 ^ (p - n) < 2 ^ p := by exact_mod_cast g2
      constructor <;> nlinarith
    · rw [hd, pow_zero, mul_one] at e2
      rw [hx, e2, ← mul_assoc, ← mul_assoc]
      have g1 : 2 ^ f.mbits * 2 ^ (n - p) ≤ m := by
        calc 2 ^ f.mbits * 2 ^ (n - p) = 2 ^ m.log2 := by rw [← pow_add]; congr 1; omega
          _ ≤ _ := l1
      have g2 : m + 1 ≤ 2 ^ p * 2 ^ (n - p) := by
        calc m + 1 ≤ 2 ^ n := l2
          _ = _ := by rw [← pow_add]; congr 1; omega
      have g1 : (2 : ℝ) ^ f.mbits * 2 ^ (n - p) ≤ m := by exact_mod_cast g1
      have g2 : (m : ℝ) + 1 ≤ 2 ^ p * 2 ^ (n - p) := by exact_mod_cast g2
      exact ⟨mul_le_mul_of_nonneg_right (g1.trans lo) ep.le, mul_lt_mul_of_pos_right (hi.trans_le g2) ep⟩
  have q1 : 2 ^ f.mbits ≤ q := by
    have := (abs_lt.1 unit.1).1
    have : (2 : ℝ) ^ f.mbits * 2 ^ t < (q + 1) * 2 ^ t := by linarith [bounds.1]
    have := lt_of_mul_lt_mul_right this tp.le
    have : 2 ^ f.mbits < q + 1 := by exact_mod_cast this
    omega
  have q2 : q ≤ 2 ^ p := by
    have := (abs_lt.1 unit.1).2
    have : (q : ℝ) * 2 ^ t < (2 ^ p + 1) * 2 ^ t := by linarith [bounds.2]
    have := lt_of_mul_lt_mul_right this tp.le
    have : q < 2 ^ p + 1 := by exact_mod_cast this
    omega
  have inexact : y.2 = false ↔ (q : ℝ) * 2 ^ t = |x| := by
    rw [R.inexact, hr, hx]
    exact ⟨fun h => by rw [h], fun h => mul_right_cancel₀ ep.ne' h⟩
  refine ⟨q, t, bounds.1, bounds.2, unit.1, unit.2, ?_, ?_, ?_, ?_⟩
  · intro h; rw [hr, hx]; exact mul_le_mul_of_nonneg_right (R.zero h) ep.le
  · intro h
    have := R.up h
    rw [hr, hx]
    split <;> rename_i g
    · rw [if_pos g] at this; exact mul_le_mul_of_nonneg_right this ep.le
    · rw [if_neg g] at this; exact mul_le_mul_of_nonneg_right this ep.le
  · intro h
    have := R.down h
    rw [hr, hx]
    split <;> rename_i g
    · rw [if_pos g] at this; exact mul_le_mul_of_nonneg_right this ep.le
    · rw [if_neg g] at this; exact mul_le_mul_of_nonneg_right this ep.le
  · by_cases c : y.1 = 2 ^ p
    · have hd : p - n = 0 := by
        rcases shape with ⟨hd, h1, h2, h3⟩ | hd
        · exfalso
          have : 2 ^ n < 2 ^ p := Nat.pow_lt_pow_right (by norm_num) (by omega)
          omega
        · exact hd
      have qe : q = 2 ^ p := by rw [hq, hd, pow_zero, mul_one, c]
      have := placeF_eq f rm neg (2 ^ f.mbits) (t + f.mbits + 1) y.2 ((q : ℝ) * 2 ^ t) |x| le_rfl
        (Nat.pow_lt_pow_right (by norm_num) (by omega))
        (by rw [qe, hp, show t + f.mbits + 1 - (f.mbits : Int) = t + 1 by ring, zpow_add_one₀ two.ne']
            push_cast; ring) inexact
      have eq : roundF f rm neg m e sticky = placeF f rm neg (2 ^ f.mbits) (t + f.mbits + 1) y.2 := by
        unfold roundF placeF
        simp only [← hp, ← hn, ← hy, c, beq_self_eq_true, if_true]
        rfl
      rw [eq]; exact this
    · have q3 : q ≠ 2 ^ p := by
        rcases shape with ⟨hd, h1, h2, h3⟩ | hd
        · rw [hq, h1]
          have : m * 2 ^ (p - n) < 2 ^ n * 2 ^ (p - n) := Nat.mul_lt_mul_of_pos_right l2 (by positivity)
          rw [← pow_add, show n + (p - n) = p by omega] at this
          exact this.ne
        · rw [hq, hd, pow_zero, mul_one]; exact c
      have := placeF_eq f rm neg q (t + f.mbits) y.2 ((q : ℝ) * 2 ^ t) |x| q1 (lt_of_le_of_ne q2 q3)
        (by rw [show t + f.mbits - (f.mbits : Int) = t by ring]) inexact
      have eq : roundF f rm neg m e sticky = placeF f rm neg q (t + f.mbits) y.2 := by
        unfold roundF placeF
        simp only [← hp, ← hn, ← hy, beq_eq_false_iff_ne.2 c, if_false, Bool.false_eq_true, add_zero]
        rfl
      rw [eq]; exact this
/-! ### The integer square root -/

/-- The search for the square root keeps it between `r` and `r + 2^i`. -/
theorem isqrtFrom_spec (n : Nat) : ∀ i r, r * r ≤ n → n < (r + 2 ^ i) * (r + 2 ^ i) →
    isqrtFrom n r i * isqrtFrom n r i ≤ n ∧ n < (isqrtFrom n r i + 1) * (isqrtFrom n r i + 1) := by
  intro i
  induction i with
  | zero => intro r h1 h2; exact ⟨h1, h2⟩
  | succ i ih =>
    intro r h1 h2
    unfold isqrtFrom
    split
    · rename_i h; exact ih _ h (by rw [add_assoc, ← mul_two, ← pow_succ]; exact h2)
    · rename_i h; exact ih _ h1 (not_le.1 h)

/-- The integer square root is the largest number whose square is not above `n`. -/
theorem isqrt_spec (n : Nat) (h : n < 2 ^ 248) : isqrt n * isqrt n ≤ n ∧ n < (isqrt n + 1) * (isqrt n + 1) :=
  isqrtFrom_spec n 124 0 (Nat.zero_le _) (by rw [zero_add, ← pow_add]; exact h)

end Sys2Proof.Machine
end

