-- ==== Sys2Proof/Tests/Slice0.lean ====
section
/-! SUPPORT. The tests: ill-formed terms that WellFormed refuses, the decoding of every constructor, small tests of one
step with results from the spec's tables (spec/95_test_vectors.md) or worked out by hand from its rules, and for each
statement with hypotheses a witness that meets them. -/

namespace Sys2Proof.Tests

open Sys2Proof.Machine

set_option Elab.async false

/-! ### Well-formedness -/

-- R364, R365: coprocessor 3 is gone from MIPS III on
theorem test_wellFormed_refuses_cop3 :
    ∀ i ∈ [Instr.bc3f 1#16, .bc3t 1#16, .bc3fl 1#16, .bc3tl 1#16, .lwc3 1#5 2#5 3#16, .mfc3 1#5 2#5, .mtc3 1#5 2#5, .cfc3 1#5 2#5,
        .ctc3 1#5 2#5, .cop3 1#25],
      i.wellFormed .mips1 = true ∧ i.wellFormed .mips2 = true ∧ i.wellFormed .mips3 = false ∧ i.wellFormed .mips4 = false := by
  decide

-- R383, R390: COP1X and PREF belong to MIPS IV
theorem test_wellFormed_refuses_mips4 :
    ∀ i ∈ [Instr.pref 1#5 2#5 3#16, .lwxc1 1#5 2#5 3#5, .ldxc1 1#5 2#5 3#5, .swxc1 1#5 2#5 3#5, .sdxc1 1#5 2#5 3#5, .prefx 1#5 2#5 3#5,
        .maddS 1#5 2#5 3#5 4#5, .maddD 1#5 2#5 3#5 4#5, .msubS 1#5 2#5 3#5 4#5, .msubD 1#5 2#5 3#5 4#5, .nmaddS 1#5 2#5 3#5 4#5,
        .nmaddD 1#5 2#5 3#5 4#5, .nmsubS 1#5 2#5 3#5 4#5, .nmsubD 1#5 2#5 3#5 4#5],
      i.wellFormed .mips1 = false ∧ i.wellFormed .mips2 = false ∧ i.wellFormed .mips3 = false ∧ i.wellFormed .mips4 = true := by
  decide

/-! ### Decoding -/

/-- Each word decodes to the instruction beside it. -/
abbrev Reads (isa : Isa) (rows : List (Word × Instr)) : Prop := ∀ p ∈ rows, decode isa p.1 = .ok p.2

-- words printed in 95_test_vectors.md beside their assembler text
theorem test_decode_printed : Reads .mips4 [
    (0x00221820#32, .add 1#5 2#5 3#5), (0x00221821#32, .addu 1#5 2#5 3#5), (0x2023FFFF#32, .addi 1#5 3#5 0xFFFF#16),
    (0x24238000#32, .addiu 1#5 3#5 0x8000#16), (0x0022182D#32, .daddu 1#5 2#5 3#5), (0x60230001#32, .daddi 1#5 3#5 1#16),
    (0x3023FFFF#32, .andi 1#5 3#5 0xFFFF#16), (0x3C038000#32, .lui 3#5 0x8000#16), (0x00011FC0#32, .sll 1#5 3#5 31#5),
    (0x00411804#32, .sllv 2#5 1#5 3#5), (0x00011FFF#32, .dsra32 1#5 3#5 31#5), (0x0022180B#32, .movn 1#5 2#5 3#5),
    (0x00201801#32, .movf 1#5 0#3 3#5), (0x00211801#32, .movt 1#5 0#3 3#5), (0x00220018#32, .mult 1#5 2#5),
    (0x70221802#32, .mul 1#5 2#5 3#5), (0x0C000408#32, .jal 0x408#26), (0x0080F809#32, .jalr 4#5 31#5),
    (0x14228000#32, .bne 1#5 2#5 0x8000#16), (0x04110003#32, .bgezal 0#5 3#16), (0x50220003#32, .beql 1#5 2#5 3#16),
    (0x04320003#32, .bltzall 1#5 3#16), (0x41010003#32, .bc0t 3#16), (0x8C22FFFC#32, .lw 1#5 2#5 0xFFFC#16),
    (0x88220000#32, .lwl 1#5 2#5 0#16), (0x68220001#32, .ldl 1#5 2#5 1#16), (0xD1090000#32, .lld 8#5 9#5 0#16),
    (0xF10A0000#32, .scd 8#5 10#5 0#16), (0x0007000D#32, .brk 0x1C00#20), (0x00210034#32, .teq 1#5 1#5 0#10),
    (0x0429FFFF#32, .tgeiu 1#5 0xFFFF#16), (0x42000020#32, .wait), (0x40826000#32, .mtc0 2#5 12#5), (0x40227000#32, .dmfc0 2#5 14#5),
    (0x42000018#32, .eret), (0x42000006#32, .tlbwr), (0x42000010#32, .rfe), (0xC500002A#32, .lwc1 8#5 0#5 42#16),
    (0x46001100#32, .addS 0#5 2#5 4#5), (0x46020032#32, .cEqS 2#5 0#5 0#3), (0x4622003E#32, .cLeD 2#5 0#5 0#3),
    (0x45010003#32, .bc1t 0#3 3#16), (0x44C8F800#32, .ctc1 8#5 31#5)] := by decide +kernel

-- every constructor: its row of spec/opcode_table.json with fields 17, 2, 27, 12 and distinct immediates
theorem test_decode_alu_1 : Reads .mips4 [
    (0x0222D820#32, .add 17#5 2#5 27#5),
    (0x0222D821#32, .addu 17#5 2#5 27#5),
    (0x0222D822#32, .sub 17#5 2#5 27#5),
    (0x0222D823#32, .subu 17#5 2#5 27#5),
    (0x0222D82C#32, .dadd 17#5 2#5 27#5),
    (0x0222D82D#32, .daddu 17#5 2#5 27#5),
    (0x0222D82E#32, .dsub 17#5 2#5 27#5),
    (0x0222D82F#32, .dsubu 17#5 2#5 27#5),
    (0x0222D824#32, .and 17#5 2#5 27#5),
    (0x0222D825#32, .or 17#5 2#5 27#5),
    (0x0222D826#32, .xor 17#5 2#5 27#5),
    (0x0222D827#32, .nor 17#5 2#5 27#5),
    (0x0222D82A#32, .slt 17#5 2#5 27#5),
    (0x0222D82B#32, .sltu 17#5 2#5 27#5),
    (0x0222D804#32, .sllv 17#5 2#5 27#5),
    (0x0222D806#32, .srlv 17#5 2#5 27#5),
    (0x0222D807#32, .srav 17#5 2#5 27#5),
    (0x0222D814#32, .dsllv 17#5 2#5 27#5),
    (0x0222D816#32, .dsrlv 17#5 2#5 27#5),
    (0x0222D817#32, .dsrav 17#5 2#5 27#5),
    (0x0222D80B#32, .movn 17#5 2#5 27#5),
    (0x0222D80A#32, .movz 17#5 2#5 27#5),
    (0x001116C0#32, .sll 17#5 2#5 27#5),
    (0x001116C2#32, .srl 17#5 2#5 27#5),
    (0x001116C3#32, .sra 17#5 2#5 27#5),
    (0x001116F8#32, .dsll 17#5 2#5 27#5),
    (0x001116FA#32, .dsrl 17#5 2#5 27#5),
    (0x001116FB#32, .dsra 17#5 2#5 27#5),
    (0x001116FC#32, .dsll32 17#5 2#5 27#5),
    (0x001116FE#32, .dsrl32 17#5 2#5 27#5),
    (0x001116FF#32, .dsra32 17#5 2#5 27#5),
    (0x02341001#32, .movf 17#5 5#3 2#5),
    (0x02351001#32, .movt 17#5 5#3 2#5),
    (0x22228005#32, .addi 17#5 2#5 0x8005#16),
    (0x26228005#32, .addiu 17#5 2#5 0x8005#16),
    (0x2A228005#32, .slti 17#5 2#5 0x8005#16),
    (0x2E228005#32, .sltiu 17#5 2#5 0x8005#16),
    (0x32228005#32, .andi 17#5 2#5 0x8005#16),
    (0x36228005#32, .ori 17#5 2#5 0x8005#16),
    (0x3A228005#32, .xori 17#5 2#5 0x8005#16)] := by decide +kernel

theorem test_decode_alu_2 : Reads .mips4 [
    (0x62228005#32, .daddi 17#5 2#5 0x8005#16),
    (0x66228005#32, .daddiu 17#5 2#5 0x8005#16),
    (0x3C118005#32, .lui 17#5 0x8005#16)] := by decide +kernel

theorem test_decode_muldiv : Reads .mips4 [
    (0x00008810#32, .mfhi 17#5),
    (0x00008812#32, .mflo 17#5),
    (0x02200011#32, .mthi 17#5),
    (0x02200013#32, .mtlo 17#5),
    (0x0222001A#32, .div 17#5 2#5),
    (0x0222001B#32, .divu 17#5 2#5),
    (0x0222001E#32, .ddiv 17#5 2#5),
    (0x0222001F#32, .ddivu 17#5 2#5),
    (0x02220018#32, .mult 17#5 2#5),
    (0x02220019#32, .multu 17#5 2#5),
    (0x0222001C#32, .dmult 17#5 2#5),
    (0x0222001D#32, .dmultu 17#5 2#5),
    (0x72220000#32, .mad 17#5 2#5),
    (0x72220001#32, .madu 17#5 2#5),
    (0x7222D802#32, .mul 17#5 2#5 27#5)] := by decide +kernel

theorem test_decode_branch : Reads .mips4 [
    (0x0A345678#32, .j 0x2345678#26),
    (0x0E345678#32, .jal 0x2345678#26),
    (0x02200008#32, .jr 17#5),
    (0x02201009#32, .jalr 17#5 2#5),
    (0x12228005#32, .beq 17#5 2#5 0x8005#16),
    (0x16228005#32, .bne 17#5 2#5 0x8005#16),
    (0x52228005#32, .beql 17#5 2#5 0x8005#16),
    (0x56228005#32, .bnel 17#5 2#5 0x8005#16),
    (0x1A208005#32, .blez 17#5 0x8005#16),
    (0x1E208005#32, .bgtz 17#5 0x8005#16),
    (0x5A208005#32, .blezl 17#5 0x8005#16),
    (0x5E208005#32, .bgtzl 17#5 0x8005#16),
    (0x06208005#32, .bltz 17#5 0x8005#16),
    (0x06218005#32, .bgez 17#5 0x8005#16),
    (0x06228005#32, .bltzl 17#5 0x8005#16),
    (0x06238005#32, .bgezl 17#5 0x8005#16),
    (0x06308005#32, .bltzal 17#5 0x8005#16),
    (0x06318005#32, .bgezal 17#5 0x8005#16),
    (0x06328005#32, .bltzall 17#5 0x8005#16),
    (0x06338005#32, .bgezall 17#5 0x8005#16),
    (0x41008005#32, .bc0f 0x8005#16),
    (0x41018005#32, .bc0t 0x8005#16),
    (0x41028005#32, .bc0fl 0x8005#16),
    (0x41038005#32, .bc0tl 0x8005#16),
    (0x49008005#32, .bc2f 0x8005#16),
    (0x49018005#32, .bc2t 0x8005#16),
    (0x49028005#32, .bc2fl 0x8005#16),
    (0x49038005#32, .bc2tl 0x8005#16)] := by decide +kernel

theorem test_decode_cop3 : Reads .mips1 [
    (0x4D008005#32, .bc3f 0x8005#16),
    (0x4D018005#32, .bc3t 0x8005#16),
    (0x4D028005#32, .bc3fl 0x8005#16),
    (0x4D038005#32, .bc3tl 0x8005#16),
    (0xCE228005#32, .lwc3 17#5 2#5 0x8005#16),
    (0x4C111000#32, .mfc3 17#5 2#5),
    (0x4C911000#32, .mtc3 17#5 2#5),
    (0x4C511000#32, .cfc3 17#5 2#5),
    (0x4CD11000#32, .ctc3 17#5 2#5),
    (0x4F234567#32, .cop3 0x1234567#25)] := by decide +kernel

theorem test_decode_memory : Reads .mips4 [
    (0x82228005#32, .lb 17#5 2#5 0x8005#16),
    (0x92228005#32, .lbu 17#5 2#5 0x8005#16),
    (0x86228005#32, .lh 17#5 2#5 0x8005#16),
    (0x96228005#32, .lhu 17#5 2#5 0x8005#16),
    (0x8E228005#32, .lw 17#5 2#5 0x8005#16),
    (0x9E228005#32, .lwu 17#5 2#5 0x8005#16),
    (0xDE228005#32, .ld 17#5 2#5 0x8005#16),
    (0xA2228005#32, .sb 17#5 2#5 0x8005#16),
    (0xA6228005#32, .sh 17#5 2#5 0x8005#16),
    (0xAE228005#32, .sw 17#5 2#5 0x8005#16),
    (0xFE228005#32, .sd 17#5 2#5 0x8005#16),
    (0x8A228005#32, .lwl 17#5 2#5 0x8005#16),
    (0x9A228005#32, .lwr 17#5 2#5 0x8005#16),
    (0xAA228005#32, .swl 17#5 2#5 0x8005#16),
    (0xBA228005#32, .swr 17#5 2#5 0x8005#16),
    (0x6A228005#32, .ldl 17#5 2#5 0x8005#16),
    (0x6E228005#32, .ldr 17#5 2#5 0x8005#16),
    (0xB2228005#32, .sdl 17#5 2#5 0x8005#16),
    (0xB6228005#32, .sdr 17#5 2#5 0x8005#16),
    (0xC2228005#32, .ll 17#5 2#5 0x8005#16),
    (0xE2228005#32, .sc 17#5 2#5 0x8005#16),
    (0xD2228005#32, .lld 17#5 2#5 0x8005#16),
    (0xF2228005#32, .scd 17#5 2#5 0x8005#16),
    (0xCA228005#32, .lwc2 17#5 2#5 0x8005#16),
    (0xEA228005#32, .swc2 17#5 2#5 0x8005#16),
    (0xEE228005#32, .swc3 17#5 2#5 0x8005#16),
    (0xDA228005#32, .ldc2 17#5 2#5 0x8005#16),
    (0xFA228005#32, .sdc2 17#5 2#5 0x8005#16),
    (0xCE228005#32, .pref 17#5 2#5 0x8005#16)] := by decide +kernel

theorem test_decode_system : Reads .mips4 [
    (0x026AF34C#32, .syscall 0x9ABCD#20),
    (0x026AF34D#32, .brk 0x9ABCD#20),
    (0x0000044F#32, .sync 17#5),
    (0x40111000#32, .mfc0 17#5 2#5),
    (0x40911000#32, .mtc0 17#5 2#5),
    (0x40311000#32, .dmfc0 17#5 2#5),
    (0x40B11000#32, .dmtc0 17#5 2#5),
    (0x48111000#32, .mfc2 17#5 2#5),
    (0x48911000#32, .mtc2 17#5 2#5),
    (0x48511000#32, .cfc2 17#5 2#5),
    (0x48D11000#32, .ctc2 17#5 2#5),
    (0x4B234567#32, .cop2 0x1234567#25),
    (0xBE228005#32, .cache 17#5 2#5 0x8005#16),
    (0x42000001#32, .tlbr),
    (0x42000002#32, .tlbwi),
    (0x42000006#32, .tlbwr),
    (0x42000008#32, .tlbp),
    (0x42000010#32, .rfe),
    (0x42000018#32, .eret),
    (0x42000020#32, .wait),
    (0x0222B570#32, .tge 17#5 2#5 0x2D5#10),
    (0x0222B571#32, .tgeu 17#5 2#5 0x2D5#10),
    (0x0222B572#32, .tlt 17#5 2#5 0x2D5#10),
    (0x0222B573#32, .tltu 17#5 2#5 0x2D5#10),
    (0x0222B574#32, .teq 17#5 2#5 0x2D5#10),
    (0x0222B576#32, .tne 17#5 2#5 0x2D5#10),
    (0x06288005#32, .tgei 17#5 0x8005#16),
    (0x06298005#32, .tgeiu 17#5 0x8005#16),
    (0x062A8005#32, .tlti 17#5 0x8005#16),
    (0x062B8005#32, .tltiu 17#5 0x8005#16),
    (0x062C8005#32, .teqi 17#5 0x8005#16),
    (0x062E8005#32, .tnei 17#5 0x8005#16)] := by decide +kernel

theorem test_decode_fpu_moves : Reads .mips4 [
    (0x44111000#32, .mfc1 17#5 2#5),
    (0x44911000#32, .mtc1 17#5 2#5),
    (0x44511000#32, .cfc1 17#5 2#5),
    (0x44D11000#32, .ctc1 17#5 2#5),
    (0x44311000#32, .dmfc1 17#5 2#5),
    (0x44B11000#32, .dmtc1 17#5 2#5),
    (0xC6228005#32, .lwc1 17#5 2#5 0x8005#16),
    (0xD6228005#32, .ldc1 17#5 2#5 0x8005#16),
    (0xE6228005#32, .swc1 17#5 2#5 0x8005#16),
    (0xF6228005#32, .sdc1 17#5 2#5 0x8005#16),
    (0x4E2206C0#32, .lwxc1 17#5 2#5 27#5),
    (0x4E2206C1#32, .ldxc1 17#5 2#5 27#5),
    (0x4E22D808#32, .swxc1 17#5 2#5 27#5),
    (0x4E22D809#32, .sdxc1 17#5 2#5 27#5),
    (0x4E22D80F#32, .prefx 17#5 2#5 27#5),
    (0x45148005#32, .bc1f 5#3 0x8005#16),
    (0x45168005#32, .bc1fl 5#3 0x8005#16),
    (0x45158005#32, .bc1t 5#3 0x8005#16),
    (0x45178005#32, .bc1tl 5#3 0x8005#16),
    (0x46008886#32, .movS 17#5 2#5),
    (0x46148891#32, .movfS 5#3 17#5 2#5),
    (0x46158891#32, .movtS 5#3 17#5 2#5),
    (0x461116D2#32, .movzS 17#5 2#5 27#5),
    (0x461116D3#32, .movnS 17#5 2#5 27#5),
    (0x46208886#32, .movD 17#5 2#5),
    (0x46348891#32, .movfD 5#3 17#5 2#5),
    (0x46358891#32, .movtD 5#3 17#5 2#5),
    (0x463116D2#32, .movzD 17#5 2#5 27#5),
    (0x463116D3#32, .movnD 17#5 2#5 27#5)] := by decide +kernel

theorem test_decode_fpu_arith_1 : Reads .mips4 [
    (0x461116C0#32, .addS 17#5 2#5 27#5),
    (0x461116C1#32, .subS 17#5 2#5 27#5),
    (0x461116C2#32, .mulS 17#5 2#5 27#5),
    (0x461116C3#32, .divS 17#5 2#5 27#5),
    (0x46008884#32, .sqrtS 17#5 2#5),
    (0x46008885#32, .absS 17#5 2#5),
    (0x46008887#32, .negS 17#5 2#5),
    (0x46008895#32, .recipS 17#5 2#5),
    (0x46008896#32, .rsqrtS 17#5 2#5),
    (0x46008888#32, .roundLS 17#5 2#5),
    (0x46008889#32, .truncLS 17#5 2#5),
    (0x4600888A#32, .ceilLS 17#5 2#5),
    (0x4600888B#32, .floorLS 17#5 2#5),
    (0x4600888C#32, .roundWS 17#5 2#5),
    (0x4600888D#32, .truncWS 17#5 2#5),
    (0x4600888E#32, .ceilWS 17#5 2#5),
    (0x4600888F#32, .floorWS 17#5 2#5),
    (0x460088A4#32, .cvtWS 17#5 2#5),
    (0x460088A5#32, .cvtLS 17#5 2#5),
    (0x46111530#32, .cFS 17#5 2#5 5#3),
    (0x46111531#32, .cUnS 17#5 2#5 5#3),
    (0x46111532#32, .cEqS 17#5 2#5 5#3),
    (0x46111533#32, .cUeqS 17#5 2#5 5#3),
    (0x46111534#32, .cOltS 17#5 2#5 5#3),
    (0x46111535#32, .cUltS 17#5 2#5 5#3),
    (0x46111536#32, .cOleS 17#5 2#5 5#3),
    (0x46111537#32, .cUleS 17#5 2#5 5#3),
    (0x46111538#32, .cSfS 17#5 2#5 5#3),
    (0x46111539#32, .cNgleS 17#5 2#5 5#3),
    (0x4611153A#32, .cSeqS 17#5 2#5 5#3),
    (0x4611153B#32, .cNglS 17#5 2#5 5#3),
    (0x4611153C#32, .cLtS 17#5 2#5 5#3),
    (0x4611153D#32, .cNgeS 17#5 2#5 5#3),
    (0x4611153E#32, .cLeS 17#5 2#5 5#3),
    (0x4611153F#32, .cNgtS 17#5 2#5 5#3),
    (0x463116C0#32, .addD 17#5 2#5 27#5),
    (0x463116C1#32, .subD 17#5 2#5 27#5),
    (0x463116C2#32, .mulD 17#5 2#5 27#5),
    (0x463116C3#32, .divD 17#5 2#5 27#5),
    (0x46208884#32, .sqrtD 17#5 2#5)] := by decide +kernel

theorem test_decode_fpu_arith_2 : Reads .mips4 [
    (0x46208885#32, .absD 17#5 2#5),
    (0x46208887#32, .negD 17#5 2#5),
    (0x46208895#32, .recipD 17#5 2#5),
    (0x46208896#32, .rsqrtD 17#5 2#5),
    (0x46208888#32, .roundLD 17#5 2#5),
    (0x46208889#32, .truncLD 17#5 2#5),
    (0x4620888A#32, .ceilLD 17#5 2#5),
    (0x4620888B#32, .floorLD 17#5 2#5),
    (0x4620888C#32, .roundWD 17#5 2#5),
    (0x4620888D#32, .truncWD 17#5 2#5),
    (0x4620888E#32, .ceilWD 17#5 2#5),
    (0x4620888F#32, .floorWD 17#5 2#5),
    (0x462088A4#32, .cvtWD 17#5 2#5),
    (0x462088A5#32, .cvtLD 17#5 2#5),
    (0x46311530#32, .cFD 17#5 2#5 5#3),
    (0x46311531#32, .cUnD 17#5 2#5 5#3),
    (0x46311532#32, .cEqD 17#5 2#5 5#3),
    (0x46311533#32, .cUeqD 17#5 2#5 5#3),
    (0x46311534#32, .cOltD 17#5 2#5 5#3),
    (0x46311535#32, .cUltD 17#5 2#5 5#3),
    (0x46311536#32, .cOleD 17#5 2#5 5#3),
    (0x46311537#32, .cUleD 17#5 2#5 5#3),
    (0x46311538#32, .cSfD 17#5 2#5 5#3),
    (0x46311539#32, .cNgleD 17#5 2#5 5#3),
    (0x4631153A#32, .cSeqD 17#5 2#5 5#3),
    (0x4631153B#32, .cNglD 17#5 2#5 5#3),
    (0x4631153C#32, .cLtD 17#5 2#5 5#3),
    (0x4631153D#32, .cNgeD 17#5 2#5 5#3),
    (0x4631153E#32, .cLeD 17#5 2#5 5#3),
    (0x4631153F#32, .cNgtD 17#5 2#5 5#3),
    (0x462088A0#32, .cvtSD 17#5 2#5),
    (0x468088A0#32, .cvtSW 17#5 2#5),
    (0x46A088A0#32, .cvtSL 17#5 2#5),
    (0x460088A1#32, .cvtDS 17#5 2#5),
    (0x468088A1#32, .cvtDW 17#5 2#5),
    (0x46A088A1#32, .cvtDL 17#5 2#5),
    (0x4E22DB20#32, .maddS 17#5 2#5 27#5 12#5),
    (0x4E22DB21#32, .maddD 17#5 2#5 27#5 12#5),
    (0x4E22DB28#32, .msubS 17#5 2#5 27#5 12#5),
    (0x4E22DB29#32, .msubD 17#5 2#5 27#5 12#5)] := by decide +kernel

theorem test_decode_fpu_arith_3 : Reads .mips4 [
    (0x4E22DB30#32, .nmaddS 17#5 2#5 27#5 12#5),
    (0x4E22DB31#32, .nmaddD 17#5 2#5 27#5 12#5),
    (0x4E22DB38#32, .nmsubS 17#5 2#5 27#5 12#5),
    (0x4E22DB39#32, .nmsubD 17#5 2#5 27#5 12#5)] := by decide +kernel

-- R368, R893: words that are no instruction, and what each is refused as
theorem test_decode_refuses :
    decode .mips4 0x78000000#32 = .bad .reserved ∧ decode .mips4 0x00000005#32 = .bad .reserved ∧
      decode .mips3 0x4C000000#32 = .bad .reserved ∧ decode .mips1 0x42000003#32 = .bad .cop0 ∧
      decode .mips4 0x46C00000#32 = .bad .cop1 := by decide +kernel

/-! ### One step on small states -/

/-- A machine right after reset, with a status register and some general registers of its own. -/
def start (c : Cpu) (sr : Word) (regs : List (RegNum × DWord)) : State :=
  regs.foldl (fun s p => s.setGpr p.1 p.2) ((State.resetOf { Params.default with cpu := c }).setSr sr)

/-- What `f` reads of the state after an instruction. -/
def after {α : Type} (i : Instr) (s : State) (f : State → α) : Option α :=
  match exec i s with
  | .next t => some (f t)
  | _ => none

/-- On the R4600 in kernel mode, with registers 1 and 2 as given, register 3 becomes the last column. -/
abbrev Computes (rows : List (Instr × DWord × DWord × DWord)) : Prop :=
  ∀ p ∈ rows, after p.1 (start .r4600 0x00400000#32 [(1#5, p.2.1), (2#5, p.2.2.1)]) (·.gprVal 3#5) = some p.2.2.2

-- 95_test_vectors.md 2.1; ADD, ADDI, SUB, DADD, DADDI, DSUB without overflow by hand
theorem test_add_subtract : Computes [
    (.add 1#5 2#5 3#5, 0xFFFFFFFFFFFFFFFF#64, 1#64, 0#64), (.addu 1#5 2#5 3#5, 0x7FFFFFFF#64, 1#64, 0xFFFFFFFF80000000#64),
    (.addi 1#5 3#5 0xFFFF#16, 5#64, 0#64, 4#64), (.addiu 1#5 3#5 0x8000#16, 0#64, 0#64, 0xFFFFFFFFFFFF8000#64),
    (.sub 1#5 2#5 3#5, 5#64, 7#64, 0xFFFFFFFFFFFFFFFE#64), (.subu 1#5 2#5 3#5, 0#64, 1#64, 0xFFFFFFFFFFFFFFFF#64),
    (.dadd 1#5 2#5 3#5, 0x7FFFFFFF#64, 1#64, 0x80000000#64), (.daddu 1#5 2#5 3#5, 0x7FFFFFFF#64, 1#64, 0x80000000#64),
    (.daddi 1#5 3#5 0xFFFF#16, 0x100000000#64, 0#64, 0xFFFFFFFF#64),
    (.daddiu 1#5 3#5 0xFFFF#16, 0#64, 0#64, 0xFFFFFFFFFFFFFFFF#64),
    (.dsub 1#5 2#5 3#5, 0#64, 1#64, 0xFFFFFFFFFFFFFFFF#64),
    (.dsubu 1#5 2#5 3#5, 0#64, 1#64, 0xFFFFFFFFFFFFFFFF#64)] := by decide +kernel

-- 95_test_vectors.md 2.2; OR and XOR by hand
theorem test_logic : Computes [
    (.and 1#5 2#5 3#5, 0x123456789ABCDEF0#64, 0xFFFFFFFF00000000#64, 0x1234567800000000#64),
    (.andi 1#5 3#5 0xFFFF#16, 0x12345678#64, 0#64, 0x5678#64), (.or 1#5 2#5 3#5, 0xF0#64, 0x8000000000000003#64, 0x80000000000000F3#64),
    (.ori 1#5 3#5 0x8000#16, 0#64, 0#64, 0x8000#64), (.xor 1#5 2#5 3#5, 0xFF#64, 0xF0F#64, 0xFF0#64),
    (.xori 1#5 3#5 0xFFFF#16, 0xFFFFFFFFFFFFFFFF#64, 0#64, 0xFFFFFFFFFFFF0000#64),
    (.nor 1#5 0#5 3#5, 0xFFFF#64, 0#64, 0xFFFFFFFFFFFF0000#64), (.lui 3#5 0x8000#16, 0#64, 0#64, 0xFFFFFFFF80000000#64),
    (.slt 1#5 2#5 3#5, 0x80000000#64, 0#64, 0#64), (.slt 1#5 2#5 3#5, 0xFFFFFFFFFFFFFFFF#64, 1#64, 1#64),
    (.sltu 1#5 2#5 3#5, 0xFFFFFFFFFFFFFFFF#64, 1#64, 0#64), (.sltu 0#5 2#5 3#5, 0#64, 5#64, 1#64),
    (.slti 1#5 3#5 0xFFFF#16, 0xFFFFFFFFFFFFFFFE#64, 0#64, 1#64),
    (.sltiu 1#5 3#5 0xFFFF#16, 0xFFFFFFFFFFFFFFFE#64, 0#64, 1#64),
    (.sltiu 1#5 3#5 0xFFFF#16, 0xFFFFFFFFFFFFFFFF#64, 0#64, 0#64)] := by decide +kernel

-- 95_test_vectors.md 2.3: register 1 is shifted, register 2 holds the amount
theorem test_shifts : Computes [
    (.sll 1#5 3#5 31#5, 1#64, 0#64, 0xFFFFFFFF80000000#64), (.sll 1#5 3#5 0#5, 0x123456789ABCDEF0#64, 0#64, 0xFFFFFFFF9ABCDEF0#64),
    (.srl 1#5 3#5 1#5, 0xFFFFFFFF80000000#64, 0#64, 0x40000000#64),
    (.sra 1#5 3#5 1#5, 0xFFFFFFFF80000000#64, 0#64, 0xFFFFFFFFC0000000#64),
    (.sllv 2#5 1#5 3#5, 1#64, 0x21#64, 2#64), (.srlv 2#5 1#5 3#5, 0xFFFFFFFF80000000#64, 0x1F#64, 1#64),
    (.srav 2#5 1#5 3#5, 0xFFFFFFFF80000000#64, 0x20#64, 0xFFFFFFFF80000000#64),
    (.dsll 1#5 3#5 4#5, 0x0F00000000000001#64, 0#64, 0xF000000000000010#64),
    (.dsrl 1#5 3#5 4#5, 0x8000000000000000#64, 0#64, 0x0800000000000000#64),
    (.dsra 1#5 3#5 4#5, 0x8000000000000000#64, 0#64, 0xF800000000000000#64),
    (.dsll32 1#5 3#5 0#5, 0x7FFFFFFF#64, 0#64, 0x7FFFFFFF00000000#64),
    (.dsrl32 1#5 3#5 0#5, 0xFFFFFFFF00000000#64, 0#64, 0xFFFFFFFF#64),
    (.dsra32 1#5 3#5 31#5, 0x8000000000000000#64, 0#64, 0xFFFFFFFFFFFFFFFF#64),
    (.dsllv 2#5 1#5 3#5, 1#64, 0x7F#64, 0x8000000000000000#64),
    (.dsrlv 2#5 1#5 3#5, 0x8000000000000000#64, 0x40#64, 0x8000000000000000#64),
    (.dsrav 2#5 1#5 3#5, 0x8000000000000000#64, 0x20#64, 0xFFFFFFFF80000000#64)] := by decide +kernel

-- 95_test_vectors.md 2.4: the R5000 with CU1, register 1 = 7, register 3 = 9
theorem test_conditional_moves :
    ∀ p ∈ [(Instr.movn 1#5 2#5 3#5, 0#64, 9#64), (.movn 1#5 2#5 3#5, 1#64, 7#64), (.movz 1#5 2#5 3#5, 0#64, 7#64),
        (.movz 1#5 2#5 3#5, 1#64, 9#64), (.movf 1#5 0#3 3#5, 0#64, 7#64), (.movt 1#5 0#3 3#5, 0#64, 9#64)],
      after p.1 (start .r5000 0x20400000#32 [(1#5, 7#64), (2#5, p.2.1), (3#5, 9#64)]) (·.gprVal 3#5) = some p.2.2 := by
  decide +kernel

-- 95_test_vectors.md 2.1 rows 1, 7, 10, 13, 14, 16: Integer Overflow
theorem test_overflow :
    (let s := start .r4600 0x00400000#32 [(1#5, 0x7FFFFFFF#64), (2#5, 1#64)];
      exec (.add 1#5 2#5 3#5) s = .next (takeException .overflow s) ∧ exec (.add 1#5 2#5 0#5) s = .next (takeException .overflow s)) ∧
    (let s := start .r4600 0x00400000#32 [(1#5, 0xFFFFFFFF80000000#64), (2#5, 1#64)];
      exec (.sub 1#5 2#5 3#5) s = .next (takeException .overflow s) ∧
        exec (.addi 1#5 3#5 0xFFFF#16) s = .next (takeException .overflow s)) ∧
    (let s := start .r4600 0x00400000#32 [(1#5, 0x7FFFFFFFFFFFFFFF#64), (2#5, 1#64)];
      exec (.dadd 1#5 2#5 3#5) s = .next (takeException .overflow s) ∧
        exec (.daddi 1#5 3#5 1#16) s = .next (takeException .overflow s)) ∧
    let s := start .r4600 0x00400000#32 [(1#5, 0x8000000000000000#64), (2#5, 1#64)];
    exec (.dsub 1#5 2#5 3#5) s = .next (takeException .overflow s) := ⟨⟨rfl, rfl⟩, ⟨rfl, rfl⟩, ⟨rfl, rfl⟩, rfl⟩

/-- HI and LO after an instruction on registers 1 and 2, with HI and LO as given before. -/
abbrev HiLo (c : Cpu) (rows : List (Instr × DWord × DWord × DWord × DWord)) : Prop :=
  ∀ p ∈ rows, after p.1 (start c 0x00400000#32 [(1#5, p.2.1), (2#5, p.2.2.1)]) (fun t => (t.hiVal, t.loVal)) = some p.2.2.2

-- 95_test_vectors.md 2.5
theorem test_multiply_divide : HiLo .r4600 [
    (.mult 1#5 2#5, 0xFFFFFFFF80000000#64, 0xFFFFFFFF80000000#64, 0x40000000#64, 0#64),
    (.multu 1#5 2#5, 0xFFFFFFFFFFFFFFFF#64, 2#64, 1#64, 0xFFFFFFFFFFFFFFFE#64),
    (.div 1#5 2#5, 0xFFFFFFFFFFFFFFF9#64, 2#64, 0xFFFFFFFFFFFFFFFF#64, 0xFFFFFFFFFFFFFFFD#64),
    (.div 1#5 2#5, 0xFFFFFFFF80000000#64, 0xFFFFFFFFFFFFFFFF#64, 0#64, 0xFFFFFFFF80000000#64),
    (.divu 1#5 2#5, 0xFFFFFFFF80000000#64, 1#64, 0#64, 0xFFFFFFFF80000000#64),
    (.dmult 1#5 2#5, 0x7FFFFFFFFFFFFFFF#64, 2#64, 0#64, 0xFFFFFFFFFFFFFFFE#64),
    (.dmultu 1#5 2#5, 0xFFFFFFFFFFFFFFFF#64, 0xFFFFFFFFFFFFFFFF#64, 0xFFFFFFFFFFFFFFFE#64, 1#64),
    (.ddiv 1#5 2#5, 0x8000000000000000#64, 0xFFFFFFFFFFFFFFFF#64, 0#64, 0x8000000000000000#64),
    (.ddivu 1#5 2#5, 0xFFFFFFFFFFFFFFFF#64, 2#64, 1#64, 0x7FFFFFFFFFFFFFFF#64)] := by decide +kernel

-- 95_test_vectors.md 2.5 rows 20 to 23
theorem test_multiply_accumulate :
    after (.mad 1#5 2#5) ((start .r4650 0x00400000#32 [(1#5, 0xFFFFFFFFFFFFFFFE#64), (2#5, 3#64)]).setLo 5#64)
        (fun t => (t.hiVal, t.loVal)) = some (0xFFFFFFFFFFFFFFFF#64, 0xFFFFFFFFFFFFFFFF#64) ∧
    HiLo .r4650 [(.madu 1#5 2#5, 0xFFFFFFFFFFFFFFFF#64, 2#64, 1#64, 0xFFFFFFFFFFFFFFFE#64)] ∧
    after (.mul 1#5 2#5 3#5) (start .r4650 0x00400000#32 [(1#5, 0x10001#64), (2#5, 0x10001#64)]) (·.gprVal 3#5) =
      some 0x20001#64 := by decide +kernel

-- R582 to R585
theorem test_hi_lo_moves :
    let s := ((start .r3051 0x00400000#32 [(1#5, 6#64)]).setHi 7#64).setLo 8#64
    after (.mfhi 3#5) s (·.gprVal 3#5) = some 7#64 ∧ after (.mflo 3#5) s (·.gprVal 3#5) = some 8#64 ∧
      after (.mthi 1#5) s (fun t => (t.hiVal, t.loVal)) = some (6#64, 8#64) ∧
      after (.mtlo 1#5) s (fun t => (t.hiVal, t.loVal)) = some (7#64, 6#64) := by decide +kernel

/-- The state with the instruction under test at `a`. -/
def placed (s : State) (a : DWord) : State := s.gotoWith a s.trapHaz

/-- A start whose instruction under test stands at 0x80001000. -/
def startAt (c : Cpu) (sr : Word) (regs : List (RegNum × DWord)) : State :=
  placed (start c sr regs) 0xFFFFFFFF80001000#64

/-- Where an instruction at 0x80001000 leads: the low words of the next address and of the one after it,
register 31, and whether the next instruction is a delay slot. -/
abbrev Leads (c : Cpu) (rows : List (Instr × DWord × DWord × Word × Word × DWord × Bool)) : Prop :=
  ∀ p ∈ rows, after p.1 (startAt c 0xF0400000#32 [(1#5, p.2.1), (2#5, p.2.2.1)])
    (fun t => (lo32 t.pc, lo32 t.nextPc, t.gprVal 31#5, t.inDelay)) = some p.2.2.2

-- 95_test_vectors.md 2.6
theorem test_jumps_and_branches : Leads .r3051 [
    (.j 0x408#26, 0#64, 0#64, 0x80001004#32, 0x80001020#32, 0#64, true),
    (.jal 0x408#26, 0#64, 0#64, 0x80001004#32, 0x80001020#32, 0xFFFFFFFF80001008#64, true),
    (.jr 1#5, 0xFFFFFFFF80002000#64, 0#64, 0x80001004#32, 0x80002000#32, 0#64, true),
    (.jalr 1#5 31#5, 0xFFFFFFFF80002000#64, 0#64, 0x80001004#32, 0x80002000#32, 0xFFFFFFFF80001008#64, true),
    (.beq 1#5 2#5 3#16, 5#64, 5#64, 0x80001004#32, 0x80001010#32, 0#64, true),
    (.beq 1#5 2#5 3#16, 5#64, 6#64, 0x80001004#32, 0x80001008#32, 0#64, true),
    (.bne 1#5 2#5 3#16, 5#64, 6#64, 0x80001004#32, 0x80001010#32, 0#64, true),
    (.bne 1#5 2#5 0x8000#16, 5#64, 6#64, 0x80001004#32, 0x7FFE1004#32, 0#64, true),
    (.blez 1#5 3#16, 0#64, 0#64, 0x80001004#32, 0x80001010#32, 0#64, true),
    (.bgtz 1#5 3#16, 0xFFFFFFFF80000000#64, 0#64, 0x80001004#32, 0x80001008#32, 0#64, true),
    (.bltz 1#5 3#16, 0xFFFFFFFFFFFFFFFF#64, 0#64, 0x80001004#32, 0x80001010#32, 0#64, true),
    (.bgez 1#5 3#16, 0#64, 0#64, 0x80001004#32, 0x80001010#32, 0#64, true),
    (.bltzal 1#5 3#16, 1#64, 0#64, 0x80001004#32, 0x80001008#32, 0xFFFFFFFF80001008#64, true),
    (.bgezal 0#5 3#16, 0#64, 0#64, 0x80001004#32, 0x80001010#32, 0xFFFFFFFF80001008#64, true),
    -- the pins BrCond are low
    (.bc0t 3#16, 0#64, 0#64, 0x80001004#32, 0x80001008#32, 0#64, true), (.bc0f 3#16, 0#64, 0#64, 0x80001004#32, 0x80001010#32, 0#64, true),
    (.bc1f 0#3 3#16, 0#64, 0#64, 0x80001004#32, 0x80001010#32, 0#64, true), (.bc1t 0#3 3#16, 0#64, 0#64, 0x80001004#32, 0x80001008#32, 0#64, true),
    (.bc2f 3#16, 0#64, 0#64, 0x80001004#32, 0x80001010#32, 0#64, true), (.bc2t 3#16, 0#64, 0#64, 0x80001004#32, 0x80001008#32, 0#64, true),
    (.bc3f 3#16, 0#64, 0#64, 0x80001004#32, 0x80001010#32, 0#64, true), (.bc3t 3#16, 0#64, 0#64, 0x80001004#32, 0x80001008#32, 0#64, true)] := by
  decide +kernel

-- 95_test_vectors.md 2.6 rows 19, 20, 22; the other likely forms by R643 to R649, R861, R863
theorem test_branches_likely : Leads .r4600 [
    (.beql 1#5 2#5 3#16, 5#64, 6#64, 0x80001008#32, 0x8000100C#32, 0#64, false),
    (.beql 1#5 2#5 3#16, 5#64, 5#64, 0x80001004#32, 0x80001010#32, 0#64, true),
    (.bnel 1#5 2#5 3#16, 5#64, 6#64, 0x80001004#32, 0x80001010#32, 0#64, true),
    (.blezl 1#5 3#16, 0#64, 0#64, 0x80001004#32, 0x80001010#32, 0#64, true),
    (.bgtzl 1#5 3#16, 0#64, 0#64, 0x80001008#32, 0x8000100C#32, 0#64, false),
    (.bltzl 1#5 3#16, 0#64, 0#64, 0x80001008#32, 0x8000100C#32, 0#64, false),
    (.bgezl 1#5 3#16, 0x80000000#64, 0#64, 0x80001004#32, 0x80001010#32, 0#64, true),
    (.bltzall 1#5 3#16, 1#64, 0#64, 0x80001008#32, 0x8000100C#32, 0xFFFFFFFF80001008#64, false),
    (.bgezall 1#5 3#16, 1#64, 0#64, 0x80001004#32, 0x80001010#32, 0xFFFFFFFF80001008#64, true),
    (.bc1fl 0#3 3#16, 0#64, 0#64, 0x80001004#32, 0x80001010#32, 0#64, true),
    (.bc1tl 0#3 3#16, 0#64, 0#64, 0x80001008#32, 0x8000100C#32, 0#64, false)] := by decide +kernel

-- R650, R364: no signal is described, so either way; no member has coprocessor 3 and the likely forms
theorem test_coprocessor_likely :
    let s := startAt .r4600 0x70400000#32 []
    after (.bc0fl 3#16) s (fun _ => ()) = some () ∧ after (.bc0tl 3#16) s (fun _ => ()) = some () ∧
      after (.bc2fl 3#16) s (fun _ => ()) = some () ∧ after (.bc2tl 3#16) s (fun _ => ()) = some () ∧
      exec (.bc3fl 3#16) s = .next (takeException .reservedInstruction s) ∧
      exec (.bc3tl 3#16) s = .next (takeException .reservedInstruction s) := ⟨rfl, rfl, rfl, rfl, rfl, rfl⟩

/-- Bytes 11 22 33 44 55 66 77 88 99 AA BB CC DD EE FF 00 from physical address 0x100 on (95_test_vectors.md 2.7). -/
def sampleBytes : List Byte :=
  [0x11#8, 0x22#8, 0x33#8, 0x44#8, 0x55#8, 0x66#8, 0x77#8, 0x88#8, 0x99#8, 0xAA#8, 0xBB#8, 0xCC#8, 0xDD#8, 0xEE#8, 0xFF#8, 0#8]

/-- A machine of a byte order with those bytes, register 1 the address 0x100 in kseg0 and register 2 a value. -/
def loaded (c : Cpu) (big : Bool) (sr : Word) (v : DWord) : State :=
  let s := start c sr [(1#5, 0xFFFFFFFF80000100#64), (2#5, v)]
  { s with par := { s.par with bigEndianMem := big }, mem := memWriteList [] (byteAddrs id 0x100 16) sampleBytes }

/-- On the R4600, register 2 after a load, in big- and in little-endian order. -/
abbrev Loads (rows : List (Instr × DWord × DWord × DWord)) : Prop :=
  ∀ p ∈ rows, after p.1 (loaded .r4600 true 0x00400000#32 p.2.1) (·.gprVal 2#5) = some p.2.2.1 ∧
    after p.1 (loaded .r4600 false 0x00400000#32 p.2.1) (·.gprVal 2#5) = some p.2.2.2

-- 95_test_vectors.md 2.7 rows 2 to 7; the aligned loads by R680 to R686
theorem test_loads : Loads [
    (.lb 1#5 2#5 7#16, 0#64, 0xFFFFFFFFFFFFFF88#64, 0xFFFFFFFFFFFFFF88#64), (.lbu 1#5 2#5 7#16, 0#64, 0x88#64, 0x88#64),
    (.lh 1#5 2#5 6#16, 0#64, 0x7788#64, 0xFFFFFFFFFFFF8877#64), (.lhu 1#5 2#5 6#16, 0#64, 0x7788#64, 0x8877#64),
    (.lw 1#5 2#5 4#16, 0#64, 0x55667788#64, 0xFFFFFFFF88776655#64), (.lwu 1#5 2#5 4#16, 0#64, 0x55667788#64, 0x88776655#64),
    (.ld 1#5 2#5 0#16, 0#64, 0x1122334455667788#64, 0x8877665544332211#64),
    (.lwl 1#5 2#5 0#16, 0xFFFFFFFFAABBCCDD#64, 0x11223344#64, 0x11BBCCDD#64),
    (.lwl 1#5 2#5 3#16, 0xFFFFFFFFAABBCCDD#64, 0x44BBCCDD#64, 0x44332211#64),
    (.lwr 1#5 2#5 3#16, 0xFFFFFFFFAABBCCDD#64, 0x11223344#64, 0xFFFFFFFFAABBCC44#64),
    (.ldl 1#5 2#5 1#16, 0xA1A2A3A4A5A6A7A8#64, 0x22334455667788A8#64, 0x2211A3A4A5A6A7A8#64),
    (.ldr 1#5 2#5 8#16, 0x22334455667788A8#64, 0x2233445566778899#64, 0x00FFEEDDCCBBAA99#64),
    (.ll 1#5 2#5 4#16, 0#64, 0x55667788#64, 0xFFFFFFFF88776655#64),
    (.lld 1#5 2#5 0#16, 0#64, 0x1122334455667788#64, 0x8877665544332211#64)] := by decide +kernel

/-- On the R4600 with register 2 = A1A2A3A4A5A6A7A8, the doubleword at 0x100 after a store, its bytes read as one
big-endian number, in big- and in little-endian order. -/
abbrev Stores (rows : List (Instr × DWord × DWord)) : Prop :=
  ∀ p ∈ rows,
    let seen := fun t : State => ofBytes true (memReadList t.mem (byteAddrs id 0x100 8))
    after p.1 (loaded .r4600 true 0x00400000#32 0xA1A2A3A4A5A6A7A8#64) seen = some p.2.1 ∧
      after p.1 (loaded .r4600 false 0x00400000#32 0xA1A2A3A4A5A6A7A8#64) seen = some p.2.2

-- 95_test_vectors.md 2.7 row 10; the others by R690 to R703, R707
theorem test_stores : Stores [
    (.sb 1#5 2#5 1#16, 0x11A8334455667788#64, 0x11A8334455667788#64), (.sh 1#5 2#5 2#16, 0x1122A7A855667788#64, 0x1122A8A755667788#64),
    (.sw 1#5 2#5 4#16, 0x11223344A5A6A7A8#64, 0x11223344A8A7A6A5#64),
    (.sd 1#5 2#5 0#16, 0xA1A2A3A4A5A6A7A8#64, 0xA8A7A6A5A4A3A2A1#64),
    (.swl 1#5 2#5 1#16, 0x11A5A6A755667788#64, 0xA6A5334455667788#64),
    (.swr 1#5 2#5 1#16, 0xA7A8334455667788#64, 0x11A8A7A655667788#64),
    (.sdl 1#5 2#5 5#16, 0x1122334455A1A2A3#64, 0xA6A5A4A3A2A17788#64),
    (.sdr 1#5 2#5 5#16, 0xA3A4A5A6A7A87788#64, 0x1122334455A8A7A6#64)] := by decide +kernel

-- 95_test_vectors.md 2.7 rows 17, 18: register 2, the doubleword at 0x100 and LLbit after a store conditional
theorem test_store_conditional :
    let seen := fun t : State => (t.gprVal 2#5, ofBytes true (memReadList t.mem (byteAddrs id 0x100 8)), t.llBit)
    let s := loaded .r4600 true 0x00400000#32 0xA1A2A3A4A5A6A7A8#64
    let linked (d : Bool) : State :=
      s.setLink { va := 0xFFFFFFFF80000100#64, pa := 0x100, cca := 0#3, double := d }
    after (.sc 1#5 2#5 0#16) (linked false) seen = some (1#64, 0xA5A6A7A855667788#64, false) ∧
      after (.sc 1#5 2#5 0#16) s seen = some (0#64, 0x1122334455667788#64, false) ∧
      after (.scd 1#5 2#5 0#16) (linked true) seen = some (1#64, 0xA1A2A3A4A5A6A7A8#64, false) ∧
      after (.scd 1#5 2#5 0#16) s seen = some (0#64, 0x1122334455667788#64, false) := by decide +kernel

-- 95_test_vectors.md 2.7 rows 11, 12, 20: Address Error and Reserved Instruction
theorem test_load_exceptions :
    (let s := loaded .r4600 true 0x00400000#32 0#64;
      exec (.ld 1#5 2#5 4#16) s = .next (takeException (.addressError 0xFFFFFFFF80000104#64 false) s) ∧
        exec (.ll 1#5 2#5 2#16) s = .next (takeException (.addressError 0xFFFFFFFF80000102#64 false) s)) ∧
    let s := loaded .r3051 true 0x00400000#32 0#64
    exec (.ld 1#5 2#5 0#16) s = .next (takeException .reservedInstruction s) := ⟨⟨rfl, rfl⟩, rfl⟩

-- R715 to R718, R740, R774 to R776, R858: the forms of absent coprocessors and the prefetches go on to the next word
theorem test_absent_and_prefetch :
    (∀ i ∈ [Instr.lwc2 1#5 2#5 0#16, .ldc2 1#5 2#5 0#16, .swc2 1#5 2#5 0#16, .sdc2 1#5 2#5 0#16, .mtc2 2#5 3#5, .ctc2 2#5 3#5, .cop2 1#25,
        .mfc2 2#5 3#5, .cfc2 2#5 3#5, .pref 1#5 0#5 0#16, .prefx 1#5 2#5 0#5],
      after i (loaded .r5000 true 0xF0400000#32 0#64) (·.pc) = some 0xFFFFFFFFBFC00004#64) ∧
    ∀ i ∈ [Instr.lwc3 1#5 2#5 0#16, .swc3 1#5 2#5 0#16, .mtc3 2#5 3#5, .ctc3 2#5 3#5, .cop3 1#25, .mfc3 2#5 3#5, .cfc3 2#5 3#5],
      after i (loaded .r3051 true 0xF0400000#32 0#64) (·.pc) = some 0xFFFFFFFFBFC00004#64 := by decide +kernel

-- 95_test_vectors.md 2.8
theorem test_traps :
    let s := start .r4600 0x00400000#32 [(1#5, 0xFFFFFFFFFFFFFFFF#64), (2#5, 1#64), (3#5, 5#64)]
    let trap : Host.Outcome State Fault Refusal := .next (takeException .trap s)
    exec (.teq 1#5 1#5 0#10) s = trap ∧ exec (.tlt 1#5 2#5 0#10) s = trap ∧ exec (.tgeu 1#5 2#5 0#10) s = trap ∧
      exec (.teqi 1#5 0xFFFF#16) s = trap ∧ exec (.tgei 3#5 5#16) s = trap ∧ exec (.tlti 3#5 6#16) s = trap ∧
      exec (.tltiu 3#5 0xFFFF#16) s = trap ∧
      exec (.syscall 5#20) s = .next (takeException .syscall s) ∧ exec (.brk 7#20) s = .next (takeException .breakpoint s) :=
  ⟨rfl, rfl, rfl, rfl, rfl, rfl, rfl, rfl, rfl⟩

-- 95_test_vectors.md 2.8 rows 3, 6, 8, 9, 13, 16, 18
theorem test_no_trap :
    ∀ i ∈ [Instr.tne 1#5 1#5 0#10, .tltu 1#5 2#5 0#10, .tge 1#5 2#5 0#10, .tgeiu 3#5 0xFFFF#16, .tnei 3#5 5#16, .sync 0#5, .wait],
      after i (start .r4600 0x00400000#32 [(1#5, 0xFFFFFFFFFFFFFFFF#64), (2#5, 1#64), (3#5, 5#64)]) (·.pc) =
        some 0xFFFFFFFFBFC00004#64 := by decide +kernel

-- 95_test_vectors.md 2.9 rows 4 to 7
theorem test_cp0_moves :
    let s := start .r4600 0x00400000#32 [(2#5, 0x1234567880001000#64)]
    after (.dmtc0 2#5 14#5) s (·.cp0.epc) = some 0x1234567880001000#64 ∧
      after (.dmfc0 3#5 14#5) (s.setCp0 .epc 0x1234567880001000#64) (·.gprVal 3#5) = some 0x1234567880001000#64 ∧
      after (.mtc0 2#5 11#5) s (·.cp0.compare) = some 0x80001000#32 ∧
      after (.mtc0 2#5 15#5) s (·.cp0) = some s.cp0 ∧
      after (.mtc0 2#5 13#5) (start .r4600 0x00400000#32 [(2#5, 0xFFFFFFFFFFFFFFFF#64)]) (·.cp0.cause) = some 0x300#32 := by
  decide +kernel

-- R197, R770: the low word, sign-extended; the register has no reserved bits
theorem test_mfc0 : after (.mfc0 3#5 12#5) (start .r4600 0x90400000#32 []) (·.gprVal 3#5) = some 0xFFFFFFFF90400000#64 := by
  have h : after (.mfc0 3#5 12#5) (start .r4600 0x90400000#32 []) (·.gprVal 3#5) =
      some (sext (merge 0#32 0x90400000#32 (lo32 (Config.freeValue 0)))) := rfl
  rw [h, merge, BitVec.and_zero]
  rfl

-- 95_test_vectors.md 2.9 rows 9 to 15
theorem test_returns :
    (after .rfe (start .r3051 0x40C#32 []) (·.cp0.sr) = some 0x403#32 ∧
      after .rfe (start .r3051 0x30#32 []) (·.cp0.sr) = some 0x3C#32) ∧
    (let s := { start .r4600 0x00400002#32 [] with llBit := true };
      after .eret (s.setCp0 .epc 0xFFFFFFFF80001000#64) (fun t => (t.pc, t.inDelay, t.exl, t.llBit)) =
        some (0xFFFFFFFF80001000#64, false, false, false)) ∧
    after .eret ((start .r4600 0x00400006#32 []).setCp0 .errorEpc 0xFFFFFFFF80002000#64) (fun t => (t.pc, t.erl, t.exl)) =
      some (0xFFFFFFFF80002000#64, false, true) := by decide +kernel

-- R796 to R798, R305: EntryHi, EntryLo to the entry Index or Random names, back, and found
theorem test_tlb_r30xx :
    let s0 := start .r3051 0x00400000#32 []
    let s1 := { s0 with par := { s0.par with eVersion := true } }
    let s := (((s1.setCp0 .entryHi 0x12345A40#64).setCp0 .entryLo 0x67890700#64).setCp0 .index 0x500#64)
    after .tlbwi s (fun t => t.tlb64[5]) =
        some { vpn := 0x12345#20, asid := 0x29#6, pfn := 0x67890#20, n := false, d := true, v := true, g := true } ∧
      after .tlbwr s (fun t => t.tlb64[63]) =
        some { vpn := 0x12345#20, asid := 0x29#6, pfn := 0x67890#20, n := false, d := true, v := true, g := true } ∧
      after .tlbr (s.writeTlb64 5#6) (fun t => (t.cp0.entryHi, t.cp0.entryLo0)) = some (0x12345A40#64, 0x67890700#64) ∧
      after .tlbp (s.writeTlb64 7#6) (·.cp0.index) = some 0x700#32 := by decide +kernel

-- R796 to R798
theorem test_tlb_orion :
    let s := ((((start .r4600 0x00400000#32 []).setCp0 .entryHi 0x12346029#64).setCp0 .entryLo0 0x1234567#64).setCp0 .entryLo1
      0x2345679#64).setCp0 .index 0x2F#64
    after .tlbwi s (fun t => (t.tlb48[47].vpn2, t.tlb48[47].g, t.tlb48[47].even.pfn, t.tlb48[47].odd.v)) =
        some (0x91A3#27, true, 0x48D15#24, false) ∧
      after .tlbwr s (fun t => t.tlb48[47].asid) = some 0x29#8 ∧
      after .tlbr (s.setTlb48 47 (by decide)) (fun t => (t.cp0.entryHi, t.cp0.entryLo0, t.cp0.entryLo1)) =
        some (0x12346029#64, 0x1234567#64, 0x2345679#64) ∧
      after .tlbp (s.setTlb48 3 (by decide)) (·.cp0.index) = some 3#32 := by decide +kernel

-- R267, R780: a cache operation changes no memory
theorem test_cache : after (.cache 1#5 0x14#5 0#16) (loaded .r4600 true 0x00400000#32 0#64) (fun t => (t.mem.length, t.cp0.tagLo)) =
    some (15, 0#32) := by decide +kernel

/-! ### One step of floating point -/

/-- The R5000 with coprocessor 1, sixteen register pairs, and pairs 2, 4 and 8 as given. -/
def fpStart (a b r : DWord) : State :=
  (((start .r5000 0x20400000#32 [(1#5, 0xFFFFFFFF80000100#64), (2#5, 0#64), (3#5, 8#64)]).setFgrDouble 2#5 a).setFgrDouble 4#5
    b).setFgrDouble 8#5 r

/-- Pair 6 and Cause after an instruction on pairs 2, 4 and 8: the doubleword, or the low word where `wide` is false. -/
abbrev FpGives (wide : Bool) (rows : List (Instr × DWord × DWord × DWord × DWord × BitVec 5)) : Prop :=
  ∀ p ∈ rows, after p.1 (fpStart p.2.1 p.2.2.1 p.2.2.2.1)
    (fun t => (if wide then t.fgrDouble 6#5 else zext (lo32 (t.fgr 6#5)), t.fpu.fcr31.extractLsb' 12 5)) = some p.2.2.2.2

-- R900 to R908, R910 to R913, R894, R898 by hand: 1, 1.5, 2, 3 and what they give
theorem test_fp_single : FpGives false [
    (.addS 4#5 2#5 6#5, 0x3F800000#64, 0x40000000#64, 0#64, 0x40400000#64, 0#5),
    (.subS 4#5 2#5 6#5, 0x3F800000#64, 0x40000000#64, 0#64, 0xBF800000#64, 0#5),
    (.mulS 4#5 2#5 6#5, 0x3FC00000#64, 0x40000000#64, 0#64, 0x40400000#64, 0#5),
    (.mulS 4#5 2#5 6#5, 0x7F7FFFFF#64, 0x40000000#64, 0#64, 0x7F800000#64, 5#5),
    (.divS 4#5 2#5 6#5, 0x3F800000#64, 0x40400000#64, 0#64, 0x3EAAAAAB#64, 1#5),
    (.divS 4#5 2#5 6#5, 0xBF800000#64, 0#64, 0#64, 0xFF800000#64, 8#5),
    (.sqrtS 2#5 6#5, 0x40000000#64, 0#64, 0#64, 0x3FB504F3#64, 1#5), (.absS 2#5 6#5, 0xFF800000#64, 0#64, 0#64, 0x7F800000#64, 0#5),
    (.negS 2#5 6#5, 0x7FC00001#64, 0#64, 0#64, 0x7FBFFFFF#64, 16#5),
    (.recipS 2#5 6#5, 0xFF800000#64, 0#64, 0#64, 0x80000000#64, 0#5),
    (.rsqrtS 2#5 6#5, 0#64, 0#64, 0#64, 0x7F800000#64, 8#5),
    (.maddS 8#5 4#5 2#5 6#5, 0x3FC00000#64, 0x40000000#64, 0x3F800000#64, 0x40800000#64, 0#5),
    (.msubS 8#5 4#5 2#5 6#5, 0x3FC00000#64, 0x40000000#64, 0x3F800000#64, 0x40000000#64, 0#5),
    (.nmaddS 8#5 4#5 2#5 6#5, 0x3FC00000#64, 0x40000000#64, 0x3F800000#64, 0xC0800000#64, 0#5),
    (.nmsubS 8#5 4#5 2#5 6#5, 0x3FC00000#64, 0x40000000#64, 0x3F800000#64, 0xC0000000#64, 0#5)] := by decide +kernel

theorem test_fp_double : FpGives true [
    (.addD 4#5 2#5 6#5, 0x3FF0000000000000#64, 0x4000000000000000#64, 0#64, 0x4008000000000000#64, 0#5),
    (.subD 4#5 2#5 6#5, 0x3FF0000000000000#64, 0x4000000000000000#64, 0#64, 0xBFF0000000000000#64, 0#5),
    (.mulD 4#5 2#5 6#5, 0x3FF8000000000000#64, 0x4000000000000000#64, 0#64, 0x4008000000000000#64, 0#5),
    (.divD 4#5 2#5 6#5, 0x3FF0000000000000#64, 0x4008000000000000#64, 0#64, 0x3FD5555555555555#64, 1#5),
    (.divD 4#5 2#5 6#5, 0#64, 0#64, 0#64, 0x7FF7FFFFFFFFFFFF#64, 16#5),
    (.sqrtD 2#5 6#5, 0x4000000000000000#64, 0#64, 0#64, 0x3FF6A09E667F3BCD#64, 1#5),
    (.absD 2#5 6#5, 0x8000000000000000#64, 0#64, 0#64, 0#64, 0#5), (.negD 2#5 6#5, 0#64, 0#64, 0#64, 0x8000000000000000#64, 0#5),
    (.recipD 2#5 6#5, 0x8000000000000000#64, 0#64, 0#64, 0xFFF0000000000000#64, 8#5),
    (.rsqrtD 2#5 6#5, 0xBFF0000000000000#64, 0#64, 0#64, 0x7FF7FFFFFFFFFFFF#64, 16#5),
    (.maddD 8#5 4#5 2#5 6#5, 0x3FF8000000000000#64, 0x4000000000000000#64, 0x3FF0000000000000#64, 0x4010000000000000#64, 0#5),
    (.msubD 8#5 4#5 2#5 6#5, 0x3FF8000000000000#64, 0x4000000000000000#64, 0x3FF0000000000000#64, 0x4000000000000000#64, 0#5),
    (.nmaddD 8#5 4#5 2#5 6#5, 0x3FF8000000000000#64, 0x4000000000000000#64, 0x3FF0000000000000#64, 0xC010000000000000#64, 0#5),
    (.nmsubD 8#5 4#5 2#5 6#5, 0x3FF8000000000000#64, 0x4000000000000000#64, 0x3FF0000000000000#64, 0xC000000000000000#64, 0#5)] := by
  decide +kernel

-- R930, R932, R934 to R937 by hand: 2.5 and -2.5 to an integer, 1.5 and 2^24 + 1 between the formats
theorem test_fp_convert_word : FpGives false [
    (.roundWS 2#5 6#5, 0x40200000#64, 0#64, 0#64, 2#64, 1#5), (.truncWS 2#5 6#5, 0xC0200000#64, 0#64, 0#64, 0xFFFFFFFE#64, 1#5),
    (.ceilWS 2#5 6#5, 0x40200000#64, 0#64, 0#64, 3#64, 1#5), (.floorWS 2#5 6#5, 0xC0200000#64, 0#64, 0#64, 0xFFFFFFFD#64, 1#5),
    (.cvtWS 2#5 6#5, 0x4F000000#64, 0#64, 0#64, 0x7FFFFFFF#64, 16#5), (.roundWD 2#5 6#5, 0x4004000000000000#64, 0#64, 0#64, 2#64, 1#5),
    (.truncWD 2#5 6#5, 0xC004000000000000#64, 0#64, 0#64, 0xFFFFFFFE#64, 1#5),
    (.ceilWD 2#5 6#5, 0x4004000000000000#64, 0#64, 0#64, 3#64, 1#5),
    (.floorWD 2#5 6#5, 0xC004000000000000#64, 0#64, 0#64, 0xFFFFFFFD#64, 1#5),
    (.cvtWD 2#5 6#5, 0xC1E0000000000000#64, 0#64, 0#64, 0x80000000#64, 0#5),
    (.cvtSD 2#5 6#5, 0x3FF8000000000000#64, 0#64, 0#64, 0x3FC00000#64, 0#5),
    (.cvtSW 2#5 6#5, 0xFFFFFFFE#64, 0#64, 0#64, 0xC0000000#64, 0#5), (.cvtSL 2#5 6#5, 0x1000001#64, 0#64, 0#64, 0x4B800000#64, 1#5)] := by
  decide +kernel

-- R931, R933, R938 to R941 by hand
theorem test_fp_convert_long : FpGives true [
    (.roundLS 2#5 6#5, 0x40200000#64, 0#64, 0#64, 2#64, 1#5), (.truncLS 2#5 6#5, 0xC0200000#64, 0#64, 0#64, 0xFFFFFFFFFFFFFFFE#64, 1#5),
    (.ceilLS 2#5 6#5, 0x40200000#64, 0#64, 0#64, 3#64, 1#5), (.floorLS 2#5 6#5, 0xC0200000#64, 0#64, 0#64, 0xFFFFFFFFFFFFFFFD#64, 1#5),
    (.cvtLS 2#5 6#5, 0x5F000000#64, 0#64, 0#64, 0x7FFFFFFFFFFFFFFF#64, 16#5),
    (.roundLD 2#5 6#5, 0x4004000000000000#64, 0#64, 0#64, 2#64, 1#5),
    (.truncLD 2#5 6#5, 0xC004000000000000#64, 0#64, 0#64, 0xFFFFFFFFFFFFFFFE#64, 1#5),
    (.ceilLD 2#5 6#5, 0x4004000000000000#64, 0#64, 0#64, 3#64, 1#5),
    (.floorLD 2#5 6#5, 0xC004000000000000#64, 0#64, 0#64, 0xFFFFFFFFFFFFFFFD#64, 1#5),
    (.cvtLD 2#5 6#5, 0x4004000000000000#64, 0#64, 0#64, 2#64, 1#5), (.cvtDS 2#5 6#5, 0x3FC00000#64, 0#64, 0#64, 0x3FF8000000000000#64, 0#5),
    (.cvtDW 2#5 6#5, 0xFFFFFFFE#64, 0#64, 0#64, 0xC000000000000000#64, 0#5),
    (.cvtDL 2#5 6#5, 0x1000001#64, 0#64, 0#64, 0x4170000010000000#64, 0#5)] := by decide +kernel

/-- What a compare to condition code 2 makes of 1 and 2, of 2 and 2, of a quiet NaN and 2, and whether the NaN is
Invalid. -/
abbrev FpCompares (one two nan : DWord) (rows : List (Instr × Bool × Bool × Bool × Bool)) : Prop :=
  ∀ p ∈ rows, after p.1 (fpStart one two 0) (·.fcc 2#3) = some p.2.1 ∧ after p.1 (fpStart two two 0) (·.fcc 2#3) = some p.2.2.1 ∧
    after p.1 (fpStart nan two 0) (fun t => (t.fcc 2#3, bit t.fpu.fcr31 16)) = some p.2.2.2

-- R920, Tables B.20 and B.21
theorem test_fp_compare_single : FpCompares 0x3F800000#64 0x40000000#64 0x7FBFFFFF#64 [
    (.cFS 4#5 2#5 2#3, false, false, false, false), (.cUnS 4#5 2#5 2#3, false, false, true, false),
    (.cEqS 4#5 2#5 2#3, false, true, false, false), (.cUeqS 4#5 2#5 2#3, false, true, true, false),
    (.cOltS 4#5 2#5 2#3, true, false, false, false), (.cUltS 4#5 2#5 2#3, true, false, true, false),
    (.cOleS 4#5 2#5 2#3, true, true, false, false), (.cUleS 4#5 2#5 2#3, true, true, true, false),
    (.cSfS 4#5 2#5 2#3, false, false, false, true), (.cNgleS 4#5 2#5 2#3, false, false, true, true),
    (.cSeqS 4#5 2#5 2#3, false, true, false, true), (.cNglS 4#5 2#5 2#3, false, true, true, true),
    (.cLtS 4#5 2#5 2#3, true, false, false, true), (.cNgeS 4#5 2#5 2#3, true, false, true, true),
    (.cLeS 4#5 2#5 2#3, true, true, false, true), (.cNgtS 4#5 2#5 2#3, true, true, true, true)] := by decide +kernel

theorem test_fp_compare_double : FpCompares 0x3FF0000000000000#64 0x4000000000000000#64 0x7FF7FFFFFFFFFFFF#64 [
    (.cFD 4#5 2#5 2#3, false, false, false, false), (.cUnD 4#5 2#5 2#3, false, false, true, false),
    (.cEqD 4#5 2#5 2#3, false, true, false, false), (.cUeqD 4#5 2#5 2#3, false, true, true, false),
    (.cOltD 4#5 2#5 2#3, true, false, false, false), (.cUltD 4#5 2#5 2#3, true, false, true, false),
    (.cOleD 4#5 2#5 2#3, true, true, false, false), (.cUleD 4#5 2#5 2#3, true, true, true, false),
    (.cSfD 4#5 2#5 2#3, false, false, false, true), (.cNgleD 4#5 2#5 2#3, false, false, true, true),
    (.cSeqD 4#5 2#5 2#3, false, true, false, true), (.cNglD 4#5 2#5 2#3, false, true, true, true),
    (.cLtD 4#5 2#5 2#3, true, false, false, true), (.cNgeD 4#5 2#5 2#3, true, false, true, true),
    (.cLeD 4#5 2#5 2#3, true, true, false, true), (.cNgtD 4#5 2#5 2#3, true, true, true, true)] := by decide +kernel

-- R870 to R874: pair 2 moves to pair 6, which holds 0 before; register 2 is 0, register 3 is not, FCC[2] is clear
theorem test_fp_moves :
    (∀ i ∈ [Instr.movD 2#5 6#5, .movfD 2#3 2#5 6#5, .movnD 3#5 2#5 6#5, .movzD 2#5 2#5 6#5],
      after i (fpStart 0x3FF8000000000000#64 0 0) (·.fgrDouble 6#5) = some 0x3FF8000000000000#64) ∧
    after (.movtD 2#3 2#5 6#5) (fpStart 0x3FF8000000000000#64 0 0) (·.fgrDouble 6#5) = some 0#64 ∧
    (∀ i ∈ [Instr.movS 2#5 6#5, .movfS 2#3 2#5 6#5, .movnS 3#5 2#5 6#5, .movzS 2#5 2#5 6#5],
      after i (fpStart 0x3FC00000#64 0 0) (fun t => lo32 (t.fgr 6#5)) = some 0x3FC00000#32) ∧
    after (.movtS 2#3 2#5 6#5) (fpStart 0x3FC00000#64 0 0) (fun t => lo32 (t.fgr 6#5)) = some 0#32 := by decide +kernel

-- R840 to R845, R826
theorem test_fp_register_moves :
    let s := (fpStart 0x8000000011111111#64 0 0).setGpr 4#5 0x123456789ABCDEF0#64
    after (.mfc1 5#5 2#5) s (·.gprVal 5#5) = some 0x11111111#64 ∧ after (.mfc1 5#5 3#5) s (·.gprVal 5#5) = some 0xFFFFFFFF80000000#64 ∧
      after (.mtc1 4#5 6#5) s (fun t => lo32 (t.fgr 6#5)) = some 0x9ABCDEF0#32 ∧
      after (.dmfc1 5#5 2#5) s (·.gprVal 5#5) = some 0x8000000011111111#64 ∧
      after (.dmtc1 4#5 6#5) s (·.fgrDouble 6#5) = some 0x123456789ABCDEF0#64 ∧
      after (.cfc1 5#5 0#5) s (·.gprVal 5#5) = some 0x2300#64 ∧
      after (.ctc1 3#5 31#5) s (·.fpu.fcr31) = some 8#32 := by decide +kernel

-- R850 to R857
theorem test_fp_loads_and_stores :
    let s0 := ((loaded .r5000 true 0x20400000#32 0).setFgrDouble 2#5 0xA1A2A3A4A5A6A7A8#64).setGpr 3#5 8#64
    let seen := fun t : State => ofBytes true (memReadList t.mem (byteAddrs id 0x100 8))
    let seen8 := fun t : State => ofBytes true (memReadList t.mem (byteAddrs id 0x108 8))
    after (.lwc1 1#5 6#5 4#16) s0 (fun t => lo32 (t.fgr 6#5)) = some 0x55667788#32 ∧
      after (.ldc1 1#5 6#5 0#16) s0 (·.fgrDouble 6#5) = some 0x1122334455667788#64 ∧
      after (.lwxc1 1#5 3#5 6#5) s0 (fun t => lo32 (t.fgr 6#5)) = some 0x99AABBCC#32 ∧
      after (.ldxc1 1#5 3#5 6#5) s0 (·.fgrDouble 6#5) = some 0x99AABBCCDDEEFF00#64 ∧
      after (.swc1 1#5 2#5 4#16) s0 seen = some 0x11223344A5A6A7A8#64 ∧ after (.sdc1 1#5 2#5 0#16) s0 seen = some 0xA1A2A3A4A5A6A7A8#64 ∧
      after (.swxc1 1#5 3#5 2#5) s0 seen8 = some 0xA5A6A7A8DDEEFF00#64 ∧
      after (.sdxc1 1#5 3#5 2#5) s0 seen8 = some 0xA1A2A3A4A5A6A7A8#64 := by decide +kernel

/-! ### Steps -/

/-- What `f` reads of the state after one step. -/
noncomputable def afterStep {α : Type} (s : State) (f : State → α) : Option α :=
  match step s with
  | .next t => some (f t)
  | _ => none

-- R46, R57, R360: the first instruction after reset is fetched at the reset vector and runs
theorem test_step_runs_the_fetched_word :
    afterStep (State.reset.withFetchWord 32 0x24020005) (fun t => (t.gprVal 2#5, t.pc, t.inDelay)) =
        some (5#64, 0xFFFFFFFFBFC00004#64, false) ∧
      decodeTableWord 32 0x24020005 = some (.addiu 0#5 2#5 5#16) := by decide +kernel

-- R1090: an interrupt on the R4600, EPC the next instruction
theorem test_step_interrupt :
    let s := start .r4600 0x00400401#32 []
    afterStep { s with inp := { s.inp with int := 1#6 } } (fun t => (t.pc, t.cp0.epc, t.exl)) =
      some (0xFFFFFFFFBFC00380#64, 0xFFFFFFFFBFC00000#64, true) := by decide +kernel

-- R143: the timer's request is raised by the write of Count that makes it equal to Compare, and cleared by one of Compare
theorem test_timer_request :
    let s := (start .r4600 0x00400000#32 [(2#5, 0x1234#64)]).setCp0 .compare 0x1234#64
    after (.mtc0 2#5 9#5) s (·.timerIrq) = some true ∧
      after (.mtc0 2#5 11#5) { s with timerIrq := true } (·.timerIrq) = some false := by decide +kernel

-- R105, R269, R1002: a cache parity error on the R3081 sets SR.PE unless SR.PZ is set; on the R4600 it waits for its access
theorem test_cache_error :
    let hit (s : State) : State := { s with inp := { s.inp with cacheError := some 0x80000000#32 } }
    bit (hit (start .r3081 0x00400000#32 [])).ready.cp0.sr 20 = true ∧ bit (hit (start .r3081 0x00440000#32 [])).ready.cp0.sr 20 = false ∧
      (hit (start .r4600 0x00400000#32 [])).cacheErrorDue true = some 0x80000000#32 ∧
      (hit (start .r4600 0x00400000#32 [])).cacheErrorDue false = none := by decide +kernel

-- R1034, R164: the entry of a Cache Error, the zero bits of its image dropped
theorem test_cache_error_entry :
    let t := takeException (.cacheError 0xFFFFFFFF#32) (startAt .r4600 0x00400000#32 [])
    t.cp0.cacheErr = 0xFE3FFFFB#32 ∧ t.erl = true ∧ t.cp0.errorEpc = 0xFFFFFFFF80001000#64 ∧ t.pc = 0xFFFFFFFFBFC00300#64 := by
  decide +kernel

-- R164: a parity error of an internal reference (ES clear) names the access that meets it: a load at 0x80003018, a fetch at
-- 0xBFC03010, and (R1002) a fetch without a translation; an external one keeps the host's address bits
theorem test_cache_error_address :
    let hit (i : Word) (s : State) : State := { s with inp := { s.inp with cacheError := some i } }
    after (.lw 1#5 2#5 0#16) (hit 0xD03FFFFF#32 (start .r4600 0x00400000#32 [(1#5, 0xFFFFFFFF80003018#64)])) (·.cp0.cacheErr) =
        some 0xD000301B#32 ∧
      afterStep (hit 0x50000000#32 { start .r4600 0x00400000#32 [] with pc := 0xFFFFFFFFBFC03010#64 }) (·.cp0.cacheErr) =
        some 0x50003013#32 ∧
      afterStep (hit 0x50000000#32 { start .r4600 0x00400000#32 [] with pc := 0x2F98#64 }) (fun t =>
        (t.cp0.errorEpc, t.erl, t.exl)) = some (0x2F98#64, true, false) ∧
      after (.lw 1#5 2#5 0#16) (hit 0xD83FFFF9#32 (start .r4600 0x00400000#32 [(1#5, 0xFFFFFFFF80003018#64)])) (·.cp0.cacheErr) =
        some 0xD83FFFF9#32 := by decide +kernel

-- R1040, R1043, R1010: an exception in a delay slot of the R3051 in user mode
theorem test_exception_entry_30xx :
    let s := { startAt .r3051 0x0000000F#32 [] with inDelay := true }
    let t := takeException .syscall s
    t.cp0.epc = 0xFFFFFFFF80000FFC#64 ∧ t.cp0.sr = 0x3C#32 ∧ t.pc = 0xFFFFFFFF80000080#64 := by decide +kernel

-- R1041, R1011: with EXL set EPC stays, and a refill goes to the general vector
theorem test_exception_entry_4xxx :
    let s := (startAt .r4600 0x00000002#32 []).setCp0 .epc 0x1234#64
    let t := takeException (.tlbRefill 0x4000#64 false) s
    let u := takeException (.tlbRefill 0x4000#64 false) (startAt .r4600 0#32 [])
    t.cp0.epc = 0x1234#64 ∧ t.pc = 0xFFFFFFFF80000180#64 ∧
      u.cp0.epc = 0xFFFFFFFF80001000#64 ∧ u.pc = 0xFFFFFFFF80000000#64 ∧ u.cp0.badVAddr = 0x4000#64 := by decide +kernel

-- R623: the branch of a delay slot in a 64-bit user program, UX set and KX clear, is remembered by its whole address
theorem test_link_broken_wide :
    let s := placed (start .r5000 0x00000030#32 []) 0x100000004#64
    let t := takeException .syscall { s with inDelay := true, haz := { s.haz with linkSlot := true } }
    t.haz.linkBroken = [0x100000000#64] ∧ t.cp0.epc = 0x100000000#64 := by decide +kernel

-- R1149, spec/93 section 7: the R3081 is set up from kseg1 only
theorem test_config_from_kseg1 :
    (∃ t, exec (.mtc0 2#5 3#5) (start .r3081 0xF0400000#32 []) = .next t) ∧
      exec (.mtc0 2#5 3#5) (startAt .r3081 0xF0400000#32 []) = .refused .configOutsideKseg1 := ⟨⟨_, rfl⟩, rfl⟩

-- R581, R1122: a write of HI and LO too close to an MFHI is noted though the register has been written again
theorem test_hilo_breach : (do
    let s ← after (.mfhi 1#5) (startAt .r4600 0xF0400000#32 []) id
    let s ← after (.lui 1#5 5#16) s id
    after (.mult 2#5 3#5) s fun t => (t.haz.hiloBroken, t.gprVal 1#5)) = some (true, 0x50000#64) := by decide +kernel

-- R824: an odd register loaded as half of a pair is unformatted when FR makes it a register of its own
theorem test_odd_register_unformatted :
    let s := (start .r4600 0x34400000#32 []).setFpr 3#5 .w 1#64
    let t := ((s.setSr 0x30400000#32).setFgrWord 3#5 2#64).setSr 0x34400000#32
    s.tagFits 3#5 .s = false ∧ t.tagFits 3#5 .s = true ∧ t.tagFits 3#5 .w = true := by decide +kernel

-- R907: a tiny reciprocal may come out as the smallest normal number, which is within a unit of it
theorem test_recip_boundary : ∃ x, (fRecip .s .nearest x 0x7E800001#64).bits = 0x800000#64 := ⟨4#64, by decide +kernel⟩

-- R261, R262: an isolated word store makes its line valid, a byte store takes it away again, and memory keeps its byte
theorem test_isolated_cache : (do
    let s ← after (.sw 1#5 2#5 0#16) (start .r3051 0xF0410000#32 [(1#5, 0x80000100#64), (2#5, 0x12345678#64)]) id
    let t ← after (.lw 1#5 3#5 0#16) s id
    let u ← after (.sb 1#5 2#5 0#16) t id
    after (.lw 1#5 4#5 0#16) u fun v => (t.gprVal 3#5, bit t.cp0.sr 19, v.gprVal 4#5, bit v.cp0.sr 19, memRead v.mem 0x100)) =
    some (0x12345678#64, false, 0x12345678#64, true, 0#8) := by decide +kernel

/-! ### Witnesses: for each statement with hypotheses, states and operands that meet them all -/

/-- An R5000 in kernel mode with every coprocessor usable, register 1 the address 0x80000100, register 2 a value. -/
def w5 : State := loaded .r5000 true 0xF0400000#32 0x11#64

/-- The same of an R3051 and of an R4650. -/
def w3 : State := loaded .r3051 true 0xF0400000#32 0x11#64
/-- the R4650 -/
def w46 : State := loaded .r4650 true 0xF0400000#32 0x11#64

/-- The same of an R4600 in user mode with UX clear, without and with the coprocessors. -/
def wUser (cu : Bool) : State := loaded .r4600 true (if cu then 0xF0400010#32 else 0x00400010#32) 0x11#64

theorem w5_has64 : w5.Has64 := ⟨show 3 ≤ 4 by decide, .kernel, rfl, rfl⟩
theorem w5_mips4 : w5.HasIsa .mips4 := show 4 ≤ 4 by decide
theorem w5_mips2 : w5.HasIsa .mips2 := show 2 ≤ 4 by decide
theorem w5_cop0 : w5.CopUsable 0#2 := ⟨by decide, .kernel, rfl, .inl rfl⟩
theorem w5_cop1 : w5.CopUsable 1#2 := ⟨by decide, rfl⟩
theorem w5_cop2 : w5.CopUsable 2#2 := ⟨by decide, rfl⟩
theorem w3_cop0 : w3.CopUsable 0#2 := ⟨by decide, .kernel, rfl, .inl rfl⟩
theorem w3_cop3 : w3.CopUsable 3#2 := ⟨fun _ => show 1 < 3 by decide, rfl⟩
theorem w3_below_mips2 : ¬w3.HasIsa .mips2 := show ¬2 ≤ 1 by decide
theorem w3_cop (z : BitVec 2) : w3.CopUsable z := by
  refine ⟨fun _ => show 1 < 3 by decide, ?_⟩
  split
  · exact ⟨.kernel, rfl, .inl rfl⟩
  · revert z; decide +kernel
theorem wUser_cop (z : BitVec 2) (h : z ≠ 3#2) : (wUser true).CopUsable z := by
  refine ⟨fun e => absurd e h, ?_⟩
  split
  · exact ⟨.user, rfl, .inr (by subst z; rfl)⟩
  · revert z; decide +kernel
theorem settled (s : State) (r : RegNum) (h : s.haz.gpr = none) : s.Settled r := fun x => by simp [h] at x

theorem witness_DecodeOfEncode : (Instr.cop3 5#25).wellFormed .mips1 = true ∧ (Instr.maddS 1#5 2#5 3#5 4#5).wellFormed .mips4 = true :=
  ⟨rfl, rfl⟩

/-- A machine between two steps. -/
theorem start_inv : (start .r3051 0x00600000#32 []).Inv := by
  constructor <;> first | exact trivial | decide

theorem witness_StepKeepsInvariant :
    (start .r3051 0x00600000#32 []).Inv ∧ ∃ t, step (start .r3051 0x00600000#32 []) = .next t := ⟨start_inv, _, rfl⟩

/-- A chip with a TLB of each kind, and the members with registers of their own. -/
theorem witness_ResetState : Cpu.r3051.is30xx = true ∧ ({ Params.default with cpu := .r3051, eVersion := true } : Params).mmu = .tlb64 ∧
    ({ Params.default with cpu := .r3051 } : Params).mmu ≠ .tlb64 ∧ Cpu.r4600.is30xx = false ∧ Cpu.r4600.isOrionTlb = true ∧
    Cpu.r4650.is4650 = true ∧ Cpu.r3081.is3071 = true := ⟨rfl, rfl, by decide, rfl, rfl, rfl, rfl⟩

/-- Each request alone, a soft reset beside an NMI, and a running machine in a delay slot. -/
theorem witness_ResetState_running :
    (let s := { w5 with inp := { w5.inp with coldReset := true }, inDelay := true }; s.inp.coldReset = true ∧ s.inDelay = true) ∧
    (let s := { w5 with inp := { w5.inp with softReset := true, nmi := true } };
      s.inp.coldReset = false ∧ s.par.cpu.is30xx = false ∧ s.inp.softReset = true) ∧
    let s := { w5 with inp := { w5.inp with nmi := true } }
    s.inp.coldReset = false ∧ s.par.cpu.is30xx = false ∧ s.inp.softReset = false ∧ s.inp.nmi = true :=
  ⟨⟨rfl, rfl⟩, ⟨rfl, rfl, rfl⟩, rfl, rfl, rfl, rfl⟩

theorem witness_RegisterZero : (31#5 : RegNum) ≠ 0#5 ∧ (1#5 : RegNum) ≠ 31#5 := by decide

theorem witness_LogicAndCompare : (1#5 : RegNum) ≠ 0#5 ∧ (31#5 : RegNum) ≠ 0#5 := by decide

theorem witness_StepRunsDecodedInstruction :
    let s := State.reset.withFetchWord 32 0x24020005
    s.beforeFetch = none ∧ Machine.translate s.pc .fetch 4 s.ready = .ok ((0x1FC00000, 2#3), s.ready) ∧ s.iWatchHit s.pc = false ∧
      s.ready.cacheErrorDue false = none ∧ s.busErrorAt [0x1FC00000, 0x1FC00001, 0x1FC00002, 0x1FC00003] = false ∧
      decode s.par.cpu.isa (lo32 (ofBytes s.par.bigEndianMem [memRead s.mem 0x1FC00000, memRead s.mem 0x1FC00001,
        memRead s.mem 0x1FC00002, memRead s.mem 0x1FC00003])) = .ok (.addiu 0#5 2#5 5#16) :=
  ⟨rfl, rfl, rfl, rfl, rfl, by decide +kernel⟩

/-- Count one short of Compare on the R5000; on the R3041 at Compare and not; an R30xx without Count; Random counted and not, at
Wired and above it; a TLB of the R30xx and none. -/
theorem witness_StepRunsDecodedInstruction_time :
    (let s := w5.setCp0 .compare 1#64;
      s.par.cpu.is30xx = false ∧ s.par.countTicksPerStep = 1 ∧ s.cp0.count + BitVec.ofNat 32 1 = s.cp0.compare ∧
        s.par.mmu = .tlb48 ∧ s.haz.uncounted = false ∧ s.cp0.wired.toNat ≤ s.cp0.random.toNat ∧ s.cp0.random.toNat ≤ 47 ∧
        s.cp0.random ≠ s.cp0.wired) ∧
    (let s := { w5 with cp0 := { w5.cp0 with random := w5.cp0.wired }, haz := { w5.haz with uncounted := true } };
      s.par.mmu = .tlb48 ∧ s.haz.uncounted = true ∧ s.cp0.random = s.cp0.wired ∧ s.cp0.random.toNat ≤ 47) ∧
    (let s := start .r3041 0x00400000#32 [];
      s.par.cpu = .r3041 ∧ s.cp0.count ≠ s.cp0.compare ∧
        { s with cp0 := { s.cp0 with count := s.cp0.compare } }.cp0.count = s.cp0.compare) ∧
    w3.par.cpu.is30xx = true ∧ w3.par.cpu ≠ .r3041 ∧ w3.par.mmu ≠ .tlb48 ∧ w3.par.mmu ≠ .tlb64 ∧
    ({ Params.default with cpu := .r3051, eVersion := true } : Params).mmu = .tlb64 := by decide +kernel

/-- A word of each kind, with the level of a member it is reserved on: a cell that is `*` everywhere, SPECIAL2 with and
without a function, and the cells of the higher levels and of coprocessor 3. -/
theorem witness_ReservedWordTraps :
    (∀ p ∈ [(0x74000000#32, 0x1D#6, 0#6), (0x7FFFFFFF#32, 0x1F#6, 0x3F#6), (0x70000003#32, 0x1C#6, 3#6), (0x00000005#32, 0#6, 5#6),
        (0x50000000#32, 0x14#6, 0#6), (0x00000034#32, 0#6, 0x34#6), (0xDC000000#32, 0x37#6, 0#6), (0x0000000A#32, 0#6, 0x0A#6),
        (0x4C000000#32, 0x13#6, 0#6), (0xEC000000#32, 0x3B#6, 0#6)],
      (p.1 : Word).extractLsb' 26 6 = p.2.1 ∧ p.1.extractLsb' 0 6 = p.2.2) ∧
    (0x041F0000#32 : Word).extractLsb' 16 5 = 31#5 ∧ (0x04080000#32 : Word).extractLsb' 16 5 = 8#5 ∧
    Cpu.r3051.isa.rank = 1 ∧ Cpu.r4600.isa.rank = 3 ∧ Cpu.r5000.isa.rank = 4 ∧
      Cpu.r4650.is4650 = true ∧ Cpu.r4600.is4650 = false := by
  refine ⟨fun p h => ?_, rfl, rfl, rfl, rfl, rfl, rfl, rfl⟩
  fin_cases h <;> exact ⟨rfl, rfl⟩

/-- A member of each level, all coprocessors usable; and a mode without 64-bit operations. -/
theorem witness_ReservedBelowLevel :
    (¬w3.HasIsa .mips3 ∧ ¬w3.HasIsa .mips2 ∧ ¬w3.HasIsa .mips4 ∧ ∀ z, w3.CopUsable z) ∧
      ((∃ m, (wUser true).mode? = some m ∧ (wUser true).ops64 m = false) ∧ (wUser true).CopUsable 0#2 ∧
        (wUser true).CopUsable 1#2) ∧ ¬(wUser true).HasIsa .mips4 :=
  ⟨⟨show ¬3 ≤ 1 by decide, w3_below_mips2, show ¬4 ≤ 1 by decide, w3_cop⟩,
    ⟨⟨.user, rfl, rfl⟩, wUser_cop _ (by decide), wUser_cop _ (by decide)⟩, show ¬4 ≤ 3 by decide⟩

/-- The two ends of the 32-bit range and the numbers just outside, as sums and differences of words. -/
theorem witness_TrappingWordArithmetic :
    let x : DWord := 0x7FFFFFFE#64
    let y : DWord := 0xFFFFFFFF80000001#64
    isWord x = true ∧ isWord y = true ∧ (lo32 x).toInt + 1 = 0x7FFFFFFF ∧ (lo32 x).toInt + 2 = 0x80000000 ∧
      (lo32 y).toInt - 1 = -0x80000000 ∧ (lo32 y).toInt - 2 = -0x80000001 ∧ isWord 1#64 = true ∧ isWord 2#64 = true := by decide

theorem witness_WordArithmetic : isWord 0xFFFFFFFF80000000#64 = true ∧ isWord 0x7FFFFFFF#64 = true ∧ (3#5 : RegNum) ≠ 0#5 := by decide

theorem witness_DoublewordArithmetic : w5.Has64 ∧
    (0x7FFFFFFFFFFFFFFE#64 : DWord).toInt + 1 = 0x7FFFFFFFFFFFFFFF ∧ (0x7FFFFFFFFFFFFFFE#64 : DWord).toInt + 2 = 0x8000000000000000 ∧
      (0x8000000000000001#64 : DWord).toInt - 1 = -0x8000000000000000 := ⟨w5_has64, by decide, by decide, by decide⟩

theorem witness_Shifts : isWord 0xFFFFFFFF80000000#64 = true ∧ w5.Has64 := ⟨by decide, w5_has64⟩

/-- An R5000 with coprocessor 1 and one without it, and a member below MIPS IV. -/
theorem witness_ConditionalMoves : w5.HasIsa .mips4 ∧ w5.CopUsable 1#2 ∧ ¬w3.HasIsa .mips4 ∧
    let s := start .r5000 0x00400010#32 []
    s.HasIsa .mips4 ∧ s.CopUnusable 1#2 :=
  ⟨w5_mips4, w5_cop1, show ¬4 ≤ 1 by decide, show 4 ≤ 4 by decide, by decide, rfl, by decide⟩

theorem witness_HiLoMoves : w5.hiloUnread = false ∧ (3#5 : RegNum) ≠ 0#5 ∧ (3#5 : RegNum) ∉ w5.spoiled true false ∧
    w5.spoiled false true = [] := ⟨rfl, by decide, by decide +kernel, rfl⟩

theorem witness_WordMultiplyDivide : isWord 0xFFFFFFFF80000000#64 = true ∧ isWord 0xFFFFFFFFFFFFFFFF#64 = true ∧
    lo32 0xFFFFFFFFFFFFFFFF#64 ≠ 0 := by decide

theorem witness_DoublewordMultiplyDivide : w5.Has64 ∧ (0xFFFFFFFFFFFFFFFF#64 : DWord) ≠ 0 := ⟨w5_has64, by decide⟩

theorem witness_MultiplyAccumulate : w46.par.cpu.is4650 = true ∧ w5.par.cpu.is4650 = false := ⟨rfl, rfl⟩

/-- A state in which the jump or branch at the pc, linking in the register it reads, runs again. -/
def wRestarts : State := { w5 with haz := { w5.haz with linkBroken := [w5.pc] } }

theorem witness_Jumps : w5.inDelay = false ∧ w3.inDelay = false ∧ w5.Restarts 4#5 4#5 = false ∧
    wRestarts.inDelay = false ∧ wRestarts.Restarts 4#5 4#5 = true ∧ wRestarts.Restarts 4#5 5#5 = false :=
  ⟨rfl, rfl, by decide +kernel, rfl, by decide +kernel, by decide +kernel⟩

theorem witness_Branches : w5.inDelay = false ∧ w5.Restarts 31#5 31#5 = false ∧ wRestarts.inDelay = false ∧
    wRestarts.Restarts 31#5 31#5 = true := ⟨rfl, by decide +kernel, rfl, by decide +kernel⟩

theorem witness_BranchesLikely : w5.HasIsa .mips2 ∧ w5.inDelay = false ∧ ¬w3.HasIsa .mips2 ∧ w5.Restarts 31#5 31#5 = false ∧
    wRestarts.HasIsa .mips2 ∧ wRestarts.inDelay = false ∧ wRestarts.Restarts 31#5 31#5 = true :=
  ⟨w5_mips2, rfl, w3_below_mips2, by decide +kernel, w5_mips2, rfl, by decide +kernel⟩

theorem witness_ConditionBranches :
    w5.CopUsable 0#2 ∧ w5.CopUsable 2#2 ∧ w3.CopUsable 3#2 ∧ w5.inDelay = false ∧ w3.inDelay = false ∧ w3.par.cpu.is30xx = true ∧
      w5.HasIsa .mips2 ∧ w5.CopUsable 1#2 ∧ w5.par.cpu.hasFpa = true ∧ w3.par.cpu.hasFpa = false ∧ w5.haz.cond = 0 ∧
      (w3.setSr 0x00400000#32).CopUnusable 3#2 ∧ ¬w5.CopUnusable 3#2 :=
  ⟨w5_cop0, w5_cop2, w3_cop3, rfl, rfl, rfl, w5_mips2, w5_cop1, rfl, rfl, rfl, ⟨fun _ => show 1 < 3 by decide, rfl, by decide⟩,
    fun h => absurd h.2.1 (by decide +kernel)⟩

theorem witness_BranchInDelaySlotRefused :
    (let s : State := { w5 with inDelay := true };
      s.inDelay = true ∧ s.HasIsa .mips2 ∧ s.CopUsable 0#2 ∧ s.CopUsable 1#2 ∧ s.CopUsable 2#2 ∧ s.par.cpu.is30xx = false) ∧
    let s : State := { w3 with inDelay := true }
    s.inDelay = true ∧ s.CopUsable 3#2 := ⟨⟨rfl, w5_mips2, w5_cop0, w5_cop1, w5_cop2, rfl⟩, rfl, w3_cop3⟩

theorem witness_ByteOrder : 8 ≤ 8 ∧ 7 < 8 ∧ 0 < 8 := by decide

/-- An aligned address that translates, with data to read, for each width. -/
theorem w5_maps (k : Access) (hk : k = .load ∨ k = .store) (n : Nat) (hn : n ∈ [1, 2, 4, 8]) :
    w5.Maps (w5.normVa (w5.gprVal 1#5 + (0#16 : BitVec 16).signExtend 64)) k n 0x100 0#3 := by
  rcases hk with rfl | rfl <;> fin_cases hn <;> exact ⟨rfl, rfl, rfl⟩

/-- The R3051 with its data cache isolated, and with the two caches swapped too. -/
def wIsolated (swapped : Bool) : State := w3.setSr (if swapped then 0xF0430000#32 else 0xF0410000#32)

/-- An isolated access translates, cached and of every width. -/
theorem witness_isolated (k : Access) (hk : k = .load ∨ k = .store) (n : Nat) (hn : n ∈ [1, 2, 4]) (sw : Bool) :
    (wIsolated sw).isc = true ∧
      (wIsolated sw).Maps ((wIsolated sw).normVa ((wIsolated sw).gprVal 1#5 + (0#16 : BitVec 16).signExtend 64)) k n 0x100 3#3 := by
  rcases hk with rfl | rfl <;> fin_cases hn <;> cases sw <;> exact ⟨rfl, rfl, rfl, rfl⟩

/-- The R4650 watching the doubleword at 0x80000100, with EXL clear or set. -/
def wWatch (exl : Bool) : State :=
  (w46.setCp0 .dWatch 0xFFFFFFFF80000106#64).setSr (if exl then 0xF0400002#32 else 0xF0400000#32)

/-- Its loads and stores there translate and are watched. -/
theorem witness_watched (k : Access) (hk : k = .load ∨ k = .store) (n : Nat) (hn : n ∈ [1, 2, 4, 8]) (e : Bool) :
    let va := (wWatch e).normVa ((wWatch e).gprVal 1#5 + (0#16 : BitVec 16).signExtend 64)
    Machine.translate va k n (wWatch e) = .ok ((0x100, 3#3), wWatch e) ∧ (wWatch e).cacheErrorDue true = none ∧
      (wWatch e).Watches (if k.isStore then 1 else 2) va ∧ (wWatch e).exl = e ∧ (wWatch e).erl = false ∧
      (wWatch e).Readable 0x100 n := by
  rcases hk with rfl | rfl <;> fin_cases hn <;> cases e <;>
    exact ⟨rfl, rfl, ⟨rfl, by decide +kernel, by decide +kernel⟩, rfl, rfl, rfl, rfl⟩

theorem witness_AlignedLoads : w5.Has64 ∧ w5.Settled 1#5 ∧ (∀ n ∈ [1, 2, 4, 8],
      w5.Maps (w5.normVa (w5.gprVal 1#5 + (0#16 : BitVec 16).signExtend 64)) .load n 0x100 0#3 ∧ w5.Readable 0x100 n ∧
        w5.offsetUndefined 0#16 n = false) ∧ (2#5 : RegNum) ≠ 0#5 ∧ w5.hazNext = Hazards.none := by
  refine ⟨w5_has64, settled _ _ rfl, fun n hn => ⟨w5_maps _ (.inl rfl) n hn, ?_, ?_⟩, by decide, rfl⟩ <;>
    fin_cases hn <;> first | rfl | exact ⟨rfl, rfl⟩

theorem witness_AlignedStores : w5.Has64 ∧ w5.isc = false ∧ ∀ n ∈ [1, 2, 4, 8],
    w5.Maps (w5.normVa (w5.gprVal 1#5 + (0#16 : BitVec 16).signExtend 64)) .store n 0x100 0#3 ∧ w5.offsetUndefined 0#16 n = false := by
  refine ⟨w5_has64, rfl, fun n hn => ⟨w5_maps _ (.inr rfl) n hn, ?_⟩⟩
  fin_cases hn <;> rfl

/-- The board answers a read with a bus error; the host reports a cache parity error for a data access. -/
theorem witness_AlignedLoads_errors (k : Access) (hk : k = .load ∨ k = .store) (n : Nat) (hn : n ∈ [1, 2, 4, 8]) :
    let va := w5.normVa (w5.gprVal 1#5 + (0#16 : BitVec 16).signExtend 64)
    (let s : State := { w5 with inp := { w5.inp with busError := [(0x100, 1)] } };
      s.Maps va k n 0x100 0#3 ∧ s.isc = false ∧ s.busErrorAt (s.lanes 0x100 n) = true) ∧
    let s : State := { w5 with inp := { w5.inp with cacheError := some 0x80000000#32 } }
    Machine.translate va k n s = .ok ((0x100, 0#3), s) ∧ s.MeetsCacheError true 0x80000000#32 := by
  rcases hk with rfl | rfl <;> fin_cases hn <;> exact ⟨⟨⟨rfl, rfl, rfl⟩, rfl, rfl⟩, rfl, rfl, rfl, rfl, rfl⟩

/-- The last and the first byte of a doubleword; and, on a MIPS-1 member, right after a load of the register merged. -/
theorem witness_UnalignedLoads : (w5.Has64 ∧ ∀ off ∈ [0#16, 7#16],
    let va := w5.normVa (w5.gprVal 1#5 + off.signExtend 64)
    w5.Maps va .load 1 (0x100 + off.toNat) 0#3 ∧
      w5.Readable (w5.leftPart va (0x100 + off.toNat) 8).1 (w5.leftPart va (0x100 + off.toNat) 8).2 ∧
      w5.Readable (w5.rightPart va (0x100 + off.toNat) 8).1 (w5.rightPart va (0x100 + off.toNat) 8).2) ∧
    let s : State := { w3 with haz := { w3.haz with gpr := some 2#5 } }
    ¬s.Settled 2#5 ∧ s.haz.moved = false := by
  refine ⟨⟨w5_has64, fun off h => ?_⟩, fun h => h ⟨rfl, by decide⟩, rfl⟩
  fin_cases h <;> exact ⟨⟨rfl, rfl, rfl⟩, ⟨rfl, rfl⟩, ⟨rfl, rfl⟩⟩

theorem witness_UnalignedStores : w5.Has64 ∧ w5.isc = false ∧ ∀ off ∈ [0#16, 7#16],
    w5.Maps (w5.normVa (w5.gprVal 1#5 + off.signExtend 64)) .store 1 (0x100 + off.toNat) 0#3 := by
  refine ⟨w5_has64, rfl, fun off h => ?_⟩
  fin_cases h <;> exact ⟨rfl, rfl, rfl⟩

theorem witness_LoadLinked : w5.HasIsa .mips2 ∧ w5.Has64 ∧ w5.Readable 0x100 8 ∧
    w5.Maps (w5.normVa (w5.gprVal 1#5 + (0#16 : BitVec 16).signExtend 64)) .load 8 0x100 0#3 ∧ (0#3 : BitVec 3) ≠ 2#3 ∧
      w5.par.cpu.isOrionTlb = true ∧ w46.par.cpu.isOrionTlb = false :=
  ⟨w5_mips2, w5_has64, ⟨rfl, rfl⟩, w5_maps _ (.inl rfl) 8 (by decide), by decide, rfl, rfl⟩

/-- The bytes an isolated LWL and LWR take, all four of them and one. -/
theorem witness_UnalignedLoads_isolated : let s := wIsolated false
    s.isc = true ∧ ∀ off ∈ [0#16, 3#16],
      s.Maps (s.normVa (s.gprVal 1#5 + off.signExtend 64)) .load 1 (0x100 + off.toNat) 3#3 ∧
      s.Maps (s.normVa (s.gprVal 1#5 + off.signExtend 64)) .store 1 (0x100 + off.toNat) 3#3 ∧
      s.leftPart (s.normVa (s.gprVal 1#5 + off.signExtend 64)) (0x100 + off.toNat) 4 =
        (0x100 + off.toNat, if off = 0#16 then 4 else 1) := by
  refine ⟨rfl, fun off h => ?_⟩
  fin_cases h <;> exact ⟨⟨rfl, rfl, rfl⟩, ⟨rfl, rfl, rfl⟩, rfl⟩

/-- LLbit clear, and LLbit set by a load linked of the same address. -/
theorem witness_StoreConditional : w5.HasIsa .mips2 ∧ w5.Has64 ∧ w5.isc = false ∧ w5.llBit = false ∧
    w5.Maps (w5.normVa (w5.gprVal 1#5 + (0#16 : BitVec 16).signExtend 64)) .store 8 0x100 0#3 ∧
    let s := w5.setLink { va := 0xFFFFFFFF80000100#64, pa := 0x100, cca := 0#3, double := true }
    s.llBit = true ∧ s.Maps (s.normVa (s.gprVal 1#5 + (0#16 : BitVec 16).signExtend 64)) .store 8 0x100 0#3 ∧
      s.link = { va := s.normVa (s.gprVal 1#5 + (0#16 : BitVec 16).signExtend 64), pa := 0x100, cca := 0#3, double := (8 : Nat) == 8 } :=
  ⟨w5_mips2, w5_has64, rfl, rfl, w5_maps _ (.inr rfl) 8 (by decide), rfl, ⟨rfl, rfl, rfl⟩, rfl⟩

theorem witness_AbsentCoprocessors : w5.CopUsable 2#2 ∧ w3.CopUsable 3#2 ∧ w5.HasIsa .mips2 ∧ w5.isc = false ∧ w5.Readable 0x100 8 ∧
    w5.Maps (w5.normVa (w5.gprVal 1#5 + (0#16 : BitVec 16).signExtend 64)) .load 8 0x100 0#3 ∧
    w5.Maps (w5.normVa (w5.gprVal 1#5 + (0#16 : BitVec 16).signExtend 64)) .store 8 0x100 0#3 ∧
    w3.Maps (w3.normVa (w3.gprVal 1#5 + (0#16 : BitVec 16).signExtend 64)) .load 4 0x100 3#3 :=
  ⟨w5_cop2, w3_cop3, w5_mips2, rfl, ⟨rfl, rfl⟩, w5_maps _ (.inl rfl) 8 (by decide), w5_maps _ (.inr rfl) 8 (by decide), rfl, rfl, rfl⟩

/-- Isolated, an access of coprocessors 2 and 3 on the R3051 and one of coprocessor 1 on the R3081. -/
theorem witness_AbsentCoprocessors_isolated : (wIsolated false).CopUsable 2#2 ∧ (wIsolated false).CopUsable 3#2 ∧
    let s := loaded .r3081 true 0xF0410000#32 0x11#64
    s.isc = true ∧ s.CopUsable 1#2 ∧ s.par.cpu.hasFpa = true ∧
      s.Maps (s.normVa (s.gprVal 1#5 + (0#16 : BitVec 16).signExtend 64)) .load 4 0x100 3#3 ∧
      s.Maps (s.normVa (s.gprVal 1#5 + (0#16 : BitVec 16).signExtend 64)) .store 4 0x100 3#3 ∧ s.fgrHazard [3#5] = false :=
  ⟨⟨by decide, rfl⟩, ⟨fun _ => show 1 < 3 by decide, rfl⟩, rfl, ⟨by decide, rfl⟩, rfl, ⟨rfl, rfl, rfl⟩, ⟨rfl, rfl, rfl⟩, rfl⟩

theorem witness_NoEffect : w5.HasIsa .mips2 ∧ w5.HasIsa .mips4 ∧ w5.CopUsable 1#2 ∧ w5.CopUsable 0#2 ∧ w5.par.cpu.is30xx = false :=
  ⟨w5_mips2, w5_mips4, w5_cop1, w5_cop0, rfl⟩

/-- An R4650 whose mapped space ends at 0x1FFF. -/
def wBounds : State := (w46.setCp0 .dBound 0x1000#64).setGpr 1#5 0x1FFC#64

/-- The addresses just off a multiple of the size, for every size, a load and a store; on the R4650 the last word of the mapped
space and the first address beyond it, aligned and not; an indexed form. -/
theorem witness_MisalignedAccessTraps : (w5.Settled 1#5 ∧ w5.Settled 2#5 ∧ w5.mode? = some .kernel ∧ w5.Has64 ∧ w5.CopUsable 1#2 ∧
      w5.CopUsable 2#2 ∧ w3.CopUsable 3#2 ∧ w5.HasIsa .mips4 ∧
      ∀ p ∈ [(1#16, 2), (3#16, 2), (1#16, 4), (3#16, 4), (1#16, 8), (7#16, 8)], ∀ k ∈ [Access.load, Access.store],
        let va := w5.normVa (w5.gprVal 1#5 + p.1.signExtend 64)
        va.toNat % p.2 ≠ 0 ∧ w5.outOfBounds va k = false ∧ w5.boundsUnsettled va = false) ∧
    (wBounds.mode? = some .kernel ∧ wBounds.Settled 1#5 ∧ wBounds.Settled 2#5 ∧
      ∀ p ∈ [(1#16, 1, false), (3#16, 3, false), (4#16, 0, true), (5#16, 1, true)],
        let va := wBounds.normVa (wBounds.gprVal 1#5 + p.1.signExtend 64)
        va.toNat % 4 = p.2.1 ∧ wBounds.outOfBounds va .load = p.2.2 ∧ wBounds.outOfBounds va .store = p.2.2 ∧
          wBounds.boundsUnsettled va = false) ∧
    let s := w5.setGpr 3#5 1#64
    s.Settled 1#5 ∧ s.Settled 3#5 ∧ s.mode? = some .kernel ∧
      (s.gprVal 1#5 + s.gprVal 3#5).extractLsb' 62 2 = (s.gprVal 1#5).extractLsb' 62 2 ∧ (s.gprVal 1#5 + s.gprVal 3#5).toNat % 4 = 1 := by
  refine ⟨⟨settled _ _ rfl, settled _ _ rfl, rfl, w5_has64, w5_cop1, w5_cop2, w3_cop3, w5_mips4, ?_⟩,
    ⟨rfl, settled _ _ rfl, settled _ _ rfl, ?_⟩, settled _ _ rfl, settled _ _ rfl, rfl, ?_, ?_⟩ <;> decide +kernel

theorem witness_SyscallBreakAndTraps : w5.HasIsa .mips2 ∧ ¬w3.HasIsa .mips2 ∧
    decide ((5#64 : DWord).toInt ≤ (5#64 : DWord).toInt) = true ∧ decide ((5#64 : DWord).toInt ≤ (4#64 : DWord).toInt) = false :=
  ⟨w5_mips2, w3_below_mips2, by decide, by decide⟩

/-- Registers of both widths and none; on the R4650 the writes that are refused and those that are not, from unmapped space and
from the mapped space. -/
theorem witness_Cp0Moves : (w5.CopUsable 0#2 ∧ w5.Has64 ∧ cp0NameOf w5.par 14#5 = some .epc ∧ cp0Wide w5.par .epc = true ∧
      cp0NameOf w5.par 31#5 = none ∧ w5.cAlgActive .epc 0#64 = false ∧ w5.boundsActive .epc 0#64 = false) ∧
    w46.CopUsable 0#2 ∧ cp0NameOf w46.par 17#5 = some .cAlg ∧ w46.cAlgActive .cAlg 0x22233333#64 = false ∧
      (∃ v, w46.cAlgActive .cAlg v = true) ∧
      cp0NameOf w46.par 1#5 = some .iBound ∧ w46.boundsActive .iBound 0x1000#64 = false ∧
      (placed w46 0x1000#64).CopUsable 0#2 ∧ (placed w46 0x1000#64).cAlgActive .iBound 0x1000#64 = false ∧
      (placed w46 0x1000#64).boundsActive .iBound 0x1000#64 = true := by
  refine ⟨⟨w5_cop0, w5_has64, rfl, rfl, rfl, rfl, by decide +kernel⟩, ⟨by decide, .kernel, rfl, .inl rfl⟩, rfl, by decide +kernel,
    ⟨0#64, by decide +kernel⟩, rfl, by decide +kernel, ⟨by decide, .kernel, rfl, .inl rfl⟩, by decide +kernel, by decide +kernel⟩

/-- An R3081 in kseg1, where it may be set up, and in kseg0; a 32-bit register for DMTC0, and on the R4650 words for it that are
refused and one that is not. -/
theorem witness_Cp0Moves_others :
    (let s := loaded .r3081 true 0xF0400000#32 0x11#64;
      s.CopUsable 0#2 ∧ cp0NameOf s.par 3#5 = some .config ∧ (placed s 0xFFFFFFFFA0000100#64).configOutside .config = false ∧
        (placed s 0xFFFFFFFF80000100#64).configOutside .config = true ∧ s.configOutside .sr = false) ∧
    (cp0NameOf w5.par 12#5 = some .sr ∧ cp0Wide w5.par .sr = false ∧ isWord 0#64 = true ∧ w5.cAlgActive .sr 0#64 = false ∧
      w5.boundsActive .sr 0#64 = false) ∧
    w46.Has64 ∧ cp0Wide w46.par .cAlg = false ∧ isWord 0x22233333#64 = true ∧ w46.cAlgActive .cAlg 0x22233333#64 = false ∧
      w46.boundsActive .cAlg 0x22233333#64 = false ∧ w46.cAlgActive .cAlg 0#64 = true ∧
      (placed w46 0x1000#64).boundsActive .iBound 0x1000#64 = true := by
  refine ⟨⟨⟨by decide, .kernel, rfl, .inl rfl⟩, rfl, ?_, ?_, rfl⟩, ⟨rfl, rfl, ?_, rfl, ?_⟩, ⟨show 3 ≤ 3 by decide, .kernel, rfl, rfl⟩,
    rfl, ?_, ?_, ?_, ?_, ?_⟩ <;> decide +kernel

/-- A register number of each kind of member, and a number that names nothing; the members whose PRId the spec prints. -/
theorem witness_Cp0Moves_numbers :
    (3#5, Cp0Name.config) ∈ cp0Table { Params.default with cpu := .r3041 } ∧
      (10#5, Cp0Name.entryHi) ∈ cp0Table { Params.default with cpu := .r3071, eVersion := true } ∧
      (3#5, Cp0Name.entryLo1) ∈ cp0Table { Params.default with cpu := .r5000 } ∧
      (19#5, Cp0Name.dWatch) ∈ cp0Table { Params.default with cpu := .r4640 } ∧
      (∀ r ∈ [Cp0Name.index, .entryLo, .count], (9#5, r) ∉ cp0Table { Params.default with cpu := .r3051 }) ∧
    Cpu.r3041.is30xx = true ∧ Cpu.r36100.is30xx = true ∧ Cpu.r4650.is30xx = false := by decide +kernel

/-- An R3081 whose FPA has request line 3, with that line let through by SR and not. -/
def wFpa (unmasked : Bool) : State :=
  (placed (start .r3081 (if unmasked then 0x20402001#32 else 0x20400000#32) []) 0xFFFFFFFFA0000100#64).setCp0 .config 0x0C000000#64

/-- The line of the FPA, and another, in Cause. -/
theorem witness_Cp0Moves_cause : (wFpa true).par.cpu = .r3081 ∧ ((wFpa true).cp0.config.extractLsb' 26 3).toNat = 13 - 10 ∧
    ((wFpa true).cp0.config.extractLsb' 26 3).toNat ≠ 15 - 10 ∧ w5.par.cpu.is30xx = false := by decide +kernel

/-- An R30xx, an R3041 and an R4xxx; a write of Count that makes it equal to Compare and one that does not. -/
theorem witness_Cp0WriteRules : Cpu.r3041.is30xx = true ∧ lo32 1#64 ≠ w5.cp0.compare ∧ w5.par.cpu ≠ .r3041 ∧ w5.par.cpu.is30xx = false ∧ w3.par.cpu ≠ .r3041 ∧
    (w5.setCp0 .compare 0x12345678#64).par.cpu.is30xx = false ∧
    lo32 0x12345678#64 = (w5.setCp0 .compare 0x12345678#64).cp0.compare := by
  refine ⟨rfl, ?_, ?_, rfl, ?_, rfl, ?_⟩ <;> decide +kernel

/-- No coprocessor usable in user mode of an R4600 and an R5000, and on an R3051 none but coprocessor 0. -/
theorem witness_CoprocessorUnusable :
    (∀ z ∈ [0#2, 1#2, 2#2], (wUser false).CopUnusable z) ∧ (wUser false).HasIsa .mips3 ∧ (wUser false).HasIsa .mips2 ∧
      (let s := start .r5000 0x00400010#32 []; s.CopUnusable 1#2 ∧ s.HasIsa .mips4) ∧
      (start .r3051 0x00400000#32 []).CopUnusable 3#2 :=
  ⟨fun z hz => ⟨by fin_cases hz <;> decide, by fin_cases hz <;> rfl, fun _ => ⟨.user, rfl, by decide⟩⟩, show 3 ≤ 3 by decide,
    show 2 ≤ 3 by decide, ⟨⟨by decide, rfl, by decide⟩, show 4 ≤ 4 by decide⟩, fun _ => show 1 < 3 by decide, rfl, by decide⟩

theorem witness_ReturnFromException : w3.CopUsable 0#2 ∧ w3.par.cpu.is30xx = true ∧ w5.CopUsable 0#2 ∧ w5.par.cpu.is30xx = false ∧
    w5.inDelay = false := ⟨w3_cop0, rfl, w5_cop0, rfl, rfl⟩

/-- An E version whose TLB has one entry of its own, with EntryHi naming that page. -/
def wTlb64 : State :=
  let s := { w3 with par := { w3.par with eVersion := true } }
  ((s.setCp0 .entryHi 0x12345A40#64).setCp0 .entryLo 0x67890700#64).writeTlb64 7#6

theorem witness_TlbInstructions_none : w3.CopUsable 0#2 ∧ w3.par.mmu = .fixed ∧ w46.CopUsable 0#2 ∧ w46.par.mmu = .basebounds :=
  ⟨⟨by decide, .kernel, rfl, .inl rfl⟩, rfl, ⟨by decide, .kernel, rfl, .inl rfl⟩, rfl⟩

theorem witness_TlbInstructions_30xx : wTlb64.CopUsable 0#2 ∧ wTlb64.par.mmu = .tlb64 ∧
    wTlb64.tlb64Hits (wTlb64.cp0.entryHi.extractLsb' 12 20) (wTlb64.cp0.entryHi.extractLsb' 6 6) =
      [({ vpn := 0x12345#20, asid := 0x29#6, pfn := 0x67890#20, n := false, d := true, v := true, g := true }, 7)] ∧
    wTlb64.tlb64Hits 0x54321#20 0#6 = [] := ⟨⟨by decide, .kernel, rfl, .inl rfl⟩, rfl, by decide +kernel, by decide +kernel⟩

/-- Two entries that match the page EntryHi names, on both kinds of TLB. -/
theorem witness_TlbInstructions_two :
    (let s := wTlb64.writeTlb64 9#6; s.CopUsable 0#2 ∧ s.par.mmu = .tlb64 ∧
      2 ≤ (s.tlb64Hits (s.cp0.entryHi.extractLsb' 12 20) (s.cp0.entryHi.extractLsb' 6 6)).length) ∧
    let s := (w5.setTlb48 47 (by decide)).setTlb48 3 (by decide)
    s.CopUsable 0#2 ∧ s.par.mmu = .tlb48 ∧ 2 ≤ (s.tlb48Hits (s.cp0.entryHi.extractLsb' 62 2) (s.cp0.entryHi.extractLsb' 13 27)
      (s.cp0.entryHi.extractLsb' 0 8)).length :=
  ⟨⟨⟨by decide, .kernel, rfl, .inl rfl⟩, rfl, by decide +kernel⟩, ⟨by decide, .kernel, rfl, .inl rfl⟩, rfl, by decide +kernel⟩

theorem witness_TlbInstructions_orion : w5.CopUsable 0#2 ∧ w5.par.mmu = .tlb48 ∧ (w5.cp0.index.extractLsb' 0 6).toNat < 48 ∧
    w5.cp0.random.toNat < 48 ∧ pageMaskLegal (w5.cp0.pageMask.extractLsb' 13 12) = true ∧ w5.tlb48Hits 0#2 0#27 0#8 = [] ∧
    pageMaskLegal 0xFFF#12 = true ∧ ((w5.setTlb48 47 (by decide)).tlb48Hits 0#2 0#27 0#8).length = 1 :=
  ⟨w5_cop0, rfl, by decide +kernel, by decide +kernel, by decide +kernel, by decide +kernel, by decide, by decide +kernel⟩

/-- A Create Dirty Exclusive at a cached and at an uncached address, and another block. -/
theorem witness_CacheInstruction : w5.HasIsa .mips3 ∧ w5.CopUsable 0#2 ∧
    Machine.translate (w5.normVa (w5.gprVal 1#5 + (0#16 : BitVec 16).signExtend 64)) .load 1 w5 = .ok ((0x100, 0#3), w5) ∧
    (let s := w5.setGpr 1#5 0xFFFFFFFFA0000100#64;
      Machine.translate (s.normVa (s.gprVal 1#5 + (0#16 : BitVec 16).signExtend 64)) .load 1 s = .ok ((0x100, 2#3), s)) ∧
    0x11F / 32 = 0x100 / 32 ∧ 0x120 / 32 ≠ 0x100 / 32 :=
  ⟨show 3 ≤ 4 by decide, w5_cop0, rfl, rfl, by decide, by decide⟩

theorem witness_ExceptionEntry30xx : w3.par.cpu.is30xx = true ∧ Exc.syscall.common = true ∧ (Exc.tlbRefill 0x7FFFF000#64 true).common = true ∧
    bit (0x7FFFF000#64 : DWord) 31 = false ∧ bit (0xFFFFFFFFC0000000#64 : DWord) 31 = true ∧
    (Exc.tlbModified 0x7FFFF000#64).tlbVa = some 0x7FFFF000#64 ∧ Exc.syscall.tlbVa = none :=
  ⟨rfl, rfl, rfl, by decide, by decide, rfl, rfl⟩

/-- With EXL clear and set; with Context written under EXL and kept. -/
theorem witness_ExceptionEntry4xxx : w5.par.cpu.is30xx = false ∧ Exc.interrupt.common = true ∧ w5.exl = false ∧
    (w5.setSr 0x00400002#32).exl = true ∧ w5.par.contextUnderExl = true ∧
    (({ w5 with par := { w5.par with contextUnderExl := false } } : State).setSr 0x00400002#32).exl = true ∧
    (∀ va st, Exc.interrupt ≠ .tlbRefill va st) ∧ w5.par.cpu.is4650 = false ∧ Exc.syscall ≠ .interrupt ∧
    (w46.par.cpu.is30xx = false ∧ w46.par.cpu.is4650 = true) ∧ (Exc.tlbRefill 0x7FFFF000#64 true).tlbVa = some 0x7FFFF000#64 ∧
    Exc.syscall.tlbVa = none :=
  ⟨rfl, rfl, rfl, rfl, rfl, rfl, fun _ _ h => (by cases h), rfl, by decide, ⟨rfl, rfl⟩, rfl, rfl⟩

/-- The ends of the segments that choose UX, SX and KX for a refill. -/
theorem witness_ExceptionEntry4xxx_segments :
    (∀ va ∈ [0#64, 0x3FFFFFFFFFFFFFFF#64], va.toNat < 2 ^ 62) ∧
    (∀ va ∈ [0x4000000000000000#64, 0x7FFFFFFFFFFFFFFF#64, 0xFFFFFFFFC0000000#64, 0xFFFFFFFFDFFFFFFF#64], ¬va.toNat < 2 ^ 62 ∧
      (va.toNat < 2 ^ 63 ∨ (0xFFFFFFFFC0000000 ≤ va.toNat ∧ va.toNat < 0xFFFFFFFFE0000000))) ∧
    (∀ va ∈ [0x8000000000000000#64, 0xFFFFFFFFBFFFFFFF#64, 0xFFFFFFFFE0000000#64, 0xFFFFFFFFFFFFFFFF#64], ¬va.toNat < 2 ^ 62 ∧
      ¬(va.toNat < 2 ^ 63 ∨ (0xFFFFFFFFC0000000 ≤ va.toNat ∧ va.toNat < 0xFFFFFFFFE0000000))) := by simp

theorem witness_InterruptIsTaken : ∀ s ∈ [{ start .r4600 0x00400401#32 [] with inp := { State.reset.inp with int := 1#6 } },
      { start .r3051 0x00608001#32 [] with inp := { State.reset.inp with int := 0x20#6 } }],
    s.request = none ∧ s.inp.cacheError = none ∧ s.isShutDown = false ∧ s.standsStill = false ∧ s.watchDue = false ∧
      bit s.cp0.sr 0 = true ∧ (s.par.cpu.is30xx = false → s.exl = false ∧ s.erl = false) ∧
      s.causeVal.extractLsb' 8 8 &&& s.cp0.sr.extractLsb' 8 8 ≠ 0#8 := by
  intro s h
  fin_cases h <;> exact ⟨rfl, rfl, rfl, rfl, rfl, rfl, by decide +kernel, by decide +kernel⟩

/-- The same with the line asserted but interrupts disabled. -/
theorem witness_InterruptIsTaken_not :
    let s := { start .r4600 0x00400400#32 [] with inp := { State.reset.inp with int := 1#6 } }
    s.request = none ∧ s.inp.cacheError = none ∧ s.isShutDown = false ∧ s.standsStill = false ∧ s.watchDue = false ∧
      bit s.cp0.sr 0 = false := ⟨rfl, rfl, rfl, rfl, rfl, rfl⟩

/-- A postponed data watch on the R4650; a fetch that IWatch names, with EXL clear and set. -/
theorem witness_InterruptIsTaken_watch :
    (let s : State := { w46 with watchD := true };
      s.request = none ∧ s.inp.cacheError = none ∧ s.isShutDown = false ∧ s.standsStill = false ∧
        (s.watchI = true ∨ s.watchD = true) ∧ s.exl = false ∧ s.erl = false) ∧
    ∀ e : Bool,
      let s := ((w46.withFetchWord 32 0x24020005).setCp0 .iWatch 0xFFFFFFFFBFC00001#64).setSr (if e then 0xF0400002#32 else 0xF0400000#32)
      s.beforeFetch = none ∧ Machine.translate s.pc .fetch 4 s.ready = .ok ((0x1FC00000, 2#3), s.ready) ∧ s.par.cpu.is4650 = true ∧
        bit s.cp0.iWatch 0 = true ∧ s.cp0.iWatch.extractLsb' 2 30 = s.pc.extractLsb' 2 30 ∧ s.exl = e ∧ s.erl = false ∧
        s.ready.cacheErrorDue false = none ∧
        s.busErrorAt [0x1FC00000, 0x1FC00001, 0x1FC00002, 0x1FC00003] = false ∧
        decode s.par.cpu.isa (lo32 (ofBytes s.par.bigEndianMem [memRead s.mem 0x1FC00000, memRead s.mem 0x1FC00001,
          memRead s.mem 0x1FC00002, memRead s.mem 0x1FC00003])) = .ok (.addiu 0#5 2#5 5#16) := by
  refine ⟨⟨rfl, rfl, rfl, rfl, .inr rfl, rfl, rfl⟩, fun e => ?_⟩
  cases e <;> exact ⟨rfl, rfl, rfl, by decide +kernel, by decide +kernel, rfl, rfl, rfl, rfl, by decide +kernel⟩

/-- A TLB that shut down; an R3081 at a standstill; a cache parity error on an R3081 that checks parity, on one that does not, on
an R3051 and on an R4600 with SR.DE set. -/
theorem witness_InterruptIsTaken_standstill :
    (let s := wTlb64.setSr 0x00600000#32; s.request = none ∧ s.par.mmu = .tlb64 ∧ s.ts = true) ∧
    (let s := { wFpa false with halted := true }; s.request = none ∧ s.inp.cacheError = none ∧ s.par.mmu ≠ .tlb64 ∧ s.halted = true ∧
      s.causeVal.extractLsb' 10 6 = 0#6) ∧
    ∀ p ∈ [(Cpu.r3081, 0x00400000#32, true, true), (.r3081, 0x00440000#32, true, true), (.r3051, 0x00400000#32, true, false),
        (.r4600, 0x00410000#32, false, false)],
      let s := { start p.1 p.2.1 [] with inp := { State.reset.inp with cacheError := some 0#32 } }
      s.request = none ∧ s.inp.cacheError = some 0#32 ∧ s.par.cpu.is30xx = p.2.2.1 ∧ s.par.cpu.is3071 = p.2.2.2 ∧
        bit s.cp0.sr 18 = bit p.2.1 18 ∧ bit s.cp0.sr 16 = bit p.2.1 16 := by
  refine ⟨⟨rfl, rfl, rfl⟩, ⟨rfl, rfl, by decide, rfl, by decide +kernel⟩, fun p h => ?_⟩
  fin_cases h <;> exact ⟨rfl, rfl, rfl, rfl, rfl, rfl⟩

/-- A fetch that meets a cache parity error, and one that the board answers with a bus error. -/
theorem witness_InterruptIsTaken_fetch :
    (let s := { w5 with inp := { w5.inp with cacheError := some 0#32 } };
      s.beforeFetch = none ∧ (∃ seg, locate s.pc .fetch 4 s.ready = .ok (seg, s.ready) ∧
          s.ready.fetchPhys s.pc seg = some 0x1FC00000) ∧
        Machine.translate s.pc .fetch 4 s.ready = .ok ((0x1FC00000, 2#3), s.ready) ∧ s.iWatchHit s.pc = false ∧
        s.MeetsCacheError false 0#32) ∧
    (let s := { w5 with pc := 0xFFFFFFFFC0000000#64, inp := { w5.inp with cacheError := some 0#32 } };
      s.beforeFetch = none ∧ (∃ seg, locate s.pc .fetch 4 s.ready = .ok (seg, s.ready) ∧ s.ready.fetchPhys s.pc seg = none) ∧
        s.iWatchHit s.pc = false ∧ s.MeetsCacheError false 0#32) ∧
    let s := { w5 with inp := { w5.inp with busError := [(0x1FC00000, 4)] } }
    s.beforeFetch = none ∧ Machine.translate s.pc .fetch 4 s.ready = .ok ((0x1FC00000, 2#3), s.ready) ∧ s.iWatchHit s.pc = false ∧
      s.ready.cacheErrorDue false = none ∧ s.busErrorAt [0x1FC00000, 0x1FC00001, 0x1FC00002, 0x1FC00003] = true :=
  ⟨⟨rfl, ⟨_, rfl, rfl⟩, rfl, rfl, rfl, rfl, rfl, rfl⟩, ⟨rfl, ⟨.mapped, rfl, by decide +kernel⟩, rfl, rfl, rfl, rfl, rfl⟩,
    rfl, rfl, rfl, rfl, rfl⟩

/-- The first and the last word of the windows; the first and the last address of the upper half; swapped caches. -/
theorem witness_FixedSegments : w5.mode? = some .kernel ∧ w46.mode? = some .kernel ∧ (0 : Nat) < 0x20000000 ∧ 0x1FFFFFFC < 0x20000000 ∧
    0x1FFFFFFC % 4 = 0 ∧ bit w46.cp0.cAlg 18 = false ∧ bit w46.cp0.cAlg 22 = false ∧ bit w5.cp0.config 2 = false ∧
    (w5.setSr 0x00000010#32).mode? = some .user ∧ (w5.setSr 0x00000010#32).addr64 .user = false ∧
    (isWord 0xFFFFFFFF80000000#64 = true ∧ bit 0xFFFFFFFF80000000#64 31 = true ∧ (0xFFFFFFFF80000000#64 : DWord).toNat % 4 = 0) ∧
    (isWord 0xFFFFFFFFFFFFFFFC#64 = true ∧ bit 0xFFFFFFFFFFFFFFFC#64 31 = true ∧ (0xFFFFFFFFFFFFFFFC#64 : DWord).toNat % 4 = 0) ∧
    w3.swapped = false ∧ (w3.setSr 0x00420000#32).swapped = true ∧ (w3.setSr 0x00420000#32).mode? = some .kernel := by
  refine ⟨rfl, rfl, ?_, ?_, ?_, ?_, ?_, ?_, rfl, rfl, ?_, ?_, rfl, rfl, rfl⟩ <;> decide +kernel

/-- The ends of kuseg and of kseg2 on a base version, with the caches swapped and not; the ERL window of an R4600. -/
theorem witness_MappedTranslation_fixed : w3.par.mmu = .fixed ∧ w3.mode? = some .kernel ∧ w3.swapped = false ∧
    (let s := w3.setSr 0xF0420000#32; s.par.mmu = .fixed ∧ s.mode? = some .kernel ∧ s.swapped = true) ∧
    (0x7FFFFFFC#64 : DWord).toNat < 0x80000000 ∧ (0x7FFFFFFC#64 : DWord).toNat % 4 = 0 ∧
    0xC0000000 ≤ (lo32 0xFFFFFFFFC0000000#64).toNat ∧ (0xFFFFFFFFC0000000#64 : DWord).toNat % 4 = 0 ∧
    0xC0000000 ≤ (lo32 0xFFFFFFFFFFFFFFFC#64).toNat ∧
    (w5.setSr 0x00400004#32).par.mmu = .tlb48 ∧ (w5.setSr 0x00400004#32).erl = true ∧
      (w5.setSr 0x00400004#32).mode? = some .kernel := by
  refine ⟨rfl, rfl, rfl, ⟨rfl, rfl, rfl⟩, ?_, ?_, ?_, ?_, ?_, rfl, rfl, rfl⟩ <;> decide +kernel

/-- A miss, hits on an invalid, a write-protected and a good page, and two matches. -/
theorem witness_MappedTranslation_30xx : wTlb64.par.mmu = .tlb64 ∧ (0x12345FFC#64 : DWord).toNat < 0x80000000 ∧ (0x12345FFC#64 : DWord).toNat % 4 = 0 ∧
    (0x7FFFFFFC#64 : DWord).toNat < 0x80000000 ∧ wTlb64.tlb64Hits 0x7FFFF#20 0x29#6 = [] ∧
    2 ≤ ((wTlb64.writeTlb64 9#6).tlb64Hits 0x12345#20 0x29#6).length ∧
    ∀ lo ∈ [0x67890000#64, 0x67890200#64, 0x67890600#64],
      ((((wTlb64.setCp0 .entryLo lo).writeTlb64 7#6).tlb64Hits 0x12345#20 0x29#6).map fun e => (e.1.v, e.1.d, e.2)) =
        [(bit lo 9, bit lo 10, 7)] := by
  refine ⟨rfl, by decide, by decide, by decide, by decide +kernel, by decide +kernel, fun lo h => ?_⟩
  fin_cases h <;> decide +kernel

/-- An R4600 whose TLB maps the pages 0x12346000 and 0x12347000, the second invalid, with EntryHi naming the pair. -/
def wTlb48 : State :=
  ((((start .r4600 0x00400000#32 []).setCp0 .entryHi 0x12346029#64).setCp0 .entryLo0 0x1234567#64).setCp0 .entryLo1
    0x2345645#64).setTlb48 47 (by decide)

/-- A miss, a hit on either page of a pair, a pair with one store-protected page, and two matches. -/
theorem witness_MappedTranslation_orion : wTlb48.par.mmu = .tlb48 ∧ wTlb48.erl = false ∧ wTlb48.mode? = some .kernel ∧
    (0x12347FFC#64 : DWord).toNat < 0x80000000 ∧ (0x12347FFC#64 : DWord).toNat % 4 = 0 ∧
    0x12346000 / 4096 % 2 = 0 ∧ 0x12347FFC / 4096 % 2 = 1 ∧ wTlb48.tlb48Hits 0#2 0x3FFFF#27 0x29#8 = [] ∧
    ((wTlb48.tlb48Hits 0#2 0x91A3#27 0x29#8).map fun e =>
      (e.1.mask, e.1.even.v, e.1.even.d, bit e.1.even.c 2, e.1.odd.v, e.2)) = [(0#12, true, true, true, false, 47)] ∧
    (((wTlb48.setCp0 .entryLo0 0x1234543#64).setTlb48 47 (by decide)).tlb48Hits 0#2 0x91A3#27 0x29#8).map (fun e =>
      (e.1.even.v, e.1.even.d, bit e.1.even.c 2)) = [(true, false, false)] ∧
    2 ≤ ((wTlb48.setTlb48 3 (by decide)).tlb48Hits 0#2 0x91A3#27 0x29#8).length := by
  refine ⟨rfl, rfl, rfl, ?_⟩
  decide +kernel

/-- The last address within the bound and the first beyond it; and the window with ERL set. -/
theorem witness_MappedTranslation_4650 : wBounds.par.cpu.is4650 = true ∧ wBounds.erl = false ∧ wBounds.haz.bounds = 0 ∧
    wBounds.mode? = some .kernel ∧ (0x1FFC#64 : DWord).toNat / 4096 ≤ (wBounds.cp0.dBound.extractLsb' 12 19).toNat ∧
    (wBounds.cp0.dBound.extractLsb' 12 19).toNat < (0x2000#64 : DWord).toNat / 4096 ∧
    bit (wBounds.cp0.cAlg.extractLsb' 0 3) 2 = false ∧ (wBounds.setSr 0x00400004#32).erl = true ∧
    (wBounds.setSr 0x00400004#32).mode? = some .kernel := by
  refine ⟨rfl, rfl, rfl, rfl, ?_, ?_, ?_, rfl, rfl⟩ <;> decide +kernel

theorem witness_UserModeKeepsCoprocessor0 :
    let s := start .r4600 0x00400010#32 []
    s.mode? = some .user ∧ s.cu 0#2 = false ∧ ∃ t, exec (.mtc0 1#5 12#5) s = .next t := ⟨rfl, rfl, _, rfl⟩

theorem witness_FpRegisterMoves : w5.CopUsable 1#2 ∧ w5.par.cpu.hasFpa = true ∧ w5.Has64 ∧ w5.fgrHazard [2#5, 3#5] = false ∧
    bit (2#5 : RegNum) 0 = false ∧ (w5.setSr 0xF4400000#32).wideFgr = true := ⟨w5_cop1, rfl, w5_has64, rfl, by decide, rfl⟩

theorem witness_FpControlMoves : w5.CopUsable 1#2 ∧ w5.par.cpu.hasFpa = true ∧ w5.haz.fcr ≠ some 31#5 ∧
    fpaRequest (0x8#32 &&& fcr31Mask w5.par.cpu) = false ∧ fpaRequest (0x00020000#32 &&& fcr31Mask w5.par.cpu) = true ∧
    fpaRequest (0x00001080#32 &&& fcr31Mask w5.par.cpu) = true ∧ w5.par.cpu.is30xx = false :=
  ⟨w5_cop1, rfl, by decide +kernel, by decide +kernel, by decide +kernel, by decide +kernel, rfl⟩

/-- The R3081's line let through and not, for a CTC1 that sets UnImp and one that sets an enabled Cause bit. -/
theorem witness_FpControlMoves_fpa :
    (∀ o, (wFpa o).CopUsable 1#2 ∧ (wFpa o).par.cpu.hasFpa = true ∧ (wFpa o).par.cpu.is30xx = true ∧
      ((wFpa o).cp0.config.extractLsb' 26 3).toNat < 6 ∧ bit (wFpa o).cp0.sr 0 = o ∧
      bit (wFpa o).cp0.sr (10 + ((wFpa o).cp0.config.extractLsb' 26 3).toNat) = o) ∧
    bit (0x00020000#32 &&& fcr31Mask .r3081) 17 = true ∧
      (0x00001080#32 &&& fcr31Mask .r3081).extractLsb' 12 5 &&& (0x00001080#32 &&& fcr31Mask .r3081).extractLsb' 7 5 ≠ 0#5 :=
  ⟨fun o => by cases o <;> exact ⟨⟨by decide, rfl⟩, rfl, rfl, by decide +kernel, rfl, rfl⟩, by decide +kernel, by decide +kernel⟩

theorem witness_FpLoadsAndStores_loads : w5.CopUsable 1#2 ∧ w5.par.cpu.hasFpa = true ∧ w5.HasIsa .mips4 ∧ w5.Settled 1#5 ∧ w5.Settled 3#5 ∧
    (∀ n ∈ [4, 8], w5.Maps (w5.normVa (w5.gprVal 1#5 + (0#16 : BitVec 16).signExtend 64)) .load n 0x100 0#3 ∧ w5.Readable 0x100 n) ∧
    (w5.gprVal 1#5 + w5.gprVal 3#5).extractLsb' 62 2 = (w5.gprVal 1#5).extractLsb' 62 2 ∧
    w5.Maps (w5.gprVal 1#5 + w5.gprVal 3#5) .load 8 0x100 0#3 := by
  refine ⟨w5_cop1, rfl, w5_mips4, settled _ _ rfl, settled _ _ rfl, fun n hn => ⟨w5_maps _ (.inl rfl) n ?_, ?_⟩, rfl, rfl, rfl, rfl⟩ <;>
    fin_cases hn <;> first | decide | exact ⟨rfl, rfl⟩

theorem witness_FpLoadsAndStores_stores : w5.CopUsable 1#2 ∧ w5.par.cpu.hasFpa = true ∧ w5.HasIsa .mips4 ∧ w5.isc = false ∧
    (∀ n ∈ [4, 8], w5.Maps (w5.normVa (w5.gprVal 1#5 + (0#16 : BitVec 16).signExtend 64)) .store n 0x100 0#3) ∧
    (w5.gprVal 1#5 + w5.gprVal 3#5).extractLsb' 62 2 = (w5.gprVal 1#5).extractLsb' 62 2 ∧
    w5.Maps (w5.gprVal 1#5 + w5.gprVal 3#5) .store 8 0x100 0#3 ∧ w5.fgrHazard (w5.doubleRegs 2#5) = false := by
  refine ⟨w5_cop1, rfl, w5_mips4, rfl, fun n hn => w5_maps _ (.inr rfl) n ?_, rfl, ⟨rfl, rfl, rfl⟩, rfl⟩
  fin_cases hn <;> decide

/-- A base at the end of its region, and an index that leaves it. -/
theorem witness_FpLoadsAndStores_region :
    let s := (w5.setGpr 1#5 0x3FFFFFFFFFFFFFFC#64).setGpr 3#5 8#64
    s.CopUsable 1#2 ∧ s.HasIsa .mips4 ∧ s.Settled 1#5 ∧ s.Settled 3#5 ∧
      (s.gprVal 1#5 + s.gprVal 3#5).extractLsb' 62 2 ≠ (s.gprVal 1#5).extractLsb' 62 2 :=
  ⟨⟨by decide, rfl⟩, show 4 ≤ 4 by decide, settled _ _ rfl, settled _ _ rfl, by decide +kernel⟩

/-- The state of the floating-point tests: 1 and 2 in pairs 2 and 4. -/
def wFp : State := fpStart 0x3FF0000000000000#64 0x4000000000000000#64 0

theorem wFp_runs (lvl : Isa) (f g : Fmt) :
    wFp.FpRuns lvl f g [2#5, 4#5, 8#5] [6#5] ∧ wFp.FpSettled f [2#5, 4#5, 8#5] := by
  refine ⟨⟨rfl, ⟨by decide, rfl⟩, ?_, by cases f <;> rfl, by cases g <;> rfl, ?_, ?_⟩, ?_, ?_⟩
  · cases lvl <;> exact Nat.le_of_ble_eq_true rfl
  · intro x h; fin_cases h <;> rfl
  · intro x h; cases f <;> fin_cases h <;> rfl
  · show (none : Option RegNum) ≠ _; exact fun h => nomatch h
  · intro x h; cases f <;> fin_cases h <;> rfl

theorem witness_FpFormattedMoves (f : FFmt) : wFp.FpRuns .mips4 f.fmt f.fmt [2#5, 4#5, 8#5] [6#5] ∧
    ∀ src ∈ [2#5, 6#5], wFp.fgrHazard (wFp.fprRegs src f.fmt) = false := by
  refine ⟨(wFp_runs _ _ _).1, fun src h => ?_⟩
  cases f <;> fin_cases h <;> rfl

-- 1 + 2, in both formats
theorem witness_FpBinaryArithmetic (f : FFmt) : wFp.FpRuns .mips1 f.fmt f.fmt [2#5, 4#5, 8#5] [6#5] ∧
    wFp.FpSettled f.fmt [2#5, 4#5, 8#5] ∧
    wFp.FpDelivers (fAdd .s .nearest 0x3F800000#64 0x40000000#64) false false false false ∧
    wFp.FpDelivers (fDiv .d .nearest 0x3FF0000000000000#64 0x4008000000000000#64) false false false false := by
  refine ⟨(wFp_runs _ _ f.fmt).1, (wFp_runs .mips1 _ f.fmt).2, ⟨?_, ?_⟩, ?_, ?_⟩ <;> decide +kernel

theorem witness_FpUnaryArithmetic : ∀ p ∈ [(Fmt.s, Fmt.s), (.d, .s), (.w, .d), (.l, .s), (.d, .l)],
    wFp.FpRuns .mips3 p.1 p.2 [2#5, 4#5, 8#5] [6#5] ∧ wFp.FpSettled p.1 [2#5, 4#5, 8#5] :=
  fun _ _ => wFp_runs _ _ _

theorem witness_FpUnaryDelivers : wFp.FpDelivers (fToInt .d 32 .nearest 0x4004000000000000#64) false false false false ∧
    wFp.FpDelivers (fSqrt .s .nearest 0x40000000#64) false false false false := by
  refine ⟨⟨?_, ?_⟩, ?_, ?_⟩ <;> decide +kernel

-- the reciprocal of an infinity and of zero, whatever the approximation; 2 as a finite number
theorem witness_FpApproximations (x : DWord) : wFp.FpDelivers (fRecip .s .nearest x 0x7F800000#64) false false false false ∧
    wFp.FpDelivers (fRsqrt .s .nearest x 0#64) false false false false ∧
    unpackF .s 0x40000000#64 = .fin false 0x800000 (-22) ∧ unpackF .s 0#64 = .fin false 0 (-149) ∧
    (fRecip .s .nearest 0#64 0x40000000#64).e &&& (condO ||| condU) = 0 ∧
    (fRsqrt .s .nearest 0x3F350000#64 0x40000000#64).e &&& (condO ||| condU) = 0 :=
  ⟨⟨rfl, show 0#5 &&& enablesOf 0#32 = 0 by decide⟩, ⟨rfl, show condZ &&& enablesOf 0#32 = 0 by decide⟩, by decide +kernel,
    by decide +kernel, by decide +kernel, by decide +kernel⟩

theorem witness_FpMultiplyAdd (f : FFmt) : wFp.FpRuns .mips4 f.fmt f.fmt [2#5, 4#5, 8#5] [6#5] ∧
    wFp.FpSettled f.fmt [2#5, 4#5, 8#5] ∧
    let p := fMul .s .nearest 0x3FC00000#64 0x40000000#64
    wFp.FpDelivers p false false false false ∧
      wFp.FpDelivers ((fAdd .s .nearest 0x3F800000#64 p.bits).after p) false false false false := by
  refine ⟨(wFp_runs _ _ f.fmt).1, (wFp_runs .mips1 _ f.fmt).2, ⟨?_, ?_⟩, ?_, ?_⟩ <;> decide +kernel

theorem witness_FpCompares : wFp.FpDelivers (.cond 0 (fCompareCond .s 15#4 0x7FBFFFFF#64 0#64)) false true true false ∧
    wFp.FpDelivers (.cond 0 (fCompareCond .d 2#4 0x3FF0000000000000#64 0#64)) false false true false := by
  refine ⟨⟨?_, ?_⟩, ?_, ?_⟩ <;> decide +kernel

/-- The R4650 with a doubleword format, the R3081 with an odd register, in every family. -/
theorem witness_FpRejects : (∀ lvl ∈ [Isa.mips1, .mips2, .mips3], ∀ g ∈ [Fmt.s, .d, .w, .l], w46.FpRejects lvl .d g [2#5, 4#5, 6#5]) ∧
    (∀ o, ∀ f ∈ [Fmt.s, .d, .w], (wFpa o).FpRejects .mips1 f .s [2#5, 3#5]) := by
  refine ⟨fun lvl hl g _ => ⟨rfl, ⟨fun h => absurd h (by decide), rfl⟩, ?_, .inl ⟨rfl, .inl rfl⟩⟩,
    fun o f _ => ⟨by cases o <;> rfl, ⟨fun h => absurd h (by decide), by cases o <;> rfl⟩,
      by cases o <;> exact Nat.le_refl 1, .inr ⟨by cases o <;> rfl, 3#5, by simp, rfl⟩⟩⟩
  fin_cases hl <;> exact Nat.le_of_ble_eq_true rfl

/-- What each kind of member declines, and an enabled condition of each family on a member that does not decline it: a tiny
product and a denormalized operand; a quotient by zero, the root of minus 1, 2.5 to an integer, a signalling NaN compared, the
reciprocal of zero, and a multiply-add whose product or whose sum overflows. -/
theorem witness_FpEnds :
    fpDeclines wFp.par wFp.fpu.fcr31 false false false false (fMul .s .nearest 0x00800000#64 0x00800000#64) = true ∧
    fpDeclines (wFpa true).par (wFpa true).fpu.fcr31 true false false false (fAdd .s .nearest 1#64 0x3F800000#64) = true ∧
    (let s := wFp.setFcr31 0x00000F80#32
      ∀ o ∈ [fDiv .s .nearest 0x3F800000#64 0#64, fSqrt .s .nearest 0xBF800000#64, fToInt .s 32 .nearest 0x40200000#64,
          fRecip .s .nearest 0#64 0#64, fMul .s .nearest 0x7F000000#64 0x7F000000#64,
          (fAdd .s .nearest (fMul .s .nearest 0x7F000000#64 0x3F800000#64).bits 0x7F000000#64).after
            (fMul .s .nearest 0x7F000000#64 0x3F800000#64),
          .cond 0 (fCompareCond .s 2#4 0x7FC00000#64 0#64)],
        fpDeclines s.par s.fpu.fcr31 false false false false o = false ∧ o.e &&& enablesOf s.fpu.fcr31 ≠ 0) ∧
    wFp.FpDelivers (fMul .s .nearest 0x7F000000#64 0x3F800000#64) false false false false := by
  refine ⟨?_, ?_, ?_, ?_, ?_⟩ <;> decide +kernel

/-- A run on the R3081: registers of even number hold zeros, and nothing is in flight. -/
theorem witness_FpRuns_fpa (o : Bool) (f : FFmt) : (wFpa o).FpRuns .mips1 f.fmt f.fmt [2#5, 4#5] [6#5] ∧
    (wFpa o).FpSettled f.fmt [2#5, 4#5] := by
  refine ⟨⟨by cases o <;> rfl, ⟨fun h => absurd h (by decide), by cases o <;> rfl⟩,
    by cases o <;> exact Nat.le_refl 1, by cases o <;> cases f <;> rfl,
    by cases o <;> cases f <;> rfl, ?_, ?_⟩, ?_, ?_⟩
  · intro x h; cases o <;> fin_cases h <;> rfl
  · intro x h; cases o <;> cases f <;> fin_cases h <;> rfl
  · cases o <;> (show (none : Option RegNum) ≠ _; exact fun h => nomatch h)
  · intro x h; cases o <;> cases f <;> fin_cases h <;> rfl

/-- A word of each list of formats marked U, with the level it wants: fmt 16 and 17 converted to itself, 20, 21 and COP1X. -/
theorem witness_FpExceptionTaken_words :
    (∀ p ∈ [(0x46000020#32, 0x11, 16, 0x20), (0x46200021#32, 0x11, 17, 0x21), (0x46800000#32, 0x11, 20, 0), (0x46800004#32, 0x11, 20, 4),
        (0x46800025#32, 0x11, 20, 0x25), (0x46800016#32, 0x11, 20, 0x16), (0x46A0003F#32, 0x11, 21, 0x3F),
        (0x46A00011#32, 0x11, 21, 0x11), (0x4C000024#32, 0x13, 0, 0x24), (0x4C00003D#32, 0x13, 0, 0x3D)],
      ((p.1 : Word).extractLsb' 26 6).toNat = p.2.1 ∧ (p.1.extractLsb' 21 5).toNat = p.2.2.1 ∧ (p.1.extractLsb' 0 6).toNat = p.2.2.2) ∧
    w5.par.cpu.hasFpa = true ∧ w5.CopUsable 1#2 ∧ w5.par.cpu.isa.rank = 4 := by
  refine ⟨fun p h => ?_, rfl, w5_cop1, rfl⟩
  fin_cases h <;> decide

-- a division by zero with its enable set
theorem witness_FpExceptionTaken :
    let s := wFp.setFcr31 0x00000400#32
    let o := fDiv .s .nearest 0x3F800000#64 0#64
    s.par.cpu.is30xx = false ∧ fpDeclines s.par s.fpu.fcr31 false false false false o = false ∧ o.e &&& enablesOf s.fpu.fcr31 ≠ 0 ∧
      s.FpSettled .s [2#5, 4#5] := by
  refine ⟨rfl, ?_, by decide +kernel, ?_, ?_⟩
  · decide +kernel
  · show (none : Option RegNum) ≠ _; exact fun h => nomatch h
  · intro x h; fin_cases h <;> rfl

-- a tie
theorem witness_RoundingToNeighbour : 2 * (2 * 2 ^ 1) + 2 ^ 1 = 2 * 5 ∧ roundNat .nearest false 5 1 false = (2, true) := by decide

/-- 1, the largest and the smallest number, zero, and minus 1. -/
theorem witness_FpFiniteResults : unpackF .s 0x3F800000#64 = .fin false 0x800000 (-23) ∧
    unpackF .s 0x7F7FFFFF#64 = .fin false 0xFFFFFF 104 ∧ unpackF .s 1#64 = .fin false 1 (-149) ∧
    unpackF .d 0#64 = .fin false 0 (-1074) ∧ unpackF .d 0xBFF0000000000000#64 = .fin true 0x10000000000000 (-52) ∧
    (0x800000 : Nat) ≠ 0 := by decide +kernel

/-- Minus 1, 2.5 and 2^31 to integers, the last of which does not fit 32 bits; a number that is no NaN and not denormalized. -/
theorem witness_FpFiniteResults_integers : fToInt .d 32 .nearest 0xBFF0000000000000#64 = .cond 0xFFFFFFFFFFFFFFFF#64 0 ∧
    fToInt .d 32 .nearest 0x4004000000000000#64 = .cond 2#64 condI ∧ fToInt .d 32 .zero 0x41E0000000000000#64 = .cond 0x7FFFFFFF#64 condV ∧
    isNan .s 0x3F800000#64 = false ∧ isDenorm .s 0x3F800000#64 = false ∧ isDenorm .s 0x80000001#64 = true ∧
    unpackF .s 0xBF800000#64 = .fin true 0x800000 (-23) := by decide +kernel

/-- A NaN of both kinds, both infinities, zero and 1 as the operands of the special cases. -/
theorem witness_FpSpecialCases : isSNan .s 0x7FC00000#64 = true ∧ isSNan .s 0x7FBFFFFF#64 = false ∧ isNan .s 0x7FBFFFFF#64 = true ∧
    unpackF .s 0x7F800000#64 = .inf false ∧ unpackF .s 0xFF800000#64 = .inf (!false) ∧ unpackF .s 0#64 = .fin false 0 (-149) ∧
    unpackF .s 0x3F800000#64 = .fin false 0x800000 (-23) ∧ unpackF .d 0x7FF0000000000000#64 = .inf false := by
  decide +kernel

end Sys2Proof.Tests
end

section
/-! PROOFS. The conditional moves (R560 to R563): the operation MOVZ and MOVN share, the one MOVF and MOVT share, what each
does, and the statement. -/

namespace Sys2Proof.Machine

/-! ### The shared step: a move that a condition lets through -/

/-- The operand is read whatever the condition; the destination is written only where it holds. -/
theorem moveIf_ok (c : Bool) (rs rd : RegNum) (s : State) :
    ∃ a n, moveIf c rs rd s = .ok ((), if c then (s.skip n).putGpr rd a else s.skip n) ∧ s.Reads rs a ∧ s.narrow a = a := by
  obtain ⟨a, n, h, ra, na⟩ := read1 rs s fun a => if c then writeGpr rd a else pure ()
  refine ⟨a, n, h.trans ?_, ra, na⟩
  cases c <;> rfl

/-- An instruction that ends in a conditional move, after it only read, completes with the move or without it. -/
theorem runSeq_moveIf {x : Op Unit} {s : State} {c : Bool} {rs rd : RegNum} {m : Nat}
    (h : x s = moveIf c rs rd (s.skip m)) :
    ∃ a, s.Reads rs a ∧ ∃ t, runSeq x s = .next t ∧ (rd ≠ 0#5 → t.gprVal rd = if c then a else s.gprVal rd) ∧
      Frame { gpr := [rd] } s t ∧ Sequential s t := by
  obtain ⟨a, n, hm, ra, na⟩ := moveIf_ok c rs rd (s.skip m)
  have hx := h.trans hm
  rw [State.skip_skip] at hx
  refine ⟨a, ra, ?_⟩
  cases c with
  | true =>
    obtain ⟨t, ht, hv, hf, hs⟩ := runSeq_putGpr hx
    exact ⟨t, ht, fun hr => (hv hr).trans na, hf, hs⟩
  | false =>
    obtain ⟨t, ht, hf, hs⟩ := runSeq_skip hx
    exact ⟨t, ht, fun _ => hf.gpr rd List.not_mem_nil, hf.mono (by simp) (by simp) id id id id, hs⟩

/-- An instruction that stops with an exception before it changed anything takes it. -/
theorem traps_of_runSeq {i : Instr} {x : Op Unit} {s : State} {e : Exc} (hi : exec i s = runSeq x s)
    (h : x s = .error (.exc e s)) : Traps i s e :=
  ⟨s.freeCtr, hi.trans (runSeq_exc h)⟩

/-! ### Moves on a register: MOVZ and MOVN -/

/-- What MOVZ and MOVN do, with the test of the value of rt. -/
def moveOnGpr (test : DWord → Bool) (rs rt rd : RegNum) : Op Unit := do
  requireIsa .mips4
  let b ← readGpr rt
  moveIf (test b) rs rd

theorem exec_movz (rs rt rd : RegNum) (s : State) : exec (.movz rs rt rd) s = runSeq (moveOnGpr (· == 0) rs rt rd) s := rfl
theorem exec_movn (rs rt rd : RegNum) (s : State) : exec (.movn rs rt rd) s = runSeq (moveOnGpr (· != 0) rs rt rd) s := rfl

/-- From MIPS IV on the move is made where rt is zero, or is not, as `z` says. -/
theorem moveOnGpr_completes {i : Instr} {test : DWord → Bool} {z : Bool} {rs rt rd : RegNum} {s : State}
    (hi : exec i s = runSeq (moveOnGpr test rs rt rd) s) (ht : ∀ b, test b = true ↔ decide (b = 0) = z)
    (h4 : s.HasIsa .mips4) :
    ∃ a b, s.Reads rs a ∧ s.Reads rt b ∧ Completes i s fun t =>
      (rd ≠ 0#5 → t.gprVal rd = if decide (b = 0) = z then a else s.gprVal rd) ∧ Frame { gpr := [rd] } s t ∧
        Sequential s t := by
  obtain ⟨b, n, hb, rb, -⟩ := read1 rt s fun b => moveIf (test b) rs rd
  obtain ⟨a, ra, t, hx, hv, hf, hs⟩ := runSeq_moveIf (x := moveOnGpr test rs rt rd) ((bind_ok (requireIsa_ok h4)).trans hb)
  simp only [ht b] at hv
  exact ⟨a, b, ra, rb, t, hi.trans hx, hv, hf, hs⟩

theorem moveOnGpr_reserved {test : DWord → Bool} {rs rt rd : RegNum} {s : State} (h4 : ¬s.HasIsa .mips4) :
    moveOnGpr test rs rt rd s = .error (.exc .reservedInstruction s) :=
  bind_error (requireIsa_error h4)

/-! ### Moves on a condition code: MOVF and MOVT -/

/-- What MOVF and MOVT do, with the test of the condition code. -/
def moveOnFcc (test : Bool → Bool) (rs : RegNum) (cc : BitVec 3) (rd : RegNum) : Op Unit := do
  requireIsa .mips4
  requireCop 1#2
  let c ← look fun s => s.fcc cc
  moveIf (test c) rs rd

theorem exec_movf (rs : RegNum) (cc : BitVec 3) (rd : RegNum) (s : State) :
    exec (.movf rs cc rd) s = runSeq (moveOnFcc (!·) rs cc rd) s := rfl
theorem exec_movt (rs : RegNum) (cc : BitVec 3) (rd : RegNum) (s : State) :
    exec (.movt rs cc rd) s = runSeq (moveOnFcc id rs cc rd) s := rfl

/-- With coprocessor 1 usable the move is made where the condition code is `z`. -/
theorem moveOnFcc_completes {i : Instr} {test : Bool → Bool} {z : Bool} {rs : RegNum} {cc : BitVec 3} {rd : RegNum} {s : State}
    (hi : exec i s = runSeq (moveOnFcc test rs cc rd) s) (ht : ∀ c, test c = true ↔ c = z)
    (h4 : s.HasIsa .mips4) (hc : s.CopUsable 1#2) :
    ∃ a, s.Reads rs a ∧ Completes i s fun t =>
      (rd ≠ 0#5 → t.gprVal rd = if s.fcc cc = z then a else s.gprVal rd) ∧ Frame { gpr := [rd] } s t ∧ Sequential s t := by
  have hx : moveOnFcc test rs cc rd s = moveIf (test (s.fcc cc)) rs rd (s.skip 0) :=
    (bind_ok (requireIsa_ok h4)).trans ((bind_ok (requireCop_ok hc)).trans (look_bind _ _ _))
  obtain ⟨a, ra, t, hn, hv, hf, hs⟩ := runSeq_moveIf hx
  simp only [ht (s.fcc cc)] at hv
  exact ⟨a, ra, t, hi.trans hn, hv, hf, hs⟩

theorem moveOnFcc_unusable {test : Bool → Bool} {rs : RegNum} {cc : BitVec 3} {rd : RegNum} {s : State}
    (h4 : s.HasIsa .mips4) (hc : s.CopUnusable 1#2) :
    moveOnFcc test rs cc rd s = .error (.exc (.coprocessorUnusable 1#2) s) :=
  (bind_ok (requireIsa_ok h4)).trans (bind_error (requireCop_error hc))

theorem moveOnFcc_reserved {test : Bool → Bool} {rs : RegNum} {cc : BitVec 3} {rd : RegNum} {s : State}
    (h4 : ¬s.HasIsa .mips4) : moveOnFcc test rs cc rd s = .error (.exc .reservedInstruction s) :=
  bind_error (requireIsa_error h4)

/-! ### The statement -/

/-- Settles O15: each of the four is one of the two shared operations, with its own test; the words are those of the
encoder, which decoding gives back. -/
theorem conditionalMoves : Obligations.ConditionalMoves := by
  refine ⟨fun row hrow s rs rt rd => ?_, fun row hrow s rs rd cc => ?_⟩
  · simp only [List.mem_cons, List.not_mem_nil, or_false] at hrow
    rcases hrow with rfl | rfl
    · exact ⟨Laws.RoundTrip.movz rs rt rd _ rfl, moveOnGpr_completes (exec_movz rs rt rd s) (by simp),
        fun h4 => traps_of_runSeq (exec_movz rs rt rd s) (moveOnGpr_reserved h4)⟩
    · exact ⟨Laws.RoundTrip.movn rs rt rd _ rfl, moveOnGpr_completes (exec_movn rs rt rd s) (by simp),
        fun h4 => traps_of_runSeq (exec_movn rs rt rd s) (moveOnGpr_reserved h4)⟩
  · simp only [List.mem_cons, List.not_mem_nil, or_false] at hrow
    rcases hrow with rfl | rfl
    · exact ⟨Laws.RoundTrip.movf rs cc rd _ rfl, moveOnFcc_completes (exec_movf rs cc rd s) (by simp),
        fun h4 hc => traps_of_runSeq (exec_movf rs cc rd s) (moveOnFcc_unusable h4 hc),
        fun h4 => traps_of_runSeq (exec_movf rs cc rd s) (moveOnFcc_reserved h4)⟩
    · exact ⟨Laws.RoundTrip.movt rs cc rd _ rfl, moveOnFcc_completes (exec_movt rs cc rd s) (by simp),
        fun h4 hc => traps_of_runSeq (exec_movt rs cc rd s) (moveOnFcc_unusable h4 hc),
        fun h4 => traps_of_runSeq (exec_movt rs cc rd s) (moveOnFcc_reserved h4)⟩

end Sys2Proof.Machine
end

section
/-! PROOFS. Taking an exception on an R30xx (R1040): where the common entry leaves each register, the fields of a 32-bit
register of coprocessor 0, what the R30xx's rules put in SR, Cause, Context, EntryHi, BadVaddr and EPC, and the statement. -/

namespace Sys2Proof.Machine

/-! ### The state after the common entry -/

section CommonEntry
variable {e : Exc} (he : e.common = true) (s : State)
include he

theorem takeException_cp0 : (takeException e s).cp0 = s.cp0After e := by rw [takeException_eq he]; rfl
theorem takeException_par : (takeException e s).par = s.par := by rw [takeException_eq he]; rfl
theorem takeException_pc : (takeException e s).pc = s.vector e := by rw [takeException_eq he]; rfl
theorem takeException_inDelay : (takeException e s).inDelay = false := by rw [takeException_eq he]; rfl
theorem takeException_tlb64 : (takeException e s).tlb64 = s.tlb64 := by rw [takeException_eq he]; rfl

/-- Control goes on from the vector in order, in the addresses of the mode that is entered. -/
theorem takeException_nextPc :
    (takeException e s).nextPc = (takeException e s).pcNorm ((takeException e s).pc + 4) := by
  rw [takeException_eq he]; rfl

end CommonEntry

/-! ### Fields of a 32-bit register that is held sign-extended -/

/-- A field of the low word is a field of the doubleword. -/
theorem extractLsb'_lo32 (x : DWord) {k u : Nat} (h : k + u ≤ 32) :
    (lo32 x).extractLsb' k u = x.extractLsb' k u := by
  apply eq_of_bits
  intro i hi
  simp only [bit, lo32, BitVec.getLsbD_extractLsb', BitVec.getLsbD_setWidth]
  rw [decide_eq_true (show k + i < 32 by omega), Bool.true_and]

theorem extractLsb'_sext (w : Word) {k u : Nat} (h : k + u ≤ 32) : (sext w).extractLsb' k u = w.extractLsb' k u := by
  rw [← extractLsb'_lo32 _ h, lo32_sext]

/-- A field written in a 32-bit register is read back. -/
theorem extractLsb'_sext_setField_same (x : DWord) {lo w : Nat} (v : BitVec w) (h : lo + w ≤ 32) :
    (sext (setField (lo32 x) lo v)).extractLsb' lo w = v := by
  rw [extractLsb'_sext _ h, extractLsb'_setField_same _ _ _ h]

/-- Another field of the 32-bit register is as it was. -/
theorem extractLsb'_sext_setField_other (x : DWord) {lo w : Nat} (v : BitVec w) {k u : Nat} (hk : k + u ≤ 32)
    (h : k + u ≤ lo ∨ lo + w ≤ k) : (sext (setField (lo32 x) lo v)).extractLsb' k u = x.extractLsb' k u := by
  rw [extractLsb'_sext _ hk, extractLsb'_setField_other _ _ _ _ _ h, extractLsb'_lo32 _ hk]

/-! ### The registers of coprocessor 0 -/

/-- An exception leaves the interrupt bits of Cause as they were. -/
theorem causeAfter_ip (s : State) (e : Exc) : (s.causeAfter e).extractLsb' 8 8 = s.cp0.cause.extractLsb' 8 8 := by
  apply eq_of_bits
  intro i hi
  have hbit := bit_causeAfter s e (8 + i) (by omega) (by omega)
  rw [if_neg (by omega), if_neg (by omega), if_neg (by omega)] at hbit
  simp only [bit, BitVec.getLsbD_extractLsb'] at hbit ⊢
  rw [hbit]

/-- Where a TLB exception names the address `va`, Context and EntryHi are what the address makes of them. -/
theorem cp0After_tlb {e : Exc} {va : DWord} (h : e.tlbVa = some va) (s : State) :
    (s.cp0After e).context = s.contextAfter va ∧ (s.cp0After e).entryHi = s.entryHiAfter va := by
  unfold State.cp0After
  rw [h]
  exact ⟨rfl, rfl⟩

/-- An exception that is not one of the TLB keeps Context and EntryHi. -/
theorem cp0After_not_tlb {e : Exc} (h : e.tlbVa = none) (s : State) :
    (s.cp0After e).context = s.cp0.context ∧ (s.cp0After e).entryHi = s.cp0.entryHi := by
  unfold State.cp0After
  rw [h]
  exact ⟨rfl, rfl⟩

section R30xx
variable {s : State} (h : s.par.cpu.is30xx = true)
include h

theorem cp0After_epc_30xx (e : Exc) : (s.cp0After e).epc = if s.inDelay then s.pcNorm (s.pc - 4) else s.pc := by
  simp only [State.cp0After, State.restartPc, h, Bool.not_true, Bool.false_and, Bool.false_eq_true, if_false]

theorem causeAfter_bd_30xx (e : Exc) : bit (s.causeAfter e) 31 = s.inDelay := by
  rw [causeAfter_bd, h]
  rfl

theorem badVAddrAfter_30xx {e : Exc} {va : DWord} (hva : e.badVa = some va) : s.badVAddrAfter e = va := by
  unfold State.badVAddrAfter
  rw [if_pos h, hva]

theorem contextAfter_30xx (va : DWord) :
    s.contextAfter va = sext (setField (lo32 s.cp0.context) 2 (va.extractLsb' 12 19)) := if_pos h

theorem entryHiAfter_30xx (va : DWord) :
    s.entryHiAfter va = sext (setField (lo32 s.cp0.entryHi) 12 (va.extractLsb' 12 20)) := if_pos h

/-- The current and the previous pair of SR become the previous and the old one. -/
theorem srAfter_stack_30xx : s.srAfter.extractLsb' 2 4 = s.cp0.sr.extractLsb' 0 4 := by
  apply eq_of_bits
  intro i hi
  have hbit := bit_srAfter_30xx h (2 + i)
  rw [if_neg (by omega), if_pos (by omega), Nat.add_sub_cancel_left] at hbit
  simp only [bit, BitVec.getLsbD_extractLsb', Nat.zero_add] at hbit ⊢
  rw [hbit]

/-- Above the three pairs SR is as it was. -/
theorem bit_srAfter_30xx_of_le {i : Nat} (hi : 6 ≤ i) : bit s.srAfter i = bit s.cp0.sr i := by
  rw [bit_srAfter_30xx h, if_neg (by omega), if_neg (by omega)]

/-- The mode of an R30xx is KUc alone. -/
theorem mode_30xx : s.mode? = some (if bit s.cp0.sr 1 then .user else .kernel) := if_pos h

theorem takeException_mode_30xx {e : Exc} (he : e.common = true) : (takeException e s).mode? = some .kernel := by
  have kuc : bit (takeException e s).cp0.sr 1 = false := by
    rw [takeException_cp0 he]
    exact bit_srAfter_30xx h 1
  rw [mode_30xx (by rw [takeException_par he, h]), kuc]
  rfl

/-- A refill for an address of kuseg has a vector of its own. -/
theorem vector_30xx_utlb {va : DWord} {st : Bool} (hva : bit va 31 = false) :
    s.vector (.tlbRefill va st) = if s.bev then 0xFFFFFFFFBFC00100#64 else 0xFFFFFFFF80000000#64 := by
  unfold State.vector
  rw [if_pos h]
  exact if_pos (by simp [hva])

/-- Every other exception, a refill above kuseg among them, goes to the general vector. -/
theorem vector_30xx_general {e : Exc} (hva : ∀ va st, e = .tlbRefill va st → bit va 31 = true) :
    s.vector e = if s.bev then 0xFFFFFFFFBFC00180#64 else 0xFFFFFFFF80000080#64 := by
  unfold State.vector
  rw [if_pos h]
  cases e with
  | tlbRefill va st => exact if_neg (by simp [hva va st rfl])
  | _ => rfl

end R30xx

/-! ### The statement -/

/-- Settles O42: the common entry puts `cp0After` in coprocessor 0 and the vector in the program counter, and each field
is what the R30xx's rule for its register says. -/
theorem exceptionEntry30xx : Obligations.ExceptionEntry30xx := by
  intro s e h he t
  have hcp0 : t.cp0 = s.cp0After e := takeException_cp0 he s
  have hpc : t.pc = s.vector e := takeException_pc he s
  rw [hcp0]
  refine ⟨cp0After_epc_30xx h e, causeAfter_bd_30xx h e, causeAfter_code s e, ?ce, srAfter_stack_30xx h,
    takeException_mode_30xx h he, bit_srAfter_30xx h 0, fun i hi => bit_srAfter_30xx_of_le h hi, ?utlb,
    fun hva => hpc.trans (vector_30xx_general h hva), takeException_nextPc he s, takeException_inDelay he s,
    fun va hva => badVAddrAfter_30xx h hva, ?tlb, fun hva => cp0After_not_tlb hva s, causeAfter_ip s e,
    takeException_tlb64 he s, frame_takeException e s rfl⟩
  case ce =>
    rintro z rfl
    exact causeAfter_ce s z
  case utlb =>
    rintro va st rfl hva
    exact hpc.trans (vector_30xx_utlb h hva)
  case tlb =>
    intro va hva
    obtain ⟨hcontext, hentryHi⟩ := cp0After_tlb hva s
    rw [hcontext, hentryHi, contextAfter_30xx h, entryHiAfter_30xx h]
    exact ⟨extractLsb'_sext_setField_same _ _ (by decide), extractLsb'_sext_setField_other _ _ (by decide) (by decide),
      extractLsb'_sext_setField_same _ _ (by decide), extractLsb'_sext_setField_other _ _ (by decide) (by decide)⟩

end Sys2Proof.Machine
end

section
/-! PROOFS. Decoding and encoding agree, collected from the round trips of the single instructions. -/

namespace Sys2Proof.Machine

open Laws in
/-- Decoding gives back every instruction, by the round trip of its own constructor. -/
theorem decode_encode : ∀ i : Instr, RoundTrip.Statement i
  | .add .. => RoundTrip.add _ _ _ | .addu .. => RoundTrip.addu _ _ _ | .sub .. => RoundTrip.sub _ _ _
  | .subu .. => RoundTrip.subu _ _ _ | .dadd .. => RoundTrip.dadd _ _ _ | .daddu .. => RoundTrip.daddu _ _ _
  | .dsub .. => RoundTrip.dsub _ _ _ | .dsubu .. => RoundTrip.dsubu _ _ _ | .and .. => RoundTrip.and _ _ _
  | .or .. => RoundTrip.or _ _ _ | .xor .. => RoundTrip.xor _ _ _ | .nor .. => RoundTrip.nor _ _ _
  | .slt .. => RoundTrip.slt _ _ _ | .sltu .. => RoundTrip.sltu _ _ _ | .sllv .. => RoundTrip.sllv _ _ _
  | .srlv .. => RoundTrip.srlv _ _ _ | .srav .. => RoundTrip.srav _ _ _ | .dsllv .. => RoundTrip.dsllv _ _ _
  | .dsrlv .. => RoundTrip.dsrlv _ _ _ | .dsrav .. => RoundTrip.dsrav _ _ _ | .movn .. => RoundTrip.movn _ _ _
  | .movz .. => RoundTrip.movz _ _ _ | .sll .. => RoundTrip.sll _ _ _ | .srl .. => RoundTrip.srl _ _ _
  | .sra .. => RoundTrip.sra _ _ _ | .dsll .. => RoundTrip.dsll _ _ _ | .dsrl .. => RoundTrip.dsrl _ _ _
  | .dsra .. => RoundTrip.dsra _ _ _ | .dsll32 .. => RoundTrip.dsll32 _ _ _ | .dsrl32 .. => RoundTrip.dsrl32 _ _ _
  | .dsra32 .. => RoundTrip.dsra32 _ _ _ | .movf .. => RoundTrip.movf _ _ _ | .movt .. => RoundTrip.movt _ _ _
  | .addi .. => RoundTrip.addi _ _ _ | .addiu .. => RoundTrip.addiu _ _ _ | .slti .. => RoundTrip.slti _ _ _
  | .sltiu .. => RoundTrip.sltiu _ _ _ | .andi .. => RoundTrip.andi _ _ _ | .ori .. => RoundTrip.ori _ _ _
  | .xori .. => RoundTrip.xori _ _ _ | .daddi .. => RoundTrip.daddi _ _ _ | .daddiu .. => RoundTrip.daddiu _ _ _
  | .lui .. => RoundTrip.lui _ _ | .mfhi .. => RoundTrip.mfhi _ | .mflo .. => RoundTrip.mflo _
  | .mthi .. => RoundTrip.mthi _ | .mtlo .. => RoundTrip.mtlo _ | .div .. => RoundTrip.div _ _
  | .divu .. => RoundTrip.divu _ _ | .ddiv .. => RoundTrip.ddiv _ _ | .ddivu .. => RoundTrip.ddivu _ _
  | .mult .. => RoundTrip.mult _ _ | .multu .. => RoundTrip.multu _ _ | .dmult .. => RoundTrip.dmult _ _
  | .dmultu .. => RoundTrip.dmultu _ _ | .mad .. => RoundTrip.mad _ _ | .madu .. => RoundTrip.madu _ _
  | .mul .. => RoundTrip.mul _ _ _ | .j .. => RoundTrip.j _ | .jal .. => RoundTrip.jal _ | .jr .. => RoundTrip.jr _
  | .jalr .. => RoundTrip.jalr _ _ | .beq .. => RoundTrip.beq _ _ _ | .bne .. => RoundTrip.bne _ _ _
  | .beql .. => RoundTrip.beql _ _ _ | .bnel .. => RoundTrip.bnel _ _ _ | .blez .. => RoundTrip.blez _ _
  | .bgtz .. => RoundTrip.bgtz _ _ | .blezl .. => RoundTrip.blezl _ _ | .bgtzl .. => RoundTrip.bgtzl _ _
  | .bltz .. => RoundTrip.bltz _ _ | .bgez .. => RoundTrip.bgez _ _ | .bltzl .. => RoundTrip.bltzl _ _
  | .bgezl .. => RoundTrip.bgezl _ _ | .bltzal .. => RoundTrip.bltzal _ _ | .bgezal .. => RoundTrip.bgezal _ _
  | .bltzall .. => RoundTrip.bltzall _ _ | .bgezall .. => RoundTrip.bgezall _ _ | .bc0f .. => RoundTrip.bc0f _
  | .bc0t .. => RoundTrip.bc0t _ | .bc0fl .. => RoundTrip.bc0fl _ | .bc0tl .. => RoundTrip.bc0tl _
  | .bc2f .. => RoundTrip.bc2f _ | .bc2t .. => RoundTrip.bc2t _ | .bc2fl .. => RoundTrip.bc2fl _
  | .bc2tl .. => RoundTrip.bc2tl _ | .bc3f .. => RoundTrip.bc3f _ | .bc3t .. => RoundTrip.bc3t _
  | .bc3fl .. => RoundTrip.bc3fl _ | .bc3tl .. => RoundTrip.bc3tl _ | .lb .. => RoundTrip.lb _ _ _
  | .lbu .. => RoundTrip.lbu _ _ _ | .lh .. => RoundTrip.lh _ _ _ | .lhu .. => RoundTrip.lhu _ _ _
  | .lw .. => RoundTrip.lw _ _ _ | .lwu .. => RoundTrip.lwu _ _ _ | .ld .. => RoundTrip.ld _ _ _
  | .sb .. => RoundTrip.sb _ _ _ | .sh .. => RoundTrip.sh _ _ _ | .sw .. => RoundTrip.sw _ _ _
  | .sd .. => RoundTrip.sd _ _ _ | .lwl .. => RoundTrip.lwl _ _ _ | .lwr .. => RoundTrip.lwr _ _ _
  | .swl .. => RoundTrip.swl _ _ _ | .swr .. => RoundTrip.swr _ _ _ | .ldl .. => RoundTrip.ldl _ _ _
  | .ldr .. => RoundTrip.ldr _ _ _ | .sdl .. => RoundTrip.sdl _ _ _ | .sdr .. => RoundTrip.sdr _ _ _
  | .ll .. => RoundTrip.ll _ _ _ | .sc .. => RoundTrip.sc _ _ _ | .lld .. => RoundTrip.lld _ _ _
  | .scd .. => RoundTrip.scd _ _ _ | .lwc2 .. => RoundTrip.lwc2 _ _ _ | .lwc3 .. => RoundTrip.lwc3 _ _ _
  | .swc2 .. => RoundTrip.swc2 _ _ _ | .swc3 .. => RoundTrip.swc3 _ _ _ | .ldc2 .. => RoundTrip.ldc2 _ _ _
  | .sdc2 .. => RoundTrip.sdc2 _ _ _ | .pref .. => RoundTrip.pref _ _ _ | .syscall .. => RoundTrip.syscall _
  | .brk .. => RoundTrip.brk _ | .sync .. => RoundTrip.sync _ | .mfc0 .. => RoundTrip.mfc0 _ _
  | .mtc0 .. => RoundTrip.mtc0 _ _ | .dmfc0 .. => RoundTrip.dmfc0 _ _ | .dmtc0 .. => RoundTrip.dmtc0 _ _
  | .mfc2 .. => RoundTrip.mfc2 _ _ | .mtc2 .. => RoundTrip.mtc2 _ _ | .cfc2 .. => RoundTrip.cfc2 _ _
  | .ctc2 .. => RoundTrip.ctc2 _ _ | .cop2 .. => RoundTrip.cop2 _ | .mfc3 .. => RoundTrip.mfc3 _ _
  | .mtc3 .. => RoundTrip.mtc3 _ _ | .cfc3 .. => RoundTrip.cfc3 _ _ | .ctc3 .. => RoundTrip.ctc3 _ _
  | .cop3 .. => RoundTrip.cop3 _ | .cache .. => RoundTrip.cache _ _ _ | .tlbr => RoundTrip.tlbr
  | .tlbwi => RoundTrip.tlbwi | .tlbwr => RoundTrip.tlbwr | .tlbp => RoundTrip.tlbp | .rfe => RoundTrip.rfe
  | .eret => RoundTrip.eret | .wait => RoundTrip.wait | .tge .. => RoundTrip.tge _ _ _
  | .tgeu .. => RoundTrip.tgeu _ _ _ | .tlt .. => RoundTrip.tlt _ _ _ | .tltu .. => RoundTrip.tltu _ _ _
  | .teq .. => RoundTrip.teq _ _ _ | .tne .. => RoundTrip.tne _ _ _ | .tgei .. => RoundTrip.tgei _ _
  | .tgeiu .. => RoundTrip.tgeiu _ _ | .tlti .. => RoundTrip.tlti _ _ | .tltiu .. => RoundTrip.tltiu _ _
  | .teqi .. => RoundTrip.teqi _ _ | .tnei .. => RoundTrip.tnei _ _ | .mfc1 .. => RoundTrip.mfc1 _ _
  | .mtc1 .. => RoundTrip.mtc1 _ _ | .cfc1 .. => RoundTrip.cfc1 _ _ | .ctc1 .. => RoundTrip.ctc1 _ _
  | .dmfc1 .. => RoundTrip.dmfc1 _ _ | .dmtc1 .. => RoundTrip.dmtc1 _ _ | .lwc1 .. => RoundTrip.lwc1 _ _ _
  | .ldc1 .. => RoundTrip.ldc1 _ _ _ | .swc1 .. => RoundTrip.swc1 _ _ _ | .sdc1 .. => RoundTrip.sdc1 _ _ _
  | .lwxc1 .. => RoundTrip.lwxc1 _ _ _ | .ldxc1 .. => RoundTrip.ldxc1 _ _ _ | .swxc1 .. => RoundTrip.swxc1 _ _ _
  | .sdxc1 .. => RoundTrip.sdxc1 _ _ _ | .prefx .. => RoundTrip.prefx _ _ _ | .bc1f .. => RoundTrip.bc1f _ _
  | .bc1fl .. => RoundTrip.bc1fl _ _ | .bc1t .. => RoundTrip.bc1t _ _ | .bc1tl .. => RoundTrip.bc1tl _ _
  | .addS .. => RoundTrip.addS _ _ _ | .subS .. => RoundTrip.subS _ _ _ | .mulS .. => RoundTrip.mulS _ _ _
  | .divS .. => RoundTrip.divS _ _ _ | .sqrtS .. => RoundTrip.sqrtS _ _ | .absS .. => RoundTrip.absS _ _
  | .movS .. => RoundTrip.movS _ _ | .negS .. => RoundTrip.negS _ _ | .recipS .. => RoundTrip.recipS _ _
  | .rsqrtS .. => RoundTrip.rsqrtS _ _ | .roundLS .. => RoundTrip.roundLS _ _ | .truncLS .. => RoundTrip.truncLS _ _
  | .ceilLS .. => RoundTrip.ceilLS _ _ | .floorLS .. => RoundTrip.floorLS _ _ | .roundWS .. => RoundTrip.roundWS _ _
  | .truncWS .. => RoundTrip.truncWS _ _ | .ceilWS .. => RoundTrip.ceilWS _ _ | .floorWS .. => RoundTrip.floorWS _ _
  | .cvtWS .. => RoundTrip.cvtWS _ _ | .cvtLS .. => RoundTrip.cvtLS _ _ | .movfS .. => RoundTrip.movfS _ _ _
  | .movtS .. => RoundTrip.movtS _ _ _ | .movzS .. => RoundTrip.movzS _ _ _ | .movnS .. => RoundTrip.movnS _ _ _
  | .cFS .. => RoundTrip.cFS _ _ _ | .cUnS .. => RoundTrip.cUnS _ _ _ | .cEqS .. => RoundTrip.cEqS _ _ _
  | .cUeqS .. => RoundTrip.cUeqS _ _ _ | .cOltS .. => RoundTrip.cOltS _ _ _ | .cUltS .. => RoundTrip.cUltS _ _ _
  | .cOleS .. => RoundTrip.cOleS _ _ _ | .cUleS .. => RoundTrip.cUleS _ _ _ | .cSfS .. => RoundTrip.cSfS _ _ _
  | .cNgleS .. => RoundTrip.cNgleS _ _ _ | .cSeqS .. => RoundTrip.cSeqS _ _ _ | .cNglS .. => RoundTrip.cNglS _ _ _
  | .cLtS .. => RoundTrip.cLtS _ _ _ | .cNgeS .. => RoundTrip.cNgeS _ _ _ | .cLeS .. => RoundTrip.cLeS _ _ _
  | .cNgtS .. => RoundTrip.cNgtS _ _ _ | .addD .. => RoundTrip.addD _ _ _ | .subD .. => RoundTrip.subD _ _ _
  | .mulD .. => RoundTrip.mulD _ _ _ | .divD .. => RoundTrip.divD _ _ _ | .sqrtD .. => RoundTrip.sqrtD _ _
  | .absD .. => RoundTrip.absD _ _ | .movD .. => RoundTrip.movD _ _ | .negD .. => RoundTrip.negD _ _
  | .recipD .. => RoundTrip.recipD _ _ | .rsqrtD .. => RoundTrip.rsqrtD _ _ | .roundLD .. => RoundTrip.roundLD _ _
  | .truncLD .. => RoundTrip.truncLD _ _ | .ceilLD .. => RoundTrip.ceilLD _ _ | .floorLD .. => RoundTrip.floorLD _ _
  | .roundWD .. => RoundTrip.roundWD _ _ | .truncWD .. => RoundTrip.truncWD _ _ | .ceilWD .. => RoundTrip.ceilWD _ _
  | .floorWD .. => RoundTrip.floorWD _ _ | .cvtWD .. => RoundTrip.cvtWD _ _ | .cvtLD .. => RoundTrip.cvtLD _ _
  | .movfD .. => RoundTrip.movfD _ _ _ | .movtD .. => RoundTrip.movtD _ _ _ | .movzD .. => RoundTrip.movzD _ _ _
  | .movnD .. => RoundTrip.movnD _ _ _ | .cFD .. => RoundTrip.cFD _ _ _ | .cUnD .. => RoundTrip.cUnD _ _ _
  | .cEqD .. => RoundTrip.cEqD _ _ _ | .cUeqD .. => RoundTrip.cUeqD _ _ _ | .cOltD .. => RoundTrip.cOltD _ _ _
  | .cUltD .. => RoundTrip.cUltD _ _ _ | .cOleD .. => RoundTrip.cOleD _ _ _ | .cUleD .. => RoundTrip.cUleD _ _ _
  | .cSfD .. => RoundTrip.cSfD _ _ _ | .cNgleD .. => RoundTrip.cNgleD _ _ _ | .cSeqD .. => RoundTrip.cSeqD _ _ _
  | .cNglD .. => RoundTrip.cNglD _ _ _ | .cLtD .. => RoundTrip.cLtD _ _ _ | .cNgeD .. => RoundTrip.cNgeD _ _ _
  | .cLeD .. => RoundTrip.cLeD _ _ _ | .cNgtD .. => RoundTrip.cNgtD _ _ _ | .cvtSD .. => RoundTrip.cvtSD _ _
  | .cvtSW .. => RoundTrip.cvtSW _ _ | .cvtSL .. => RoundTrip.cvtSL _ _ | .cvtDS .. => RoundTrip.cvtDS _ _
  | .cvtDW .. => RoundTrip.cvtDW _ _ | .cvtDL .. => RoundTrip.cvtDL _ _ | .maddS .. => RoundTrip.maddS _ _ _ _
  | .maddD .. => RoundTrip.maddD _ _ _ _ | .msubS .. => RoundTrip.msubS _ _ _ _ | .msubD .. => RoundTrip.msubD _ _ _ _
  | .nmaddS .. => RoundTrip.nmaddS _ _ _ _ | .nmaddD .. => RoundTrip.nmaddD _ _ _ _
  | .nmsubS .. => RoundTrip.nmsubS _ _ _ _ | .nmsubD .. => RoundTrip.nmsubD _ _ _ _

/-- Settles O1: the round trip of the instruction, which holds at every level that has the operands' widths. -/
theorem decodeOfEncode : Obligations.DecodeOfEncode := fun isa i => decode_encode i isa

end Sys2Proof.Machine
end

section
/-! PROOFS. What an instruction does to coprocessor 0: the instructions whose work it is to write there, and that every
other one keeps each relation that the unprivileged kinds of change keep. -/

namespace Sys2Proof.Machine

/-- The instructions whose own work is to write coprocessor 0, a TLB or, by CACHE, memory beside the data path. -/
inductive WritesCop0 : Instr → Prop
  | mtc0 (rt rd : RegNum) : WritesCop0 (.mtc0 rt rd)
  | dmtc0 (rt rd : RegNum) : WritesCop0 (.dmtc0 rt rd)
  | cache (base : RegNum) (op : BitVec 5) (offset : BitVec 16) : WritesCop0 (.cache base op offset)
  | tlbr : WritesCop0 .tlbr
  | tlbwi : WritesCop0 .tlbwi
  | tlbwr : WritesCop0 .tlbwr
  | tlbp : WritesCop0 .tlbp
  | rfe : WritesCop0 .rfe
  | eret : WritesCop0 .eret

section
variable {P : State → State → Prop}

theorem keeps_readCp0Word (h : Steady P) (n : RegNum) : Op.Keeps P (readCp0Word n) := by
  intro s
  unfold readCp0Word
  split <;> exact h.quiet _ _ (quiet_useFree s)

theorem keeps_readCp0Dword (h : Steady P) (n : RegNum) : Op.Keeps P (readCp0Dword n) := by
  intro s
  unfold readCp0Dword
  split
  · exact h.quiet _ _ (quiet_useFree s)
  · split
    · exact h.refl s
    · exact h.quiet _ _ (quiet_useFree s)

/-- Every other instruction is put together from operations that keep the relation. -/
theorem exec_kept (h : Steady P) (s : State) : ∀ i : Instr, WritesCop0 i ∨ Kept P s (exec i s)
  | .mtc0 .. => .inl (.mtc0 _ _)
  | .dmtc0 .. => .inl (.dmtc0 _ _)
  | .cache .. => .inl (.cache _ _ _)
  | .tlbr => .inl .tlbr
  | .tlbwi => .inl .tlbwi
  | .tlbwr => .inl .tlbwr
  | .tlbp => .inl .tlbp
  | .rfe => .inl .rfe
  | .eret => .inl .eret
  | .add .. | .sub .. =>
    .inr <| kept_runSeq h (keeps_bind h (keeps_readGpr h _) fun _ => keeps_bind h (keeps_readGpr h _) fun _ =>
      keeps_wordTrapping h _ _ _ _) s
  | .addu .. | .subu .. => .inr <| kept_runSeq h (keeps_wordRR h _ _ _ _) s
  | .dadd .. | .dsub .. =>
    .inr <| kept_runSeq h (keeps_bind h (keeps_require64 h) fun _ => keeps_bind h (keeps_readGpr h _) fun _ =>
      keeps_bind h (keeps_readGpr h _) fun _ => keeps_dwordTrapping h _ _ _ _) s
  | .daddu .. | .dsubu .. | .dsllv .. | .dsrlv .. | .dsrav .. => .inr <| kept_runSeq h (keeps_dwordRR h _ _ _ _) s
  | .and .. | .or .. | .xor .. | .nor .. | .slt .. | .sltu .. | .sllv .. =>
    .inr <| kept_runSeq h (keeps_aluRR h _ _ _ _) s
  | .srlv .. | .srav .. => .inr <| kept_runSeq h (keeps_bind h (keeps_readGpr h _) fun _ => keeps_wordR h _ _ _) s
  | .movn .. | .movz .. =>
    .inr <| kept_runSeq h (keeps_bind h (keeps_requireIsa h _) fun _ => keeps_bind h (keeps_readGpr h _) fun _ =>
      keeps_moveIf h _ _ _) s
  | .sll .. | .slti .. | .sltiu .. | .andi .. | .ori .. | .xori .. => .inr <| kept_runSeq h (keeps_aluR h _ _ _) s
  | .srl .. | .sra .. | .addiu .. => .inr <| kept_runSeq h (keeps_wordR h _ _ _) s
  | .dsll .. | .dsrl .. | .dsra .. | .dsll32 .. | .dsrl32 .. | .dsra32 .. | .daddiu .. =>
    .inr <| kept_runSeq h (keeps_dwordR h _ _ _) s
  | .movf .. | .movt .. =>
    .inr <| kept_runSeq h (keeps_bind h (keeps_requireIsa h _) fun _ => keeps_bind h (keeps_requireCop h _) fun _ =>
      keeps_bind h (keeps_look h _) fun _ => keeps_moveIf h _ _ _) s
  | .addi .. => .inr <| kept_runSeq h (keeps_bind h (keeps_readGpr h _) fun _ => keeps_wordTrapping h _ _ _ _) s
  | .daddi .. =>
    .inr <| kept_runSeq h (keeps_bind h (keeps_require64 h) fun _ => keeps_bind h (keeps_readGpr h _) fun _ =>
      keeps_dwordTrapping h _ _ _ _) s
  | .lui .. => .inr <| kept_runSeq h (keeps_writeGpr h _ _) s
  | .mfhi .. | .mflo .. => .inr <| kept_runSeq h (keeps_readHilo h _ _) s
  | .mthi .. | .mtlo .. => .inr <| kept_runSeq h (keeps_moveToHilo h _ _) s
  | .div .. | .divu .. | .mult .. | .multu .. => .inr <| kept_runSeq h (keeps_wordHilo h _ _ _ _) s
  | .ddiv .. | .ddivu .. | .dmult .. | .dmultu .. => .inr <| kept_runSeq h (keeps_dwordHilo h _ _ _ _) s
  | .mad .. | .madu .. => .inr <| kept_runSeq h (keeps_accumulate h _ _ _) s
  | .mul .. =>
    .inr <| kept_runSeq h (keeps_bind h (keeps_require4650 h) fun _ => keeps_bind h (keeps_spoilReads h _ _) fun _ =>
      keeps_bind h (keeps_readGpr h _) fun _ => keeps_bind h (keeps_readGpr h _) fun _ => keeps_bind h
      (keeps_writeHiloOr h _ _ _) fun _ => keeps_writeGpr h _ _) s
  | .j .. =>
    .inr <| kept_runOp (keeps_bind h (keeps_refuseInDelaySlot h) fun _ => keeps_bind h (keeps_look h _) fun _ =>
      keeps_jumpTo h _) s
  | .jal .. =>
    .inr <| kept_runOp (keeps_bind h (keeps_refuseInDelaySlot h) fun _ => keeps_bind h (keeps_look h _) fun _ =>
      keeps_bind h (keeps_writeLink h _) fun _ => keeps_jumpTo h _) s
  | .jr .. =>
    .inr <| kept_runOp (keeps_bind h (keeps_refuseInDelaySlot h) fun _ => keeps_bind h (keeps_readGpr h _) fun _ =>
      keeps_jumpReg h _) s
  | .jalr .. =>
    .inr <| kept_runOp (keeps_bind h (keeps_refuseInDelaySlot h) fun _ => keeps_bind h (keeps_restartable h _ _) fun
      _ => keeps_bind h (keeps_readGpr h _) fun _ => keeps_bind h (keeps_writeLink h _) fun _ => keeps_jumpReg h _) s
  | .beq .. | .bne .. => .inr <| kept_runOp (keeps_branchRegs h _ _ _ _) s
  | .beql .. | .bnel .. => .inr <| kept_runOp (keeps_likelyRegs h _ _ _ _) s
  | .blez .. | .bgtz .. | .bltz .. | .bgez .. => .inr <| kept_runOp (keeps_branchReg h _ _ _) s
  | .blezl .. | .bgtzl .. | .bltzl .. | .bgezl .. => .inr <| kept_runOp (keeps_likelyReg h _ _ _) s
  | .bltzal .. | .bgezal .. => .inr <| kept_runOp (keeps_branchRegLink h _ _ _) s
  | .bltzall .. | .bgezall .. => .inr <| kept_runOp (keeps_likelyRegLink h _ _ _) s
  | .bc0f .. | .bc0t .. | .bc2f .. | .bc2t .. | .bc3f .. | .bc3t .. => .inr <| kept_runOp (keeps_branchCop h _ _ _) s
  | .bc0fl .. | .bc0tl .. | .bc2fl .. | .bc2tl .. | .bc3fl .. | .bc3tl .. =>
    .inr <| kept_runOp (keeps_likelyCop h _ _ _) s
  | .lb .. | .lbu .. | .lh .. | .lhu .. | .lw .. => .inr <| kept_runSeq h (keeps_loadReg h _ _ _ _ _) s
  | .lwu .. | .ld .. => .inr <| kept_runSeq h (keeps_bind h (keeps_require64 h) fun _ => keeps_loadReg h _ _ _ _ _) s
  | .sb .. | .sh .. | .sw .. => .inr <| kept_runSeq h (keeps_storeReg h _ _ _ _) s
  | .sd .. => .inr <| kept_runSeq h (keeps_bind h (keeps_require64 h) fun _ => keeps_storeReg h _ _ _ _) s
  | .lwl .. => .inr <| kept_runSeq h (keeps_bind h (keeps_loadLeft h _ _ _ _) fun _ => keeps_writeGprLoaded h _ _) s
  | .lwr .. =>
    .inr <| kept_runSeq h (keeps_bind h (keeps_loadRight h _ _ _ _) fun _ => keeps_bind h (keeps_look h _) fun _ =>
      keeps_writeGprLoaded h _ _) s
  | .swl .. => .inr <| kept_runSeq h (keeps_storeLeft h _ _ _ _) s
  | .swr .. => .inr <| kept_runSeq h (keeps_storeRight h _ _ _ _) s
  | .ldl .. =>
    .inr <| kept_runSeq h (keeps_bind h (keeps_require64 h) fun _ => keeps_bind h (keeps_loadLeft h _ _ _ _) fun _ =>
      keeps_writeGprLoaded h _ _) s
  | .ldr .. =>
    .inr <| kept_runSeq h (keeps_bind h (keeps_require64 h) fun _ => keeps_bind h (keeps_loadRight h _ _ _ _) fun _
      => keeps_writeGprLoaded h _ _) s
  | .sdl .. => .inr <| kept_runSeq h (keeps_bind h (keeps_require64 h) fun _ => keeps_storeLeft h _ _ _ _) s
  | .sdr .. => .inr <| kept_runSeq h (keeps_bind h (keeps_require64 h) fun _ => keeps_storeRight h _ _ _ _) s
  | .ll .. => .inr <| kept_runSeq h (keeps_bind h (keeps_requireIsa h _) fun _ => keeps_loadLinked h _ _ _ _ _) s
  | .sc .. => .inr <| kept_runSeq h (keeps_bind h (keeps_requireIsa h _) fun _ => keeps_storeConditional h _ _ _ _) s
  | .lld .. => .inr <| kept_runSeq h (keeps_bind h (keeps_require64 h) fun _ => keeps_loadLinked h _ _ _ _ _) s
  | .scd .. => .inr <| kept_runSeq h (keeps_bind h (keeps_require64 h) fun _ => keeps_storeConditional h _ _ _ _) s
  | .lwc2 .. | .lwc3 .. => .inr <| kept_runSeq h (keeps_loadAbsent h _ _ _ _) s
  | .swc2 .. | .swc3 .. => .inr <| kept_runSeq h (keeps_storeAbsent h _ _ _ _) s
  | .ldc2 .. => .inr <| kept_runSeq h (keeps_bind h (keeps_requireIsa h _) fun _ => keeps_loadAbsent h _ _ _ _) s
  | .sdc2 .. => .inr <| kept_runSeq h (keeps_bind h (keeps_requireIsa h _) fun _ => keeps_storeAbsent h _ _ _ _) s
  | .pref .. | .sync .. => .inr <| kept_runSeq h (keeps_requireIsa h _) s
  | .syscall .. => .inr <| kept_runOp (keeps_raise h (e := .syscall) fun _ => trivial) s
  | .brk .. => .inr <| kept_runOp (keeps_raise h (e := .breakpoint) fun _ => trivial) s
  | .mfc0 .. =>
    .inr <| kept_runSeq h (keeps_bind h (keeps_requireCop h _) fun _ => keeps_bind h (keeps_readCp0Word h _) fun _ =>
      keeps_writeGprFromCp0 h _ _) s
  | .dmfc0 .. =>
    .inr <| kept_runSeq h (keeps_bind h (keeps_requireCop h _) fun _ => keeps_bind h (keeps_require64 h) fun _ =>
      keeps_bind h (keeps_readCp0Dword h _) fun _ => keeps_writeGprFromCp0 h _ _) s
  | .mfc2 .. | .cfc2 .. | .mfc3 .. | .cfc3 .. => .inr <| kept_runSeq h (keeps_moveFromAbsent h _ _) s
  | .mtc2 .. | .ctc2 .. | .cop2 .. | .mtc3 .. | .ctc3 .. | .cop3 .. => .inr <| kept_runSeq h (keeps_absentNop h _) s
  | .wait => .inr <| kept_runSeq h (keeps_require4xxx h) s
  | .tge .. | .tgeu .. | .tlt .. | .tltu .. | .teq .. | .tne .. => .inr <| kept_runSeq h (keeps_trapRR h _ _ _) s
  | .tgei .. | .tgeiu .. | .tlti .. | .tltiu .. | .teqi .. | .tnei .. =>
    .inr <| kept_runSeq h (keeps_trapRI h _ _ _) s
  | .mfc1 .. =>
    .inr <| kept_runSeq h (keeps_bind h (keeps_requireCop h _) fun _ => keeps_bind h (keeps_readFgrWord h _) fun _ =>
      keeps_writeGprMoved h _ _ _) s
  | .mtc1 .. =>
    .inr <| kept_runSeq h (keeps_bind h (keeps_requireCop h _) fun _ => keeps_bind h (keeps_readGpr h _) fun _ =>
      keeps_writeFgrWord h _ _ _) s
  | .cfc1 .. =>
    .inr <| kept_runSeq h (keeps_bind h (keeps_requireCop h _) fun _ => keeps_bind h (keeps_readFcr h _) fun _ =>
      keeps_writeGprMoved h _ _ _) s
  | .ctc1 .. =>
    .inr <| kept_runSeq h (keeps_bind h (keeps_requireCop h _) fun _ => keeps_bind h (keeps_readGpr h _) fun _ =>
      keeps_writeFcr h _ _) s
  | .dmfc1 .. =>
    .inr <| kept_runSeq h (keeps_bind h (keeps_requireCop h _) fun _ => keeps_bind h (keeps_require64 h) fun _ =>
      keeps_bind h (keeps_readFgrDouble h _) fun _ => keeps_writeGprMoved h _ _ _) s
  | .dmtc1 .. =>
    .inr <| kept_runSeq h (keeps_bind h (keeps_requireCop h _) fun _ => keeps_bind h (keeps_require64 h) fun _ =>
      keeps_bind h (keeps_readGpr h _) fun _ => keeps_writeFgrDouble h _ _ _) s
  | .lwc1 .. =>
    .inr <| kept_runSeq h (keeps_bind h (keeps_requireCop h _) fun _ => keeps_bind h (keeps_loadField h _ _ _ _) fun
      _ => keeps_writeFgrWord h _ _ _) s
  | .ldc1 .. =>
    .inr <| kept_runSeq h (keeps_bind h (keeps_requireIsa h _) fun _ => keeps_bind h (keeps_requireCop h _) fun _ =>
      keeps_bind h (keeps_loadField h _ _ _ _) fun _ => keeps_writeFgrDouble h _ _ _) s
  | .swc1 .. =>
    .inr <| kept_runSeq h (keeps_bind h (keeps_requireCop h _) fun _ => keeps_bind h (keeps_readFgrWord h _) fun _ =>
      keeps_storeField h _ _ _ _) s
  | .sdc1 .. =>
    .inr <| kept_runSeq h (keeps_bind h (keeps_requireIsa h _) fun _ => keeps_bind h (keeps_requireCop h _) fun _ =>
      keeps_bind h (keeps_readFgrDouble h _) fun _ => keeps_storeField h _ _ _ _) s
  | .lwxc1 .. =>
    .inr <| kept_runSeq h (keeps_bind h (keeps_indexedLoad h _ _ _) fun _ => keeps_writeFgrWord h _ _ _) s
  | .ldxc1 .. =>
    .inr <| kept_runSeq h (keeps_bind h (keeps_indexedLoad h _ _ _) fun _ => keeps_writeFgrDouble h _ _ _) s
  | .swxc1 .. => .inr <| kept_runSeq h (keeps_indexedStore h _ _ _ (keeps_readFgrWord h _)) s
  | .sdxc1 .. => .inr <| kept_runSeq h (keeps_indexedStore h _ _ _ (keeps_readFgrDouble h _)) s
  | .prefx .. => .inr <| kept_runSeq h (keeps_bind h (keeps_requireIsa h _) fun _ => keeps_requireCop h _) s
  | .bc1f .. | .bc1t .. => .inr <| kept_runOp (keeps_branchFp h _ _ _) s
  | .bc1fl .. | .bc1tl .. => .inr <| kept_runOp (keeps_likelyFp h _ _ _) s
  | .addS .. | .subS .. | .mulS .. | .divS .. | .addD .. | .subD .. | .mulD .. | .divD .. =>
    .inr <| kept_runSeq h (keeps_fpBinary h _ _ _ _ _ _) s
  | .sqrtS .. | .absS .. | .negS .. | .cvtLS .. | .sqrtD .. | .absD .. | .negD .. | .cvtLD .. | .cvtSD ..
  | .cvtSW .. | .cvtSL .. | .cvtDS .. | .cvtDW .. | .cvtDL .. =>
    .inr <| kept_runSeq h (keeps_fpUnary h _ _ _ _ _ _ _) s
  | .movS .. | .movD .. => .inr <| kept_runSeq h (keeps_bind h (keeps_fpGate h _) fun _ => keeps_fpMove h _ _ _ _) s
  | .recipS .. | .rsqrtS .. | .recipD .. | .rsqrtD .. => .inr <| kept_runSeq h (keeps_fpApprox h _ _ _ _) s
  | .roundLS .. | .truncLS .. | .ceilLS .. | .floorLS .. | .roundLD .. | .truncLD .. | .ceilLD .. | .floorLD .. =>
    .inr <| kept_runSeq h (keeps_toLong h _ _ _ _) s
  | .roundWS .. | .truncWS .. | .ceilWS .. | .floorWS .. | .cvtWS .. | .roundWD .. | .truncWD .. | .ceilWD ..
  | .floorWD .. | .cvtWD .. => .inr <| kept_runSeq h (keeps_toWord h _ _ _ _ _) s
  | .movfS .. | .movtS .. | .movfD .. | .movtD .. =>
    .inr <| kept_runSeq h (keeps_bind h (keeps_fpGate h _) fun _ => keeps_bind h (keeps_look h _) fun _ =>
      keeps_fpMove h _ _ _ _) s
  | .movzS .. | .movnS .. | .movzD .. | .movnD .. =>
    .inr <| kept_runSeq h (keeps_bind h (keeps_fpGate h _) fun _ => keeps_bind h (keeps_readGpr h _) fun _ =>
      keeps_fpMove h _ _ _ _) s
  | .cFS .. | .cUnS .. | .cEqS .. | .cUeqS .. | .cOltS .. | .cUltS .. | .cOleS .. | .cUleS .. | .cSfS ..
  | .cNgleS .. | .cSeqS .. | .cNglS .. | .cLtS .. | .cNgeS .. | .cLeS .. | .cNgtS .. | .cFD .. | .cUnD .. | .cEqD ..
  | .cUeqD .. | .cOltD .. | .cUltD .. | .cOleD .. | .cUleD .. | .cSfD .. | .cNgleD .. | .cSeqD .. | .cNglD ..
  | .cLtD .. | .cNgeD .. | .cLeD .. | .cNgtD .. => .inr <| kept_runSeq h (keeps_fpCompare h _ _ _ _ _) s
  | .maddS .. | .maddD .. | .msubS .. | .msubD .. | .nmaddS .. | .nmaddD .. | .nmsubS .. | .nmsubD .. =>
    .inr <| kept_runSeq h (keeps_fpTernary h _ _ _ _ _ _) s

end

/-! ### A program without the right to coprocessor 0 -/

/-- Without the right to coprocessor 0 an instruction that writes it takes an exception before it changes anything. -/
theorem writesCop0_traps {s : State} (hc : s.CopUnusable 0#2) {i : Instr} (hi : WritesCop0 i) :
    ∃ e, exec i s = .next (takeException e s) := by
  have unusable {x : Op Unit} : runSeq (do requireCop 0#2; x) s = .next (takeException (.coprocessorUnusable 0#2) s) :=
    runSeq_exc (bind_error (requireCop_error hc))
  cases hi with
  | cache base op offset =>
    by_cases h3 : s.HasIsa .mips3
    · exact ⟨_, runSeq_exc ((bind_ok (requireIsa_ok h3)).trans (bind_error (requireCop_error hc)))⟩
    · exact ⟨_, runSeq_exc (bind_error (requireIsa_error h3))⟩
  | eret => exact ⟨_, runOp_exc (bind_error (bind_error (requireCop_error hc)))⟩
  | mtc0 rt rd => exact ⟨_, unusable⟩
  | dmtc0 rt rd => exact ⟨_, unusable⟩
  | tlbr => exact ⟨_, unusable⟩
  | tlbwi => exact ⟨_, unusable⟩
  | tlbwr => exact ⟨_, unusable⟩
  | tlbp => exact ⟨_, unusable⟩
  | rfe => exact ⟨_, unusable⟩

/-- From `s` to `t` coprocessor 0 changes in LLAddr and SR.CM at most, and the TLB not at all. -/
def Cop0KeptButLinkAndMiss (s t : State) : Prop :=
  t.tlb64 = s.tlb64 ∧ t.tlb48 = s.tlb48 ∧ t.cp0 = { s.cp0 with llAddr := t.cp0.llAddr, sr := t.cp0.sr } ∧
    t.cp0.sr ||| 0x80000#32 = s.cp0.sr ||| 0x80000#32

theorem cop0KeptButLinkAndMiss_of_eq {s t : State} (h64 : t.tlb64 = s.tlb64) (h48 : t.tlb48 = s.tlb48)
    (hc : t.cp0 = s.cp0) : Cop0KeptButLinkAndMiss s t := ⟨h64, h48, by rw [hc], by rw [hc]⟩

theorem setIsolated_cp0 (s : State) (c : CacheArray) : (s.setIsolated c).cp0 = s.cp0 := by
  unfold State.setIsolated; split <;> rfl
theorem setIsolated_tlb64 (s : State) (c : CacheArray) : (s.setIsolated c).tlb64 = s.tlb64 := by
  unfold State.setIsolated; split <;> rfl
theorem setIsolated_tlb48 (s : State) (c : CacheArray) : (s.setIsolated c).tlb48 = s.tlb48 := by
  unfold State.setIsolated; split <;> rfl

/-- SR.CM is the one bit that the mask hides. -/
theorem setBit_cm_or (x : Word) (b : Bool) : setBit x 19 b ||| 0x80000#32 = x ||| 0x80000#32 := by
  apply eq_of_bits
  intro i hi
  by_cases h : i = 19
  · subst h
    simp [bit]
  · have hs : bit (setBit x 19 b) i = bit x i := by rw [bit_setBit, if_neg (by simp [h])]
    simp only [bit] at hs
    simp only [bit, BitVec.getLsbD_or, hs]

/-- An isolated load changes SR.CM, a load linked LLAddr; no other unprivileged change reaches coprocessor 0. -/
theorem steady_cop0KeptButLinkAndMiss : Steady Cop0KeptButLinkAndMiss where
  refl _ := cop0KeptButLinkAndMiss_of_eq rfl rfl rfl
  trans s t u := by
    rintro ⟨h64, h48, hc, hsr⟩ ⟨k64, k48, kc, ksr⟩
    refine ⟨k64.trans h64, k48.trans h48, ?_, ksr.trans hsr⟩
    rw [kc, hc]
  quiet _ _ q := cop0KeptButLinkAndMiss_of_eq q.tlb64 q.tlb48 q.cp0
  mem _ _ _ _ := cop0KeptButLinkAndMiss_of_eq rfl rfl rfl
  isolated s a n v := by
    unfold State.isolatedStore
    dsimp only
    split <;> exact cop0KeptButLinkAndMiss_of_eq (setIsolated_tlb64 _ _) (setIsolated_tlb48 _ _) (setIsolated_cp0 _ _)
  cm s b _ := ⟨rfl, rfl, rfl, setBit_cm_or s.cp0.sr b⟩
  fcr31 _ _ _ := cop0KeptButLinkAndMiss_of_eq rfl rfl rfl
  link s l := by
    refine ⟨rfl, rfl, ?_, ?_⟩ <;> cases h : s.par.cpu.isOrionTlb <;> simp [State.setLink, h]

/-- Settles O47: an instruction that writes coprocessor 0 takes an exception at `s` itself; every other one is put
together from operations that leave it but for LLAddr and SR.CM. -/
theorem userModeKeepsCoprocessor0 : Obligations.UserModeKeepsCoprocessor0 := by
  intro i s t hm hcu ht
  have hc : s.CopUnusable 0#2 := ⟨fun h => absurd h (by decide), hcu, fun _ => ⟨.user, hm, by decide⟩⟩
  rcases exec_kept steady_cop0KeptButLinkAndMiss s i with hi | hk
  · obtain ⟨e, he⟩ := writesCop0_traps hc hi
    rw [he] at ht
    cases ht
    exact ⟨s, .inr ⟨e, rfl⟩, steady_cop0KeptButLinkAndMiss.refl s⟩
  · rw [ht] at hk
    rcases hk with hk | ⟨e, u, rfl, hk, -⟩
    · exact ⟨t, .inl rfl, hk⟩
    · exact ⟨u, .inr ⟨e, rfl⟩, hk⟩

end Sys2Proof.Machine
end

section
/-! PROOFS. Every step keeps the invariant (`State.Inv`): the rules for bits that stay within a mask, the part of the
invariant that coprocessor 0 holds, what each kind of change does to it, and the step. -/

namespace Sys2Proof.Machine

/-! ### Words whose bits lie within a mask -/

theorem and_not_eq_zero_iff {x m : Word} : x &&& ~~~m = 0 ↔ ∀ i, bit x i = true → bit m i = true := by
  constructor
  · intro h i hx
    have hlt : i < 32 := BitVec.lt_of_getLsbD hx
    have hbit := congrArg (fun y : Word => y.getLsbD i) h
    simp only [bit] at hx ⊢
    simpa [hx, hlt] using hbit
  · intro h
    apply eq_of_bits
    intro i hi
    have := h i
    simp only [bit] at this
    cases hx : x.getLsbD i <;> simp_all [bit]

section Within
variable {x m : Word} (h : x &&& ~~~m = 0)
include h

theorem within_setBit {i : Nat} {b : Bool} (hb : b = true → bit m i = true) : setBit x i b &&& ~~~m = 0 := by
  rw [and_not_eq_zero_iff] at h ⊢
  intro j hj
  rw [bit_setBit] at hj
  split at hj
  · rename_i hij
    exact hij.2 ▸ hb hj
  · exact h j hj

theorem within_setField {w lo : Nat} {v : BitVec w} (hv : ∀ j : Fin w, bit m (lo + j) = true) :
    setField x lo v &&& ~~~m = 0 := by
  rw [and_not_eq_zero_iff] at h ⊢
  intro j hj
  rw [bit_setField] at hj
  split at hj
  · rename_i hin
    have := hv ⟨j - lo, by omega⟩
    rwa [Nat.add_sub_cancel' hin.2.1] at this
  · exact h j hj

theorem within_merge {k new : Word} (hk : k &&& new &&& ~~~m = 0) : merge k x new &&& ~~~m = 0 := by
  rw [and_not_eq_zero_iff] at h hk ⊢
  intro j hj
  rw [bit_merge] at hj
  split at hj
  · rename_i hb
    exact hk j (by simp only [bit] at hb hj ⊢; simp [hb, hj])
  · exact h j hj

theorem within_or {y : Word} (hy : y &&& ~~~m = 0) : (x ||| y) &&& ~~~m = 0 := by
  rw [and_not_eq_zero_iff] at h hy ⊢
  intro j hj
  simp only [bit, BitVec.getLsbD_or, Bool.or_eq_true] at hj
  exact hj.elim (h j) (hy j)

theorem within_and {y : Word} : x &&& y &&& ~~~m = 0 := by
  rw [and_not_eq_zero_iff] at h ⊢
  intro j hj
  simp only [bit, BitVec.getLsbD_and, Bool.and_eq_true] at hj
  exact h j hj.1

end Within

/-! ### The masks of SR and Cause -/

theorem srBits_30xx {p : Params} (h : p.cpu.is30xx = true) : srBits p = 0xF27FFF3F#32 := if_pos h

theorem bit_srBits_4xxx {p : Params} (h : p.cpu.is30xx = false) {i : Nat} (hi : i ∈ [1, 2, 20, 22]) :
    bit (srBits p) i = true := by
  unfold srBits srMask
  rw [if_neg (by simp [h]), if_neg (by simp [h])]
  revert hi i
  split <;> decide

/-- Both families have EXL (or KUp's half of the stack) and ERL among their bits of SR. -/
theorem bit_srBits_low (p : Params) {i : Nat} (hi : i ∈ [1, 2]) : bit (srBits p) i = true := by
  cases h : p.cpu.is30xx with
  | true => rw [srBits_30xx h]; revert hi i; decide
  | false => exact bit_srBits_4xxx h (by revert hi i; decide)

theorem srMask_within (p : Params) : srMask p &&& ~~~srBits p = 0 := by
  unfold srBits
  split
  · rename_i h
    unfold srMask
    rw [if_pos h]
    decide
  · exact BitVec.and_not_self _

theorem resetSr_within (p : Params) : resetSr p &&& ~~~srBits p = 0 := by
  unfold resetSr
  split
  · rename_i h
    rw [srBits_30xx h]
    split <;> decide
  · rename_i h
    unfold srBits srMask
    rw [if_neg h, if_neg h]
    split <;> decide

theorem bit_causeBits (p : Params) {i : Nat} (hi : i ∈ [2, 3, 4, 5, 6, 28, 29, 31]) : bit (causeBits p) i = true := by
  unfold causeBits
  revert hi i
  split <;> decide

theorem causeMask_within (p : Params) : causeMask p &&& ~~~causeBits p = 0 := by
  unfold causeMask causeBits
  split
  · split <;> decide
  · decide

/-! ### The invariant in two parts -/

/-- What the invariant says of coprocessor 0. -/
structure Cop0Inv (p : Params) (c : Cp0) : Prop where
  sr : c.sr &&& ~~~srBits p = 0
  cause : c.cause &&& ~~~causeBits p = 0
  random : match p.mmu with
    | .tlb64 => 8 ≤ c.random.toNat
    | .tlb48 => c.wired.toNat ≤ 47 → c.wired.toNat ≤ c.random.toNat ∧ c.random.toNat ≤ 47
    | _ => True
  timer : p.cpu = .r3041 → c.count.toNat < 0x1000000 ∧ c.compare.toNat < 0x1000000

theorem State.Inv.cop0 {s : State} (h : s.Inv) : Cop0Inv s.par s.cp0 := ⟨h.sr, h.cause, h.random, h.timer⟩

/-- From `s` to `t` the parts of the invariant outside coprocessor 0 stay. -/
structure StoresKept (s t : State) : Prop where
  par : t.par = s.par
  mem : t.mem = s.mem
  icache : t.icache = s.icache
  dcache : t.dcache = s.dcache
  fcr31 : t.fpu.fcr31 = s.fpu.fcr31
  tlb48 : t.tlb48 = s.tlb48
  halted : t.halted = true → s.halted = true

theorem storesKept_of_par_eq {s t : State} (par : t.par = s.par) (mem : t.mem = s.mem) (icache : t.icache = s.icache)
    (dcache : t.dcache = s.dcache) (fpu : t.fpu = s.fpu) (tlb48 : t.tlb48 = s.tlb48) (halted : t.halted = s.halted) :
    StoresKept s t := ⟨par, mem, icache, dcache, by rw [fpu], tlb48, by rw [halted]; exact id⟩

/-- Where only coprocessor 0 changes the invariant is that of coprocessor 0. -/
theorem State.Inv.of_cop0 {s t : State} (h : s.Inv) (k : StoresKept s t) (hc : Cop0Inv s.par t.cp0) : t.Inv where
  mem := k.mem ▸ h.mem
  caches := by rw [k.icache, k.dcache]; exact h.caches
  sr := k.par ▸ hc.sr
  cause := k.par ▸ hc.cause
  fcr31 := by rw [k.fcr31, k.par]; exact h.fcr31
  random := by rw [k.par]; exact hc.random
  tlb48 := by rw [k.tlb48]; exact h.tlb48
  timer := by rw [k.par]; exact hc.timer
  halted hh := by rw [k.par]; exact h.halted (k.halted hh)

/-- Where coprocessor 0 stays too. -/
theorem State.Inv.of_kept {s t : State} (h : s.Inv) (k : StoresKept s t) (hc : t.cp0 = s.cp0) : t.Inv :=
  h.of_cop0 k (hc ▸ h.cop0)

section Cop0
variable {p : Params} {c c' : Cp0} (h : Cop0Inv p c)
include h

/-- A change of coprocessor 0 outside SR, Cause, Random, Wired and the timer. -/
theorem Cop0Inv.of_eq (sr : c'.sr = c.sr) (cause : c'.cause = c.cause) (random : c'.random = c.random)
    (wired : c'.wired = c.wired) (count : c'.count = c.count) (compare : c'.compare = c.compare) : Cop0Inv p c' where
  sr := sr ▸ h.sr
  cause := cause ▸ h.cause
  random := by rw [random, wired]; exact h.random
  timer := by rw [count, compare]; exact h.timer

theorem Cop0Inv.withSr {w : Word} (hw : w &&& ~~~srBits p = 0) : Cop0Inv p { c with sr := w } :=
  ⟨hw, h.cause, h.random, h.timer⟩

theorem Cop0Inv.withCause {w : Word} (hw : w &&& ~~~causeBits p = 0) : Cop0Inv p { c with cause := w } :=
  ⟨h.sr, hw, h.random, h.timer⟩

end Cop0

theorem State.Inv.withSr {s : State} (h : s.Inv) {w : Word} (hw : w &&& ~~~srBits s.par = 0) : (s.setSr w).Inv :=
  h.of_cop0 ⟨rfl, rfl, rfl, rfl, rfl, rfl, id⟩ (h.cop0.withSr hw)

/-! ### The unprivileged kinds of change -/

theorem setIsolated_par (s : State) (c : CacheArray) : (s.setIsolated c).par = s.par := by
  unfold State.setIsolated; split <;> rfl

/-- An isolated array in canonical form takes the place of one. -/
theorem State.Inv.setIsolated {s : State} (h : s.Inv) {c : CacheArray} (hd : memWf c.data = true)
    (hl : assocRising 0 c.lines = true) : (s.setIsolated c).Inv := by
  obtain ⟨hi, hd', hil, hdl⟩ := h.caches
  unfold State.setIsolated
  split
  · exact { h with caches := ⟨hd, hd', hl, hdl⟩ }
  · exact { h with caches := ⟨hi, hd, hil, hl⟩ }

theorem State.Inv.isolated {s : State} (h : s.Inv) :
    memWf s.isolated.data = true ∧ assocRising 0 s.isolated.lines = true := by
  obtain ⟨hi, hd, hil, hdl⟩ := h.caches
  unfold State.isolated
  split
  · exact ⟨hi, hil⟩
  · exact ⟨hd, hdl⟩

theorem State.Inv.isolatedStore {s : State} (h : s.Inv) (a n : Nat) (v : DWord) : (s.isolatedStore a n v).Inv := by
  obtain ⟨hd, hl⟩ := h.isolated
  unfold State.isolatedStore
  dsimp only
  split
  · exact h.setIsolated (memWf_writeList hd _ _) (assocRising_set (Nat.zero_le _) _ hl)
  · exact h.setIsolated hd (assocRising_erase _ hl)

theorem State.Inv.setFcr31 {s : State} (h : s.Inv) {v : Word}
    (hv : ∀ i, bit v i = true → bit s.fpu.fcr31 i = true ∨ bit (fcr31Mask s.par.cpu) i = true) : (s.setFcr31 v).Inv :=
  { h with fcr31 := and_not_eq_zero_iff.2 fun i hi => (hv i hi).elim (and_not_eq_zero_iff.1 h.fcr31 i) id }

/-- Each unprivileged kind of change keeps the invariant. -/
theorem steady_inv : Steady fun s t => s.Inv → t.Inv where
  refl _ := id
  trans _ _ _ hst htu := htu ∘ hst
  quiet s t q h := h.of_kept ⟨q.par, q.mem, q.icache, q.dcache, q.fcr31, q.tlb48, fun hh => q.halted ▸ hh⟩ q.cp0
  mem s a n v h := { h with mem := setMem_memWf h.mem a n v }
  isolated s a n v h := h.isolatedStore a n v
  cm s b hi h := by
    have h30 : s.par.cpu.is30xx = true := (Bool.and_eq_true_iff.1 hi).1
    exact h.withSr (within_setBit h.sr fun _ => by rw [srBits_30xx h30]; decide)
  fcr31 s v hv h := h.setFcr31 hv
  link s l h := by
    refine h.of_cop0 ⟨rfl, rfl, rfl, rfl, rfl, rfl, id⟩ (h.cop0.of_eq ?_ ?_ ?_ ?_ ?_ ?_) <;>
      (unfold State.setLink; dsimp only; split <;> rfl)

/-! ### Exceptions -/

theorem causeAfter_within {s : State} (h : s.Inv) (e : Exc) : s.causeAfter e &&& ~~~causeBits s.par = 0 := by
  have hcode : setField s.cp0.cause 2 e.code &&& ~~~causeBits s.par = 0 :=
    within_setField h.cause fun j => bit_causeBits _ (by revert j; decide)
  have hce : setField (setField s.cp0.cause 2 e.code) 28 (e.ce s.free) &&& ~~~causeBits s.par = 0 :=
    within_setField hcode fun j => bit_causeBits _ (by revert j; decide)
  have hbd : setBit (setField (setField s.cp0.cause 2 e.code) 28 (e.ce s.free)) 31 s.inDelay &&& ~~~causeBits s.par = 0 :=
    within_setBit hce fun _ => bit_causeBits _ (by decide)
  unfold State.causeAfter
  dsimp only
  generalize hc : (if !s.par.cpu.is30xx && s.exl then setField (setField s.cp0.cause 2 e.code) 28 (e.ce s.free)
    else setBit (setField (setField s.cp0.cause 2 e.code) 28 (e.ce s.free)) 31 s.inDelay) = c
  have hin : c &&& ~~~causeBits s.par = 0 := by
    rw [← hc]
    split
    · exact hce
    · exact hbd
  split
  · rename_i h46
    have hbits : causeBits s.par = 0xB380037C#32 := if_pos h46
    rw [hbits] at hin ⊢
    split
    · exact within_setBit (within_setBit hin fun _ => by decide) fun _ => by decide
    · exact within_setField hin (by decide)
  · exact hin

theorem srAfter_within {s : State} (h : s.Inv) : s.srAfter &&& ~~~srBits s.par = 0 := by
  unfold State.srAfter
  split
  · rename_i h30
    exact within_setField h.sr (by rw [srBits_30xx h30]; decide)
  · exact within_setBit h.sr fun _ => bit_srBits_low _ (by decide)

/-- An exception that the member can take keeps the invariant. -/
theorem takeException_inv {e : Exc} {s : State} (h : s.Inv) (he : e.fits s.par) : (takeException e s).Inv := by
  have common (hc : e.common = true) : (takeException e s).Inv := by
    rw [takeException_eq hc]
    refine h.of_cop0 ⟨rfl, rfl, rfl, rfl, rfl, rfl, id⟩ ?_
    exact ((h.cop0.withSr (srAfter_within h)).withCause (causeAfter_within h e)).of_eq rfl rfl rfl rfl rfl rfl
  cases e with
  | tlbShutdown =>
    have h30 : s.par.cpu.is30xx = true := by
      revert he
      unfold Exc.fits Params.mmu
      cases s.par.cpu <;> simp [Cpu.isOrionTlb, Cpu.is4650, Cpu.hasEVersion, Cpu.is30xx]
    exact h.withSr (within_setBit h.sr fun _ => by rw [srBits_30xx h30]; decide)
  | cacheError info =>
    exact h.of_cop0 ⟨rfl, rfl, rfl, rfl, rfl, rfl, id⟩
      ((h.cop0.withSr (within_setBit h.sr fun _ => bit_srBits_low _ (by decide))).of_eq rfl rfl rfl rfl rfl rfl)
  | _ => exact common rfl

/-- A result whose next state, if it has one, meets the invariant. -/
def Result.MeetsInv : Result → Prop
  | .next t => t.Inv
  | _ => True

theorem meetsInv_of_kept {s : State} (h : s.Inv) {r : Result} (hk : Kept (fun s t => s.Inv → t.Inv) s r) :
    Result.MeetsInv r := by
  cases r with
  | next t =>
    rcases hk with hk | ⟨e, u, rfl, hk, he⟩
    · exact hk h
    · exact takeException_inv (hk h) he
  | fault f => trivial
  | refused x => trivial

/-! ### Time -/

theorem State.Inv.tickRandom {s : State} (h : s.Inv) : s.tickRandom.Inv := by
  have quiet : s.useFree.Inv := steady_inv.quiet _ _ (quiet_useFree s) h
  unfold State.tickRandom
  split
  · rename_i hm
    have hr := h.random
    rw [hm] at hr
    split
    · exact h
    · split
      · rename_i hw
        refine h.of_cop0 ⟨rfl, rfl, rfl, rfl, rfl, rfl, id⟩ ⟨h.sr, h.cause, ?_, h.timer⟩
        rw [hm]
        exact fun hle => absurd hle (by simpa using hw)
      · rename_i hw
        refine h.of_cop0 ⟨rfl, rfl, rfl, rfl, rfl, rfl, id⟩ ⟨h.sr, h.cause, ?_, h.timer⟩
        rw [hm]
        intro hle
        dsimp only at hle ⊢
        split
        · exact ⟨hle, by decide⟩
        · bv_omega
  · rename_i hm
    refine h.of_cop0 ⟨rfl, rfl, rfl, rfl, rfl, rfl, id⟩ ⟨h.sr, h.cause, ?_, h.timer⟩
    rw [hm]
    dsimp only
    rw [BitVec.toNat_ofNat, Nat.mod_eq_of_lt (by omega)]
    omega
  · exact h

theorem and_24_lt (w : Word) : (w &&& 0x00FFFFFF#32).toNat < 0x1000000 := by
  rw [BitVec.toNat_and]
  exact Nat.lt_of_le_of_lt Nat.and_le_right (by decide)

theorem State.Inv.tickCount {s : State} (h : s.Inv) : s.tickCount.Inv := by
  unfold State.tickCount
  split
  · split
    · exact h.of_cop0 ⟨rfl, rfl, rfl, rfl, rfl, rfl, id⟩
        ⟨h.sr, h.cause, h.random, fun hc => ⟨show (0#32).toNat < _ by decide, (h.timer hc).2⟩⟩
    · exact h.of_cop0 ⟨rfl, rfl, rfl, rfl, rfl, rfl, id⟩
        ⟨h.sr, h.cause, h.random, fun hc => ⟨and_24_lt _, (h.timer hc).2⟩⟩
  · rename_i h41
    split
    · exact h
    · exact h.of_cop0 ⟨rfl, rfl, rfl, rfl, rfl, rfl, id⟩
        ⟨h.sr, h.cause, h.random, fun hc => absurd (beq_iff_eq.2 hc) h41⟩

theorem State.Inv.tickCounts {s : State} (h : s.Inv) (n : Nat) : (s.tickCounts n).Inv := by
  induction n generalizing s with
  | zero => exact h
  | succ n ih => exact ih h.tickCount

theorem State.Inv.tickTime {s : State} (h : s.Inv) : s.tickTime.Inv := h.tickCounts _

theorem State.Inv.tick {s : State} (h : s.Inv) : s.tick.Inv := h.tickRandom.tickCounts _

/-! ### Requests from outside and what comes before a fetch -/

theorem coldReset_sr (s : State) : ∃ k, (coldReset s).cp0.sr = merge k s.cp0.sr (resetSr s.par) := by
  unfold coldReset
  cases s.par.cpu <;> exact ⟨_, rfl⟩

/-- A cold reset writes no other register than SR that the invariant speaks of, but Random, Wired and Compare where the
member has them, with their bounds. -/
theorem coldReset_cop0 {s : State} (h : Cop0Inv s.par s.cp0) : Cop0Inv s.par (coldReset s).cp0 where
  sr := by
    obtain ⟨k, hk⟩ := coldReset_sr s
    rw [hk]
    refine within_merge h.sr ?_
    rw [BitVec.and_comm k]
    exact within_and (resetSr_within _)
  cause := by
    have hkept : (coldReset s).cp0.cause = s.cp0.cause := by
      unfold coldReset
      cases s.par.cpu <;> rfl
    exact hkept ▸ h.cause
  random := by
    unfold coldReset Params.mmu
    cases hc : s.par.cpu <;> cases s.par.eVersion <;>
      simp [Cpu.isOrionTlb, Cpu.is4650, Cpu.hasEVersion, Cpu.is30xx, Cp0.reset, State.gotoWith, hc]
  timer hc := by
    have ht := h.timer hc
    unfold coldReset
    rw [hc]
    exact ⟨ht.1, by simp [Cp0.reset, hc, Cpu.is30xx, State.gotoWith]⟩

theorem State.Inv.coldReset {s : State} (h : s.Inv) : (coldReset s).Inv :=
  h.of_cop0 ⟨rfl, rfl, rfl, rfl, rfl, rfl, Bool.noConfusion⟩ (coldReset_cop0 h.cop0)

theorem State.Inv.softReset {s : State} (h : s.Inv) (h30 : s.par.cpu.is30xx = false) : (softReset s).Inv := by
  have hset : 0x00500004#32 &&& ~~~srBits s.par = 0 := by
    unfold srBits srMask
    rw [if_neg (by simp [h30]), if_neg (by simp [h30])]
    split <;> decide
  exact h.of_cop0 ⟨rfl, rfl, rfl, rfl, rfl, rfl, id⟩ ((h.cop0.withSr (within_or h.sr hset)).of_eq rfl rfl rfl rfl rfl rfl)

theorem State.Inv.noteCacheError {s : State} (h : s.Inv) : s.noteCacheError.Inv := by
  have hdrop : s.dropCacheError.Inv := h.of_kept ⟨rfl, rfl, rfl, rfl, rfl, rfl, id⟩ rfl
  unfold State.noteCacheError
  split
  · exact h
  · split
    · rename_i hpe
      have h30 : s.par.cpu.is30xx = true := by
        have h71 := (Bool.and_eq_true_iff.1 hpe).1
        revert h71
        cases s.par.cpu <;> simp [Cpu.is3071, Cpu.is30xx]
      exact hdrop.withSr (within_setBit h.sr fun _ => by rw [srBits_30xx h30]; decide)
    · split
      · exact hdrop
      · exact h

theorem State.Inv.ready {s : State} (h : s.Inv) : s.ready.Inv :=
  h.noteCacheError.of_kept ⟨rfl, rfl, rfl, rfl, rfl, rfl, Bool.noConfusion⟩ rfl

theorem State.Inv.request {s t : State} (h : s.Inv) (ht : s.request = some t) : t.Inv := by
  have input (inp : Inputs) : { s with inp := inp }.Inv := h.of_kept ⟨rfl, rfl, rfl, rfl, rfl, rfl, id⟩ rfl
  unfold State.request at ht
  split at ht
  · cases ht; exact h.coldReset
  · split at ht
    · cases ht
    · rename_i h30
      have h30 : s.par.cpu.is30xx = false := by simpa using h30
      split at ht
      · cases ht; exact (input _).softReset h30
      · split at ht
        · cases ht; exact (input _).softReset h30
        · cases ht

/-- What a step does that runs no instruction keeps the invariant. -/
theorem beforeFetch_inv {s : State} (h : s.Inv) {r : Result} (hr : s.beforeFetch = some r) : Result.MeetsInv r := by
  unfold State.beforeFetch at hr
  split at hr
  · rename_i hreq
    cases hr
    exact (h.request hreq).tickTime
  · dsimp only at hr
    have hn := h.noteCacheError
    split at hr
    · cases hr; trivial
    · split at hr
      · cases hr; exact hn.tick
      · split at hr
        · cases hr
          have hw : { s.noteCacheError with watchI := false, watchD := false }.Inv :=
            hn.of_kept ⟨rfl, rfl, rfl, rfl, rfl, rfl, id⟩ rfl
          exact (takeException_inv (e := .watch _ _) hw trivial).tickTime
        · split at hr
          · cases hr; exact (takeException_inv (e := .interrupt) h.ready trivial).tickTime
          · cases hr

/-! ### The instructions that write coprocessor 0 -/

/-- The relation of the invariant: where it holds before it holds after. -/
abbrev InvKept (s t : State) : Prop := s.Inv → t.Inv

theorem State.Inv.setCp0 {s : State} (h : s.Inv) (r : Cp0Name) (v : DWord) : (s.setCp0 r v).Inv := by
  have other {t : State} (k : StoresKept s t) (sr : t.cp0.sr = s.cp0.sr) (cause : t.cp0.cause = s.cp0.cause)
      (random : t.cp0.random = s.cp0.random) (wired : t.cp0.wired = s.cp0.wired) (count : t.cp0.count = s.cp0.count)
      (compare : t.cp0.compare = s.cp0.compare) : t.Inv := h.of_cop0 k (h.cop0.of_eq sr cause random wired count compare)
  cases r with
  | random => exact h
  | badVAddr => exact h
  | prId => exact h
  | cacheErr => exact h
  | sr =>
    have hw : merge (srMask s.par) s.cp0.sr (lo32 v) &&& ~~~srBits s.par = 0 :=
      within_merge h.sr (within_and (srMask_within _))
    refine h.withSr ?_
    unfold State.srWritten
    dsimp only
    split
    · exact within_setBit hw Bool.noConfusion
    · exact hw
  | cause =>
    exact h.of_cop0 ⟨rfl, rfl, rfl, rfl, rfl, rfl, id⟩
      (h.cop0.withCause (within_merge h.cause (within_and (causeMask_within _))))
  | wired =>
    refine h.of_cop0 ⟨rfl, rfl, rfl, rfl, rfl, rfl, id⟩ ⟨h.sr, h.cause, ?_, h.timer⟩
    split
    · exact (by decide : 8 ≤ (47#6).toNat)
    · exact fun hle => ⟨hle, (by decide : (47#6).toNat ≤ 47)⟩
    · trivial
  | count =>
    refine h.of_cop0 ⟨rfl, rfl, rfl, rfl, rfl, rfl, id⟩ ⟨h.sr, h.cause, h.random, fun hc => ⟨?_, (h.timer hc).2⟩⟩
    simpa [State.setCp0, hc] using and_24_lt (lo32 v)
  | compare =>
    refine h.of_cop0 ⟨rfl, rfl, rfl, rfl, rfl, rfl, id⟩ ⟨h.sr, h.cause, h.random, fun hc => ⟨(h.timer hc).1, ?_⟩⟩
    simpa [State.setCp0, hc] using and_24_lt (lo32 v)
  | config =>
    exact { h with halted := fun hh => (Bool.and_eq_true_iff.1 hh).1 }
  | _ => exact other ⟨rfl, rfl, rfl, rfl, rfl, rfl, id⟩ rfl rfl rfl rfl rfl rfl

theorem keeps_inv_writeCp0 (r : Cp0Name) (v : DWord) : Op.Keeps InvKept (writeCp0 r v) := by
  intro s
  unfold writeCp0
  split
  · trivial
  · split
    · trivial
    · split
      · trivial
      · exact fun h => (h.of_kept (t := s.noteCp0Write r v) ⟨rfl, rfl, rfl, rfl, rfl, rfl, id⟩ rfl).setCp0 r v

theorem keeps_inv_writeCp0Word (n : RegNum) (v : DWord) : Op.Keeps InvKept (writeCp0Word n v) := by
  intro s
  unfold writeCp0Word
  split
  · exact id
  · split
    · exact keepsAt_after steady_inv (steady_inv.quiet _ _ (quiet_useFree s)) (keeps_inv_writeCp0 _ _ _)
    · exact keeps_inv_writeCp0 _ _ s

theorem keeps_inv_writeCp0Dword (n : RegNum) (v : DWord) : Op.Keeps InvKept (writeCp0Dword n v) := by
  intro s
  unfold writeCp0Dword
  split
  · exact id
  · split
    · exact keeps_inv_writeCp0 _ _ s
    · exact keepsAt_after steady_inv (steady_inv.quiet _ _ (quiet_useFree s)) (keeps_inv_writeCp0 _ _ _)

/-- A TLB instruction keeps the invariant where its two forms do, the one of the R30xx on a member with that TLB. -/
theorem keeps_inv_tlbOp {old new : Op Unit} (hold : ∀ s, s.par.mmu = .tlb64 → KeepsAt InvKept s (old s))
    (hnew : new.Keeps InvKept) : Op.Keeps InvKept (tlbOp old new) := by
  refine keeps_bind steady_inv (keeps_requireCop steady_inv _) fun _ s => ?_
  rw [look_bind]
  cases hm : s.par.mmu with
  | tlb64 => exact hold s hm
  | tlb48 => exact hnew s
  | fixed => exact keeps_pure steady_inv () s
  | basebounds => exact keeps_pure steady_inv () s

theorem readTlb64_inv (s : State) : InvKept s s.readTlb64 := fun h =>
  h.of_cop0 ⟨rfl, rfl, rfl, rfl, rfl, rfl, id⟩ (h.cop0.of_eq rfl rfl rfl rfl rfl rfl)

theorem writeTlb64_inv (s : State) (i : BitVec 6) : InvKept s (s.writeTlb64 i) := fun h =>
  h.of_kept ⟨rfl, rfl, rfl, rfl, rfl, rfl, id⟩ rfl

/-- Two matches shut down a TLB that is there. -/
theorem keepsAt_inv_probe64 (s : State) (hm : s.par.mmu = .tlb64) : KeepsAt InvKept s (probe64 s) := by
  have index (x : Word) (t : State) (ht : t = s ∨ t = s.useFree) : InvKept s { t with cp0 := { s.cp0 with index := x } } := by
    rcases ht with rfl | rfl <;>
      exact fun h => h.of_cop0 ⟨rfl, rfl, rfl, rfl, rfl, rfl, id⟩ (h.cop0.of_eq rfl rfl rfl rfl rfl rfl)
  unfold probe64
  split
  · exact index _ _ (.inr rfl)
  · exact index _ _ (.inl rfl)
  · exact ⟨id, hm⟩

theorem keeps_inv_probe48 : Op.Keeps InvKept probe48 := by
  intro s
  have index (x : Word) : InvKept s { s with cp0 := { s.cp0 with index := x } } := fun h =>
    h.of_cop0 ⟨rfl, rfl, rfl, rfl, rfl, rfl, id⟩ (h.cop0.of_eq rfl rfl rfl rfl rfl rfl)
  unfold probe48
  split
  · exact index _
  · exact index _
  · trivial

theorem keeps_inv_readTlb48 (i : Nat) : Op.Keeps InvKept (readTlb48 i) := by
  intro s
  unfold readTlb48
  split
  · exact fun h => h.of_cop0 ⟨rfl, rfl, rfl, rfl, rfl, rfl, id⟩ (h.cop0.of_eq rfl rfl rfl rfl rfl rfl)
  · trivial

/-- The entry written has the page size that was checked, and its masked bits were cleared. -/
theorem keeps_inv_writeTlb48 (i : Nat) : Op.Keeps InvKept (writeTlb48 i) := by
  intro s
  unfold writeTlb48
  split
  · rename_i hi
    split
    · rename_i hlegal
      intro h
      refine { h with tlb48 := fun e he => ?_ }
      have he : e ∈ s.tlb48.set i (tlb48FromRegs s.cp0.pageMask s.cp0.entryHi s.cp0.entryLo0 s.cp0.entryLo1) hi :=
        Vector.mem_toList_iff.1 he
      rcases Vector.mem_or_eq_of_mem_set he with he | rfl
      · exact h.tlb48 e (Vector.mem_toList_iff.2 he)
      · refine ⟨hlegal, ?_⟩
        unfold tlb48FromRegs
        dsimp only
        rw [BitVec.and_assoc, BitVec.and_comm (~~~_), BitVec.and_not_self]
        exact BitVec.and_zero
    · trivial
  · trivial

theorem freeDouble_inv (as : List Nat) (s : State) : InvKept s (as.foldl State.freeDouble s) := by
  induction as generalizing s with
  | nil => exact id
  | cons a as ih =>
    exact fun h => ih _ (steady_inv.mem _ _ _ _ (steady_inv.quiet _ _ (quiet_useFree s) h))

theorem keeps_inv_cacheEffect (op : BitVec 5) (pa : Nat) (cca : BitVec 3) : Op.Keeps InvKept (cacheEffect op pa cca) := by
  refine keeps_change fun s => ?_
  split
  · exact fun h => h.of_cop0 ⟨rfl, rfl, rfl, rfl, rfl, rfl, id⟩ (h.cop0.of_eq rfl rfl rfl rfl rfl rfl)
  · split
    · exact freeDouble_inv _ s
    · exact id

theorem returnHilo_inv (s : State) : InvKept s s.returnHilo := by
  unfold State.returnHilo
  split
  · exact fun h => h.of_kept ⟨rfl, rfl, rfl, rfl, rfl, rfl, id⟩ rfl
  · exact id

theorem returnHilo_par (s : State) : s.returnHilo.par = s.par := by
  unfold State.returnHilo
  split <;> rfl

/-- RFE runs on an R30xx only, whose SR has all the bits of the stack. -/
theorem keeps_inv_rfe : Op.Keeps InvKept (do
    let new ← look fun s => !s.par.cpu.is30xx
    raiseIf new .reservedInstruction
    change State.popMode) := by
  intro s
  cases h30 : s.par.cpu.is30xx with
  | true =>
    have hrun := (look_bind (fun s => !s.par.cpu.is30xx) (fun new => do
      raiseIf new .reservedInstruction; change State.popMode) s).trans (bind_ok (raiseIf_ok _ _ (by simp [h30])))
    rw [hrun]
    intro h
    have hr := returnHilo_inv s h
    refine hr.withSr (within_setField hr.sr ?_)
    rw [returnHilo_par, srBits_30xx h30]
    decide
  | false =>
    have hstop := (look_bind (fun s => !s.par.cpu.is30xx) (fun new => do
      raiseIf new .reservedInstruction; change State.popMode) s).trans (bind_error (raiseIf_error _ _ (by simp [h30])))
    rw [hstop]
    exact ⟨id, trivial⟩

theorem exceptionReturn_inv (s : State) : InvKept s s.exceptionReturn := by
  intro h
  have hr := returnHilo_inv s h
  unfold State.exceptionReturn
  dsimp only
  split
  · exact (hr.withSr (within_setBit hr.sr Bool.noConfusion)).of_kept ⟨rfl, rfl, rfl, rfl, rfl, rfl, id⟩ rfl
  · exact (hr.withSr (within_setBit hr.sr Bool.noConfusion)).of_kept ⟨rfl, rfl, rfl, rfl, rfl, rfl, id⟩ rfl

/-- So every instruction that writes coprocessor 0 keeps the invariant. -/
theorem writesCop0_kept (s : State) {i : Instr} (hi : WritesCop0 i) : Kept InvKept s (exec i s) := by
  have h := steady_inv
  cases hi with
  | mtc0 rt rd =>
    exact kept_runSeq h (keeps_bind h (keeps_requireCop h _) fun _ => keeps_bind h (keeps_readGpr h _) fun _ =>
      keeps_inv_writeCp0Word _ _) s
  | dmtc0 rt rd =>
    exact kept_runSeq h (keeps_bind h (keeps_requireCop h _) fun _ => keeps_bind h (keeps_require64 h) fun _ =>
      keeps_bind h (keeps_readGpr h _) fun _ => keeps_inv_writeCp0Dword _ _) s
  | cache base op offset =>
    exact kept_runSeq h (keeps_bind h (keeps_requireIsa h _) fun _ => keeps_bind h (keeps_requireCop h _) fun _ =>
      keeps_bind h (keeps_effAddr h _ _) fun _ => keeps_bind h (keeps_translate h _ _ _) fun _ =>
      keeps_inv_cacheEffect _ _ _) s
  | tlbr =>
    exact kept_runSeq h (keeps_inv_tlbOp (old := change State.readTlb64) (fun s _ => readTlb64_inv s)
      (keeps_bind h (keeps_look h _) fun _ => keeps_inv_readTlb48 _)) s
  | tlbwi =>
    exact kept_runSeq h (keeps_inv_tlbOp (old := change fun s => s.writeTlb64 s.index64) (fun s _ => writeTlb64_inv s _)
      (keeps_bind h (keeps_look h _) fun _ => keeps_inv_writeTlb48 _)) s
  | tlbwr =>
    exact kept_runSeq h (keeps_inv_tlbOp (old := change fun s => s.writeTlb64 s.cp0.random) (fun s _ => writeTlb64_inv s _)
      (keeps_bind h (keeps_look h _) fun _ => keeps_inv_writeTlb48 _)) s
  | tlbp => exact kept_runSeq h (keeps_inv_tlbOp keepsAt_inv_probe64 keeps_inv_probe48) s
  | rfe => exact kept_runSeq h (keeps_bind h (keeps_requireCop h _) fun _ => keeps_inv_rfe) s
  | eret =>
    exact kept_runOp (keeps_bind h (keeps_require4xxx h) fun _ => keeps_bind h (keeps_refuseInDelaySlot h) fun _ =>
      keeps_change exceptionReturn_inv) s

/-! ### The step -/

theorem exec_inv {s : State} (h : s.Inv) (i : Instr) : Result.MeetsInv (exec i s) :=
  meetsInv_of_kept h ((exec_kept steady_inv s i).elim (writesCop0_kept s) id)

theorem execReject_inv {s : State} (hs : s.Inv) (r : Reject) : Result.MeetsInv (execReject r s) := by
  have h := steady_inv
  refine meetsInv_of_kept hs ?_
  cases r with
  | reserved => exact kept_runOp (keeps_raise h (e := .reservedInstruction) fun _ => trivial) s
  | cop0 =>
    exact kept_runOp (keeps_bind h (keeps_requireCop h _) fun _ =>
      keeps_raise h (e := .reservedInstruction) fun _ => trivial) s
  | cop1 =>
    exact kept_runOp (keeps_bind h (keeps_requireCop h _) fun _ =>
      keeps_raise h (e := .reservedInstruction) fun _ => trivial) s
  | fpFormat lvl =>
    exact kept_runSeq h (keeps_bind h (keeps_fpGate h _) fun _ => keeps_bind h (keeps_look h _) fun _ =>
      keeps_ite (keeps_fpUnimplemented h) (keeps_pure h ())) s
  | copAbsent z => exact kept_runSeq h (keeps_requireCop h _) s

theorem runNext_inv {s : State} (hs : s.Inv) : Result.MeetsInv (runNext s) := by
  have hf := keeps_fetchWord steady_inv s
  unfold runNext State.fetch
  cases hw : fetchWord s with
  | ok r =>
    rw [hw] at hf
    obtain ⟨w, t⟩ := r
    dsimp only
    generalize decode s.par.cpu.isa w = d
    cases d with
    | ok i => exact exec_inv (hf hs) i
    | bad x => exact execReject_inv (hf hs) x
  | error e =>
    rw [hw] at hf
    cases e with
    | exc e t => exact takeException_inv (hf.1 hs) hf.2
    | refused r => trivial

/-- Settles O5: what a step does before the fetch, the instruction it runs and the step of time after it each keep the
invariant. -/
theorem stepKeepsInvariant : Obligations.StepKeepsInvariant := by
  intro s t h ht
  unfold step at ht
  cases hb : s.beforeFetch with
  | some r =>
    rw [hb] at ht
    have hr := beforeFetch_inv h hb
    dsimp only at ht
    rw [ht] at hr
    exact hr
  | none =>
    rw [hb] at ht
    have hr := runNext_inv h.ready
    cases hn : runNext s.ready with
    | next u =>
      rw [hn] at hr ht
      cases ht
      exact State.Inv.tick hr
    | fault f => rw [hn] at ht; cases ht
    | refused x => rw [hn] at ht; cases ht

end Sys2Proof.Machine
end

section
/-! PROOFS. Arithmetic, logic and shifts: how an instruction made of each shared operation completes, and the
statements. -/

namespace Sys2Proof.Machine

/-! ### How the shared shapes complete -/

/-- An instruction that only read and then wrote one general register completes with that value. -/
theorem completes_putGpr {i : Instr} {x : Op Unit} {s : State} {r : RegNum} {v : DWord} {n : Nat}
    (hi : exec i s = runSeq x s) (h : x s = .ok ((), (s.skip n).putGpr r v)) :
    Completes i s fun t => (r ≠ 0#5 → t.gprVal r = s.narrow v) ∧ Frame { gpr := [r] } s t ∧ Sequential s t := by
  obtain ⟨t, ht, hv, hf, hs⟩ := runSeq_putGpr h
  exact ⟨t, hi.trans ht, hv, hf, hs⟩

theorem Completes.mono {i : Instr} {s : State} {P Q : State → Prop} (h : Completes i s P) (hpq : ∀ t, P t → Q t) :
    Completes i s Q := by
  obtain ⟨t, ht, hp⟩ := h
  exact ⟨t, ht, hpq t hp⟩

/-- An instruction that used up free values, and no more, before its exception takes it. -/
theorem traps_skip {i : Instr} {x : Op Unit} {s : State} {e : Exc} {n : Nat} (hi : exec i s = runSeq x s)
    (h : x s = .error (.exc e (s.skip n))) : Traps i s e := ⟨s.freeCtr + n, hi.trans (runSeq_exc h)⟩

section Shapes
variable {i : Instr} {s : State} {rs rt rd : RegNum}

theorem aluRR_completes {f : DWord → DWord → DWord} (hi : exec i s = runSeq (aluRR rs rt rd f) s) :
    ∃ a b, s.Reads rs a ∧ s.Reads rt b ∧ s.narrow a = a ∧ s.narrow b = b ∧ Completes i s fun t =>
      (rd ≠ 0#5 → t.gprVal rd = s.narrow (f a b)) ∧ Frame { gpr := [rd] } s t ∧ Sequential s t := by
  obtain ⟨a, b, n, h, ra, rb, na, nb⟩ := aluRR_ok rs rt rd f s
  exact ⟨a, b, ra, rb, na, nb, completes_putGpr hi h⟩

theorem aluR_completes {f : DWord → DWord} (hi : exec i s = runSeq (aluR rs rd f) s) :
    ∃ a, s.Reads rs a ∧ s.narrow a = a ∧ Completes i s fun t =>
      (rd ≠ 0#5 → t.gprVal rd = s.narrow (f a)) ∧ Frame { gpr := [rd] } s t ∧ Sequential s t := by
  obtain ⟨a, n, h, ra, na⟩ := aluR_ok rs rd f s
  exact ⟨a, ra, na, completes_putGpr hi h⟩

theorem wordRR_completes {f : Word → Word → Word} (hi : exec i s = runSeq (wordRR rs rt rd f) s) :
    ∃ a b, s.Reads rs a ∧ s.Reads rt b ∧ Completes i s fun t =>
      (rd ≠ 0#5 → isWord a = true → isWord b = true → t.gprVal rd = (f (lo32 a) (lo32 b)).signExtend 64) ∧
        Frame { gpr := [rd] } s t ∧ Sequential s t := by
  obtain ⟨a, b, v, n, h, ra, rb, hv⟩ := wordRR_ok rs rt rd f s
  refine ⟨a, b, ra, rb, (completes_putGpr hi h).mono fun t ⟨hval, hf, hs⟩ => ⟨fun hr ha hb => ?_, hf, hs⟩⟩
  rw [hval hr, hv ha hb]
  exact s.narrow_sext _

theorem wordR_completes {f : Word → Word} (hi : exec i s = runSeq (wordR rs rd f) s) :
    ∃ a, s.Reads rs a ∧ Completes i s fun t =>
      (rd ≠ 0#5 → isWord a = true → t.gprVal rd = (f (lo32 a)).signExtend 64) ∧
        Frame { gpr := [rd] } s t ∧ Sequential s t := by
  obtain ⟨a, v, n, h, ra, hv⟩ := wordR_ok rs rd f s
  refine ⟨a, ra, (completes_putGpr hi h).mono fun t ⟨hval, hf, hs⟩ => ⟨fun hr ha => ?_, hf, hs⟩⟩
  rw [hval hr, hv ha]
  exact s.narrow_sext _

theorem dwordRR_completes {f : DWord → DWord → DWord} (hi : exec i s = runSeq (dwordRR rs rt rd f) s) (h64 : s.Has64) :
    ∃ a b, s.Reads rs a ∧ s.Reads rt b ∧ Completes i s fun t =>
      (rd ≠ 0#5 → t.gprVal rd = f a b) ∧ Frame { gpr := [rd] } s t ∧ Sequential s t := by
  obtain ⟨a, b, n, h, ra, rb⟩ := dwordRR_ok rs rt rd f s h64
  refine ⟨a, b, ra, rb, (completes_putGpr hi h).mono fun t ⟨hval, hf, hs⟩ => ⟨fun hr => ?_, hf, hs⟩⟩
  rw [hval hr, State.narrow_of_mips3 h64.1]

theorem dwordR_completes {f : DWord → DWord} (hi : exec i s = runSeq (dwordR rs rd f) s) (h64 : s.Has64) :
    ∃ a, s.Reads rs a ∧ Completes i s fun t =>
      (rd ≠ 0#5 → t.gprVal rd = f a) ∧ Frame { gpr := [rd] } s t ∧ Sequential s t := by
  obtain ⟨a, n, h, ra⟩ := dwordR_ok rs rd f s h64
  refine ⟨a, ra, (completes_putGpr hi h).mono fun t ⟨hval, hf, hs⟩ => ⟨fun hr => ?_, hf, hs⟩⟩
  rw [hval hr, State.narrow_of_mips3 h64.1]

end Shapes

/-! ### Trapping arithmetic -/

theorem fitsInt_word (x : Int) : fitsInt 32 x = true ↔ -0x80000000 ≤ x ∧ x < 0x80000000 := by
  rw [fitsInt_iff]
  norm_num

theorem fitsInt_dword (x : Int) : fitsInt 64 x = true ↔ -0x8000000000000000 ≤ x ∧ x < 0x8000000000000000 := by
  rw [fitsInt_iff]
  norm_num

section Trapping
variable {i : Instr} {s : State} {rd : RegNum} {a b : DWord} {f : Int → Int → Int} {x : Op Unit} {n : Nat}

/-- An instruction that reads its operands and ends in the trapping 32-bit operation. -/
theorem wordTrapping_outcomes (hi : exec i s = runSeq x s) (h : x s = wordTrapping rd a b f (s.skip n)) :
    (isWord a = true → isWord b = true →
      (-0x80000000 ≤ f (lo32 a).toInt (lo32 b).toInt → f (lo32 a).toInt (lo32 b).toInt < 0x80000000 →
        Completes i s fun t => (rd ≠ 0#5 → t.gprVal rd =
          (BitVec.ofInt 32 (f (lo32 a).toInt (lo32 b).toInt)).signExtend 64) ∧ Frame { gpr := [rd] } s t ∧ Sequential s t) ∧
      (f (lo32 a).toInt (lo32 b).toInt < -0x80000000 ∨ 0x80000000 ≤ f (lo32 a).toInt (lo32 b).toInt →
        Traps i s .overflow)) ∧
    ∃ t, exec i s = .next t := by
  obtain ⟨hfits, hover, hends⟩ := wordTrapping_ok rd a b f (s.skip n)
  refine ⟨fun ha hb => ⟨fun hlo hhi => ?_, fun hout => ?_⟩, ?_⟩
  · have hrun := h.trans (hfits ha hb ((fitsInt_word _).2 ⟨hlo, hhi⟩))
    refine (completes_putGpr hi hrun).mono fun t ⟨hval, hf, hs⟩ => ⟨fun hr => ?_, hf, hs⟩
    rw [hval hr]
    exact s.narrow_sext _
  · have hno : fitsInt 32 (f (lo32 a).toInt (lo32 b).toInt) = false := by
      rw [Bool.eq_false_iff, Ne, fitsInt_word]
      omega
    exact traps_skip hi (h.trans (hover ha hb hno))
  · rcases hends with ⟨v, m, hv⟩ | ⟨m, hm⟩
    · exact ⟨_, hi.trans (runSeq_ok (h.trans hv))⟩
    · exact ⟨_, hi.trans (runSeq_exc (h.trans hm))⟩

/-- The same of the 64-bit operation, where 64-bit operations are enabled. -/
theorem dwordTrapping_outcomes (hi : exec i s = runSeq x s) (h64 : s.Has64) (h : x s = dwordTrapping rd a b f (s.skip n)) :
    (-0x8000000000000000 ≤ f a.toInt b.toInt → f a.toInt b.toInt < 0x8000000000000000 → Completes i s fun t =>
      (rd ≠ 0#5 → t.gprVal rd = BitVec.ofInt 64 (f a.toInt b.toInt)) ∧ Frame { gpr := [rd] } s t ∧ Sequential s t) ∧
    (f a.toInt b.toInt < -0x8000000000000000 ∨ 0x8000000000000000 ≤ f a.toInt b.toInt → Traps i s .overflow) := by
  obtain ⟨hfits, hover⟩ := dwordTrapping_ok rd a b f (s.skip n)
  refine ⟨fun hlo hhi => ?_, fun hout => ?_⟩
  · refine (completes_putGpr hi (h.trans (hfits ((fitsInt_dword _).2 ⟨hlo, hhi⟩)))).mono
      fun t ⟨hval, hf, hs⟩ => ⟨fun hr => ?_, hf, hs⟩
    rw [hval hr, State.narrow_of_mips3 h64.1]
  · have hno : fitsInt 64 (f a.toInt b.toInt) = false := by
      rw [Bool.eq_false_iff, Ne, fitsInt_dword]
      omega
    exact traps_skip hi (h.trans (hover hno))

end Trapping

section TrappingRegisters
variable {i : Instr} {s : State} {rs rt rd : RegNum} {f : Int → Int → Int}

theorem wordTrapping_registers (hi : exec i s = runSeq (do
      let a ← readGpr rs
      let b ← readGpr rt
      wordTrapping rd a b f) s) :
    ∃ a b, s.Reads rs a ∧ s.Reads rt b ∧ (isWord a = true → isWord b = true →
      let x := f (lo32 a).toInt (lo32 b).toInt
      (-0x80000000 ≤ x → x < 0x80000000 → Completes i s fun t =>
        (rd ≠ 0#5 → t.gprVal rd = (BitVec.ofInt 32 x).signExtend 64) ∧ Frame { gpr := [rd] } s t ∧ Sequential s t) ∧
      (x < -0x80000000 ∨ 0x80000000 ≤ x → Traps i s .overflow)) ∧ ∃ t, exec i s = .next t := by
  obtain ⟨a, b, n, h, ra, rb, -, -⟩ := read2 rs rt s fun a b => wordTrapping rd a b f
  exact ⟨a, b, ra, rb, wordTrapping_outcomes hi h⟩

theorem dwordTrapping_registers (hi : exec i s = runSeq (do
      require64
      let a ← readGpr rs
      let b ← readGpr rt
      dwordTrapping rd a b f) s) (h64 : s.Has64) :
    ∃ a b, s.Reads rs a ∧ s.Reads rt b ∧
      let x := f a.toInt b.toInt
      (-0x8000000000000000 ≤ x → x < 0x8000000000000000 → Completes i s fun t =>
        (rd ≠ 0#5 → t.gprVal rd = BitVec.ofInt 64 x) ∧ Frame { gpr := [rd] } s t ∧ Sequential s t) ∧
      (x < -0x8000000000000000 ∨ 0x8000000000000000 ≤ x → Traps i s .overflow) := by
  obtain ⟨a, b, n, h, ra, rb, -, -⟩ := read2 rs rt s fun a b => dwordTrapping rd a b f
  exact ⟨a, b, ra, rb, dwordTrapping_outcomes hi h64 ((bind_ok (require64_ok h64)).trans h)⟩

end TrappingRegisters

/-- The immediate counts as the number it stands for, in a word and in a doubleword. -/
theorem toInt_lo32_sextImm (imm : BitVec 16) : (lo32 (sextImm imm)).toInt = imm.toInt := by
  rw [lo32_sextImm]
  exact BitVec.toInt_signExtend_of_le (by decide)

theorem toInt_sextImm (imm : BitVec 16) : (sextImm imm).toInt = imm.toInt :=
  BitVec.toInt_signExtend_of_le (by decide)

/-! ### The statements -/

/-- Settles O10: ADDU and SUBU are the word operation of two registers, ADDIU that of one. -/
theorem wordArithmetic : Obligations.WordArithmetic := by
  refine ⟨fun row hrow s rs rt rd => ?_, fun s rs rt imm => ?_⟩
  · simp only [List.mem_cons, List.not_mem_nil, or_false] at hrow
    rcases hrow with rfl | rfl
    · exact wordRR_completes rfl
    · exact wordRR_completes rfl
  · obtain ⟨a, ra, h⟩ := wordR_completes (i := .addiu rs rt imm) (s := s) rfl
    rw [lo32_sextImm] at h
    exact ⟨a, ra, h⟩

/-- Settles O11: the three end in the trapping word operation, ADDI with the immediate for its second operand. -/
theorem trappingWordArithmetic : Obligations.TrappingWordArithmetic := by
  refine ⟨fun row hrow s rs rt rd => ?_, fun s rs rt imm => ?_⟩
  · simp only [List.mem_cons, List.not_mem_nil, or_false] at hrow
    rcases hrow with rfl | rfl
    · exact wordTrapping_registers rfl
    · exact wordTrapping_registers rfl
  · obtain ⟨a, n, h, ra, -⟩ := read1 rs s fun a => wordTrapping rt a (sextImm imm) (· + ·)
    obtain ⟨hwords, hends⟩ := wordTrapping_outcomes (i := .addi rs rt imm) rfl h
    rw [toInt_lo32_sextImm] at hwords
    exact ⟨a, ra, fun ha => hwords ha (isWord_sextImm imm), hends⟩

/-- Settles O12: the doubleword operation of two registers or of one, and the trapping one. -/
theorem doublewordArithmetic : Obligations.DoublewordArithmetic := by
  refine ⟨fun row hrow s rs rt rd h64 => ?_, fun row hrow s rs rt rd h64 => ?_, fun s rs rt imm h64 => ?_⟩
  · simp only [List.mem_cons, List.not_mem_nil, or_false] at hrow
    rcases hrow with rfl | rfl
    · exact dwordRR_completes rfl h64
    · exact dwordRR_completes rfl h64
  · simp only [List.mem_cons, List.not_mem_nil, or_false] at hrow
    rcases hrow with rfl | rfl
    · exact dwordTrapping_registers rfl h64
    · exact dwordTrapping_registers rfl h64
  · obtain ⟨a, n, ha, ra, -⟩ := readGpr_reads rs s
    have hadd : dwordR rs rt (· + sextImm imm) s = .ok ((), (s.skip n).putGpr rt (a + sextImm imm)) :=
      (bind_ok (require64_ok h64)).trans (bind_ok ha)
    have htrap := dwordTrapping_outcomes (i := .daddi rs rt imm) rfl h64 ((bind_ok (require64_ok h64)).trans (bind_ok ha))
    rw [toInt_sextImm] at htrap
    refine ⟨a, ra, (completes_putGpr rfl hadd).mono fun t ⟨hval, hf, hs⟩ => ⟨fun hr => ?_, hf, hs⟩, htrap⟩
    rw [hval hr, State.narrow_of_mips3 h64.1]
    rfl

/-- A logic instruction of two registers: its result is as wide as its operands. -/
theorem logicRR_completes {i : Instr} {s : State} {rs rt rd : RegNum} {f : DWord → DWord → DWord}
    (hi : exec i s = runSeq (aluRR rs rt rd f) s) (hf : ∀ a b, s.narrow a = a → s.narrow b = b → s.narrow (f a b) = f a b) :
    ∃ a b, s.Reads rs a ∧ s.Reads rt b ∧ Completes i s fun t =>
      (rd ≠ 0#5 → t.gprVal rd = f a b) ∧ Frame { gpr := [rd] } s t ∧ Sequential s t := by
  obtain ⟨a, b, ra, rb, na, nb, h⟩ := aluRR_completes hi
  rw [hf a b na nb] at h
  exact ⟨a, b, ra, rb, h⟩

/-- The same of a register and the zero-extended immediate. -/
theorem logicRI_completes {i : Instr} {s : State} {rs rt : RegNum} {imm : BitVec 16} {f : DWord → DWord → DWord}
    (hi : exec i s = runSeq (aluR rs rt (f · (zextImm imm))) s)
    (hf : ∀ a b, s.narrow a = a → s.narrow b = b → s.narrow (f a b) = f a b) :
    ∃ a, s.Reads rs a ∧ Completes i s fun t =>
      (rt ≠ 0#5 → t.gprVal rt = f a (imm.setWidth 64)) ∧ Frame { gpr := [rt] } s t ∧ Sequential s t := by
  obtain ⟨a, ra, na, h⟩ := aluR_completes hi
  rw [hf a (zextImm imm) na (narrow_zeroExtended s imm)] at h
  exact ⟨a, ra, h⟩

/-- A comparison of two registers gives 1 or 0. -/
theorem setRR_completes {i : Instr} {s : State} {rs rt rd : RegNum} {test : DWord → DWord → Bool}
    (hi : exec i s = runSeq (aluRR rs rt rd fun a b => boolVal (test a b)) s) :
    ∃ a b, s.Reads rs a ∧ s.Reads rt b ∧ Completes i s fun t =>
      (rd ≠ 0#5 → t.gprVal rd = if test a b then 1 else 0) ∧ Frame { gpr := [rd] } s t ∧ Sequential s t := by
  obtain ⟨a, b, ra, rb, -, -, h⟩ := aluRR_completes hi
  rw [narrow_boolVal] at h
  exact ⟨a, b, ra, rb, h⟩

/-- The same of a register and the sign-extended immediate. -/
theorem setRI_completes {i : Instr} {s : State} {rs rt : RegNum} {imm : BitVec 16} {test : DWord → DWord → Bool}
    (hi : exec i s = runSeq (aluR rs rt fun a => boolVal (test a (sextImm imm))) s) :
    ∃ a, s.Reads rs a ∧ Completes i s fun t =>
      (rt ≠ 0#5 → t.gprVal rt = if test a (imm.signExtend 64) then 1 else 0) ∧
        Frame { gpr := [rt] } s t ∧ Sequential s t := by
  obtain ⟨a, ra, -, h⟩ := aluR_completes hi
  rw [narrow_boolVal] at h
  exact ⟨a, ra, h⟩

/-- Settles O13: the bitwise operations keep register-wide operands register-wide, the comparisons give 1 or 0. -/
theorem logicAndCompare : Obligations.LogicAndCompare := by
  refine ⟨⟨fun row hrow s rs rt rd => ?_, fun row hrow s rs rt imm => ?_, fun s rt imm => ?_⟩,
    fun row hrow s rs rt rd => ?_, fun row hrow s rs rt imm => ?_⟩
  · simp only [List.mem_cons, List.not_mem_nil, or_false] at hrow
    rcases hrow with rfl | rfl | rfl | rfl
    · exact logicRR_completes rfl fun a b ha hb => (narrow_bitwise ha hb).1
    · exact logicRR_completes rfl fun a b ha hb => (narrow_bitwise ha hb).2.1
    · exact logicRR_completes rfl fun a b ha hb => (narrow_bitwise ha hb).2.2.1
    · exact logicRR_completes rfl fun a b ha hb => (narrow_bitwise ha hb).2.2.2
  · simp only [List.mem_cons, List.not_mem_nil, or_false] at hrow
    rcases hrow with rfl | rfl | rfl
    · exact logicRI_completes (f := (· &&& ·)) rfl fun a b ha hb => (narrow_bitwise ha hb).1
    · exact logicRI_completes (f := (· ||| ·)) rfl fun a b ha hb => (narrow_bitwise ha hb).2.1
    · exact logicRI_completes (f := (· ^^^ ·)) rfl fun a b ha hb => (narrow_bitwise ha hb).2.2.1
  · have h := completes_putGpr (i := .lui rt imm) (s := s) (x := writeGpr rt (sext (imm ++ 0#16))) (n := 0) rfl rfl
    rw [State.narrow_sext] at h
    exact h
  · simp only [List.mem_cons, List.not_mem_nil, or_false] at hrow
    rcases hrow with rfl | rfl
    · exact setRR_completes (test := BitVec.slt) rfl
    · exact setRR_completes (test := BitVec.ult) rfl
  · simp only [List.mem_cons, List.not_mem_nil, or_false] at hrow
    rcases hrow with rfl | rfl
    · exact setRI_completes (test := BitVec.slt) rfl
    · exact setRI_completes (test := BitVec.ult) rfl

/-! ### Shifts -/

/-- The amount is the low bits of the register. -/
theorem toNat_lowBits (a : DWord) (w : Nat) : (a.extractLsb' 0 w).toNat = a.toNat % 2 ^ w := by
  rw [BitVec.extractLsb'_toNat, Nat.shiftRight_zero]

/-- A right shift of a word by a register. -/
theorem shiftRightV_completes {i : Instr} {s : State} {rs rt rd : RegNum} {f : Word → Nat → Word}
    (hi : exec i s = runSeq (do
      let a ← readGpr rs
      wordR rt rd fun b => f b (a.extractLsb' 0 5).toNat) s) :
    ∃ a b, s.Reads rs a ∧ s.Reads rt b ∧ Completes i s fun t =>
      (rd ≠ 0#5 → isWord b = true → t.gprVal rd = (f (lo32 b) (a.toNat % 32)).signExtend 64) ∧
        Frame { gpr := [rd] } s t ∧ Sequential s t := by
  obtain ⟨a, n, h, ra, -⟩ := read1 rs s fun a => wordR rt rd fun b => f b (a.extractLsb' 0 5).toNat
  obtain ⟨b, v, m, h', rb, hv⟩ := wordR_ok rt rd (fun b => f b (a.extractLsb' 0 5).toNat) (s.skip n)
  rw [State.skip_skip] at h'
  refine ⟨a, b, ra, rb, (completes_putGpr hi (h.trans h')).mono fun t ⟨hval, hf, hs⟩ => ⟨fun hr hb => ?_, hf, hs⟩⟩
  rw [hval hr, hv hb, State.narrow_sext, toNat_lowBits]
  rfl

/-- A 64-bit shift by a register. -/
theorem dshiftV_completes {i : Instr} {s : State} {rs rt rd : RegNum} {f : DWord → Nat → DWord} (h64 : s.Has64)
    (hi : exec i s = runSeq (dwordRR rs rt rd fun a b => f b (a.extractLsb' 0 6).toNat) s) :
    ∃ a b, s.Reads rs a ∧ s.Reads rt b ∧ Completes i s fun t =>
      (rd ≠ 0#5 → t.gprVal rd = f b (a.toNat % 64)) ∧ Frame { gpr := [rd] } s t ∧ Sequential s t := by
  obtain ⟨a, b, ra, rb, h⟩ := dwordRR_completes hi h64
  rw [toNat_lowBits] at h
  exact ⟨a, b, ra, rb, h⟩

/-- A right shift of a word by sa. -/
theorem shiftRight_completes {i : Instr} {s : State} {rt rd : RegNum} {sa : BitVec 5} {f : Word → Nat → Word}
    (hi : exec i s = runSeq (wordR rt rd (f · sa.toNat)) s) :
    ∃ b, s.Reads rt b ∧ Completes i s fun t =>
      (rd ≠ 0#5 → (true = true → isWord b = true) → t.gprVal rd = (f (lo32 b) sa.toNat).signExtend 64) ∧
        Frame { gpr := [rd] } s t ∧ Sequential s t := by
  obtain ⟨b, rb, h⟩ := wordR_completes hi
  exact ⟨b, rb, h.mono fun t ⟨hval, hf, hs⟩ => ⟨fun hr hb => hval hr (hb rfl), hf, hs⟩⟩

/-- Settles O14: the left shifts are operations on all bits, the right shifts on words, the 64-bit ones on doublewords. -/
theorem shifts : Obligations.Shifts := by
  refine ⟨⟨fun row hrow s rt rd sa => ?_, fun row hrow s rs rt rd => ?_⟩,
    fun row hrow s rt rd sa h64 => ?_, fun row hrow s rs rt rd h64 => ?_⟩
  · simp only [List.mem_cons, List.not_mem_nil, or_false] at hrow
    rcases hrow with rfl | rfl | rfl
    · obtain ⟨b, rb, -, h⟩ := aluR_completes (i := .sll rt rd sa) (s := s) rfl
      rw [State.narrow_sext] at h
      exact ⟨b, rb, h.mono fun t ⟨hval, hf, hs⟩ => ⟨fun hr _ => hval hr, hf, hs⟩⟩
    · exact shiftRight_completes rfl
    · exact shiftRight_completes rfl
  · simp only [List.mem_cons, List.not_mem_nil, or_false] at hrow
    rcases hrow with rfl | rfl | rfl
    · obtain ⟨a, b, ra, rb, -, -, h⟩ := aluRR_completes (i := .sllv rs rt rd) (s := s) rfl
      rw [State.narrow_sext, toNat_lowBits] at h
      exact ⟨a, b, ra, rb, h.mono fun t ⟨hval, hf, hs⟩ => ⟨fun hr _ => hval hr, hf, hs⟩⟩
    · obtain ⟨a, b, ra, rb, h⟩ := shiftRightV_completes (i := .srlv rs rt rd) (s := s) (f := (· >>> ·)) rfl
      exact ⟨a, b, ra, rb, h.mono fun t ⟨hval, hf, hs⟩ => ⟨fun hr hb => hval hr (hb rfl), hf, hs⟩⟩
    · obtain ⟨a, b, ra, rb, h⟩ := shiftRightV_completes (i := .srav rs rt rd) (s := s) (f := BitVec.sshiftRight) rfl
      exact ⟨a, b, ra, rb, h.mono fun t ⟨hval, hf, hs⟩ => ⟨fun hr hb => hval hr (hb rfl), hf, hs⟩⟩
  · simp only [List.mem_cons, List.not_mem_nil, or_false] at hrow
    rcases hrow with rfl | rfl | rfl | rfl | rfl | rfl
    · rw [Nat.zero_add]; exact dwordR_completes rfl h64
    · rw [Nat.zero_add]; exact dwordR_completes rfl h64
    · rw [Nat.zero_add]; exact dwordR_completes rfl h64
    · exact dwordR_completes rfl h64
    · exact dwordR_completes rfl h64
    · exact dwordR_completes rfl h64
  · simp only [List.mem_cons, List.not_mem_nil, or_false] at hrow
    rcases hrow with rfl | rfl | rfl
    · exact dshiftV_completes (f := (· <<< ·)) h64 rfl
    · exact dshiftV_completes (f := (· >>> ·)) h64 rfl
    · exact dshiftV_completes (f := BitVec.sshiftRight) h64 rfl

end Sys2Proof.Machine
end

section
/-! PROOFS. HI and LO: their moves, the products and quotients, and the R4650's multiply-accumulate. -/

namespace Sys2Proof.Machine

/-! ### The moves -/

theorem narrow_hiVal (s : State) : s.narrow s.hiVal = s.hiVal := s.narrow_narrow _
theorem narrow_loVal (s : State) : s.narrow s.loVal = s.loVal := s.narrow_narrow _

/-- A read of HI or LO completes with the value `v` it finds. -/
theorem readHilo_completes {i : Instr} {s : State} {fromHi : Bool} {rd : RegNum} {v : DWord}
    (hi : exec i s = runSeq (readHilo fromHi rd) s) (hv : (if fromHi then s.hiVal else s.loVal) = v)
    (nv : s.narrow v = v) :
    Completes i s fun t => (rd ≠ 0#5 → t.gprVal rd = v) ∧ Frame { gpr := [rd] } s t ∧ Sequential s t := by
  have hrun : readHilo fromHi rd s = .ok ((), (s.putGpr rd v).noteHiloRead fromHi rd) := by
    rw [← hv]
    rfl
  refine ⟨_, hi.trans (runSeq_ok hrun), fun hr => ?_, ?_, sequential_advance (by simp)⟩
  · have hput : ((s.putGpr rd v).noteHiloRead fromHi rd).advance.gprVal rd = (s.putGpr rd v).gprVal rd :=
      gprVal_congr rfl rfl rd
    rw [hput, putGpr_self _ _ hr, nv]
  · exact (frame_putGpr s rd v (by simp)).trans
      (((same_noteHiloRead _ fromHi rd).trans (same_advance _)).frame _)

/-- Losing the other of HI and LO changes at most that one. -/
theorem loseOther_frame (s : State) (toHi : Bool) {w : Touch} (hw : w.hilo = true) : Frame w s (s.loseOther toHi) := by
  unfold State.loseOther
  split
  · cases toHi
    · exact ((same_useFree s).frame w).trans ((frame_setHi _ _ hw).trans (SameMachine.frame (by constructor <;> rfl) w))
    · exact ((same_useFree s).frame w).trans ((frame_setLo _ _ hw).trans (SameMachine.frame (by constructor <;> rfl) w))
  · exact (same_refl s).frame w

theorem loseOther_of_read {s : State} (h : s.hiloUnread = false) (toHi : Bool) : s.loseOther toHi = s := by
  unfold State.loseOther
  rw [if_neg (by simp [h])]

theorem loseOther_nextPc (s : State) (toHi : Bool) : (s.loseOther toHi).nextPc = s.nextPc := by
  unfold State.loseOther
  split
  · cases toHi <;> rfl
  · rfl

/-- What MTHI and MTLO run: the spoiling, the read, and the write after which the other one may be lost. -/
theorem moveToHilo_ok (toHi : Bool) (rs : RegNum) (s : State) :
    ∃ a n, s.ReadsUnspoiled toHi (!toHi) rs a ∧ moveToHilo toHi rs s =
      .ok ((), let t := ((s.spoil toHi (!toHi)).skip n).loseOther toHi; if toHi then t.setHi a else t.setLo a) := by
  obtain ⟨a, n, h, ra, -⟩ := readGpr_reads rs (s.spoil toHi (!toHi))
  exact ⟨a, n, reads_of_spoil ra, (spoilReads_bind _ _ _ s).trans (bind_ok h)⟩

/-- Before the write only spoiled registers, and HI and LO, can have changed; where the last result had been read HI and LO
have not. -/
theorem loseOther_spoil (toHi : Bool) (s : State) (n : Nat) :
    let t := ((s.spoil toHi (!toHi)).skip n).loseOther toHi
    Frame { gpr := s.spoiled toHi (!toHi), hilo := true } s t ∧ t.nextPc = s.nextPc ∧
      (s.hiloUnread = false → t.hi = s.hi ∧ t.lo = s.lo) := by
  refine ⟨?_, ?_, fun hu => ?_⟩
  · exact (frame_spoil s _ _ fun _ h => h).trans (((same_skip _ n).frame _).trans (loseOther_frame _ _ rfl))
  · rw [loseOther_nextPc]
    simp
  · rw [loseOther_of_read (by simpa using hu)]
    simp

theorem hiVal_setHi {s u : State} (h : u.par = s.par) (a : DWord) : (u.setHi a).advance.hiVal = s.narrow a := by
  have hu : (u.setHi a).advance.hiVal = u.narrow (u.narrow a) := narrow_congr rfl _
  rw [hu, State.narrow_narrow, narrow_congr h]

theorem loVal_setLo {s u : State} (h : u.par = s.par) (a : DWord) : (u.setLo a).advance.loVal = s.narrow a := by
  have hu : (u.setLo a).advance.loVal = u.narrow (u.narrow a) := narrow_congr rfl _
  rw [hu, State.narrow_narrow, narrow_congr h]

/-- Settles O16: the reads complete with the value they find; the writes come after the spoiling and may lose the other
register. -/
theorem hiLoMoves : Obligations.HiLoMoves := by
  refine ⟨fun s rd => ⟨readHilo_completes rfl rfl (narrow_hiVal s), readHilo_completes rfl rfl (narrow_loVal s)⟩,
    fun s rs => ⟨?_, ?_⟩⟩
  · obtain ⟨a, n, ra, h⟩ := moveToHilo_ok true rs s
    obtain ⟨hf, hpc, hkept⟩ := loseOther_spoil true s n
    exact ⟨a, ra, _, runSeq_ok h, hiVal_setHi hf.rest.1 a, fun hu => (hkept hu).2,
      hf.trans ((frame_setHi _ a rfl).trans ((same_advance _).frame _)), sequential_advance hpc⟩
  · obtain ⟨a, n, ra, h⟩ := moveToHilo_ok false rs s
    obtain ⟨hf, hpc, hkept⟩ := loseOther_spoil false s n
    exact ⟨a, ra, _, runSeq_ok h, loVal_setLo hf.rest.1 a, fun hu => (hkept hu).1,
      hf.trans ((frame_setLo _ a rfl).trans ((same_advance _).frame _)), sequential_advance hpc⟩

/-! ### Products and quotients -/

section Products
variable {i : Instr} {s : State} {rs rt : RegNum}

/-- A 32-bit operation on HI and LO: the two words where the operands are words and the divisor, if it has one, is not
zero. -/
theorem wordHilo_completes {bad : Word → Bool} {f : Word → Word → Word × Word}
    (hi : exec i s = runSeq (wordHilo rs rt bad f) s) :
    ∃ a b, s.ReadsUnspoiled true true rs a ∧ s.ReadsUnspoiled true true rt b ∧ Completes i s fun t =>
      (isWord a = true → isWord b = true → bad (lo32 b) = false →
        t.hiVal = sext (f (lo32 a) (lo32 b)).1 ∧ t.loVal = sext (f (lo32 a) (lo32 b)).2) ∧
        Frame { gpr := s.spoiled true true, hilo := true } s t ∧ Sequential s t := by
  obtain ⟨a, b, h, l, n, e, ra, rb, hv⟩ := wordHilo_ok rs rt bad f s
  obtain ⟨t, ht, -, -, hhi, hlo, hf, hs⟩ := runSeq_putHilo e
  refine ⟨a, b, ra, rb, t, hi.trans ht, fun ha hb hbad => ?_, hf, hs⟩
  obtain ⟨rfl, rfl⟩ := hv ha hb hbad
  exact ⟨hhi.trans (s.narrow_sext _), hlo.trans (s.narrow_sext _)⟩

theorem wordProduct_completes {f : Word → Word → Int}
    (hi : exec i s = runSeq (wordHilo rs rt (fun _ => false) fun a b => halves 32 (f a b)) s) :
    ∃ a b, s.ReadsUnspoiled true true rs a ∧ s.ReadsUnspoiled true true rt b ∧ Completes i s fun t =>
      (isWord a = true → isWord b = true → lo32 t.hiVal ++ lo32 t.loVal = BitVec.ofInt 64 (f (lo32 a) (lo32 b)) ∧
          isWord t.hiVal = true ∧ isWord t.loVal = true) ∧
        Frame { gpr := s.spoiled true true, hilo := true } s t ∧ Sequential s t := by
  obtain ⟨a, b, ra, rb, h⟩ := wordHilo_completes hi
  refine ⟨a, b, ra, rb, h.mono fun t ⟨hval, hf, hs⟩ => ⟨fun ha hb => ?_, hf, hs⟩⟩
  obtain ⟨hhi, hlo⟩ := hval ha hb rfl
  rw [hhi, hlo, lo32_sext, lo32_sext, isWord_sext, isWord_sext]
  exact ⟨halves_append 32 _, rfl, rfl⟩

theorem wordQuotient_completes {f : Word → Int}
    (hi : exec i s = runSeq (wordHilo rs rt (· == 0) fun a b => divide 32 (f a) (f b)) s) :
    ∃ a b, s.ReadsUnspoiled true true rs a ∧ s.ReadsUnspoiled true true rt b ∧ Completes i s fun t =>
      (isWord a = true → isWord b = true → lo32 b ≠ 0 →
        t.loVal = (BitVec.ofInt 32 ((f (lo32 a)).tdiv (f (lo32 b)))).signExtend 64 ∧
          t.hiVal = (BitVec.ofInt 32 ((f (lo32 a)).tmod (f (lo32 b)))).signExtend 64) ∧
        Frame { gpr := s.spoiled true true, hilo := true } s t ∧ Sequential s t := by
  obtain ⟨a, b, ra, rb, h⟩ := wordHilo_completes hi
  exact ⟨a, b, ra, rb, h.mono fun t ⟨hval, hf, hs⟩ =>
    ⟨fun ha hb h0 => (hval ha hb (beq_false_of_ne h0)).symm, hf, hs⟩⟩

theorem dwordHilo_completes {bad : DWord → Bool} {f : DWord → DWord → DWord × DWord}
    (hi : exec i s = runSeq (dwordHilo rs rt bad f) s) (h64 : s.Has64) :
    ∃ a b, s.ReadsUnspoiled true true rs a ∧ s.ReadsUnspoiled true true rt b ∧ Completes i s fun t =>
      (bad b = false → t.hi = (f a b).1 ∧ t.lo = (f a b).2) ∧
        Frame { gpr := s.spoiled true true, hilo := true } s t ∧ Sequential s t := by
  obtain ⟨a, b, h, l, n, e, ra, rb, hv⟩ := dwordHilo_ok rs rt bad f s h64
  obtain ⟨t, ht, hhi, hlo, -, -, hf, hs⟩ := runSeq_putHilo e
  refine ⟨a, b, ra, rb, t, hi.trans ht, fun hbad => ?_, hf, hs⟩
  obtain ⟨rfl, rfl⟩ := hv hbad
  rw [State.narrow_of_mips3 h64.1] at hhi hlo
  exact ⟨hhi, hlo⟩

theorem dwordProduct_completes {f : DWord → DWord → Int}
    (hi : exec i s = runSeq (dwordHilo rs rt (fun _ => false) fun a b => halves 64 (f a b)) s) (h64 : s.Has64) :
    ∃ a b, s.ReadsUnspoiled true true rs a ∧ s.ReadsUnspoiled true true rt b ∧ Completes i s fun t =>
      t.hi ++ t.lo = BitVec.ofInt 128 (f a b) ∧
        Frame { gpr := s.spoiled true true, hilo := true } s t ∧ Sequential s t := by
  obtain ⟨a, b, ra, rb, h⟩ := dwordHilo_completes hi h64
  refine ⟨a, b, ra, rb, h.mono fun t ⟨hval, hf, hs⟩ => ⟨?_, hf, hs⟩⟩
  obtain ⟨hhi, hlo⟩ := hval rfl
  rw [hhi, hlo]
  exact halves_append 64 _

theorem dwordQuotient_completes {f : DWord → Int}
    (hi : exec i s = runSeq (dwordHilo rs rt (· == 0) fun a b => divide 64 (f a) (f b)) s) (h64 : s.Has64) :
    ∃ a b, s.ReadsUnspoiled true true rs a ∧ s.ReadsUnspoiled true true rt b ∧ Completes i s fun t =>
      (b ≠ 0 → t.lo = BitVec.ofInt 64 ((f a).tdiv (f b)) ∧ t.hi = BitVec.ofInt 64 ((f a).tmod (f b))) ∧
        Frame { gpr := s.spoiled true true, hilo := true } s t ∧ Sequential s t := by
  obtain ⟨a, b, ra, rb, h⟩ := dwordHilo_completes hi h64
  exact ⟨a, b, ra, rb, h.mono fun t ⟨hval, hf, hs⟩ => ⟨fun h0 => (hval (beq_false_of_ne h0)).symm, hf, hs⟩⟩

end Products

/-- Settles O17: the products are the halves of an integer product, the quotients truncated division. -/
theorem wordMultiplyDivide : Obligations.WordMultiplyDivide := by
  refine ⟨fun row hrow s rs rt => ?_, fun row hrow s rs rt => ?_⟩
  · simp only [List.mem_cons, List.not_mem_nil, or_false] at hrow
    rcases hrow with rfl | rfl
    · exact wordProduct_completes (f := fun a b => a.toInt * b.toInt) rfl
    · exact wordProduct_completes (f := fun a b => a.toNat * b.toNat) rfl
  · simp only [List.mem_cons, List.not_mem_nil, or_false] at hrow
    rcases hrow with rfl | rfl
    · exact wordQuotient_completes (f := BitVec.toInt) rfl
    · exact wordQuotient_completes (f := fun a => a.toNat) rfl

/-- Settles O18: as O17, of doublewords. -/
theorem doublewordMultiplyDivide : Obligations.DoublewordMultiplyDivide := by
  refine ⟨fun row hrow s rs rt h64 => ?_, fun row hrow s rs rt h64 => ?_⟩
  · simp only [List.mem_cons, List.not_mem_nil, or_false] at hrow
    rcases hrow with rfl | rfl
    · exact dwordProduct_completes (f := fun a b => a.toInt * b.toInt) rfl h64
    · exact dwordProduct_completes (f := fun a b => a.toNat * b.toNat) rfl h64
  · simp only [List.mem_cons, List.not_mem_nil, or_false] at hrow
    rcases hrow with rfl | rfl
    · exact dwordQuotient_completes (f := BitVec.toInt) rfl h64
    · exact dwordQuotient_completes (f := fun a => a.toNat) rfl h64

/-! ### Multiply-accumulate -/

theorem accumulate_completes {i : Instr} {s : State} {rs rt : RegNum} {f : Word → Word → Int}
    (hi : exec i s = runSeq (accumulate rs rt f) s) (h46 : s.par.cpu.is4650 = true) :
    ∃ a b, s.ReadsUnspoiled true true rs a ∧ s.ReadsUnspoiled true true rt b ∧ Completes i s fun t =>
      lo32 t.hiVal ++ lo32 t.loVal = (lo32 s.hiVal ++ lo32 s.loVal) + BitVec.ofInt 64 (f (lo32 a) (lo32 b)) ∧
        isWord t.hiVal = true ∧ isWord t.loVal = true ∧
        Frame { gpr := s.spoiled true true, hilo := true } s t ∧ Sequential s t := by
  obtain ⟨a, b, n, ra, rb, e⟩ := accumulate_ok rs rt f s h46
  obtain ⟨t, ht, -, -, hhi, hlo, hf, hs⟩ := runSeq_putHilo e
  rw [State.narrow_sext] at hhi
  rw [sextLo, State.narrow_sext] at hlo
  refine ⟨a, b, ra, rb, t, hi.trans ht, ?_, by rw [hhi, isWord_sext], by rw [hlo, isWord_sext], hf, hs⟩
  rw [hhi, hlo, lo32_sext, lo32_sext]
  exact words_of_append _

theorem accumulate_reserved {i : Instr} {s : State} {rs rt : RegNum} {f : Word → Word → Int}
    (hi : exec i s = runSeq (accumulate rs rt f) s) (h46 : s.par.cpu.is4650 = false) : Traps i s .reservedInstruction :=
  traps_of_runSeq hi (bind_error (require4650_error h46))

/-- MUL writes rd after it has lost HI and LO. -/
theorem mul_completes {s : State} (rs rt rd : RegNum) (h46 : s.par.cpu.is4650 = true) :
    ∃ a b, s.ReadsUnspoiled true true rs a ∧ s.ReadsUnspoiled true true rt b ∧ Completes (.mul rs rt rd) s fun t =>
      (rd ≠ 0#5 → t.gprVal rd = (lo32 a * lo32 b).signExtend 64) ∧
        Frame { gpr := rd :: s.spoiled true true, hilo := true } s t ∧ Sequential s t := by
  obtain ⟨a, b, n, e, ra, rb, -, -⟩ := read2 rs rt (s.spoil true true) fun a b => do
    writeHiloOr true 0 0
    writeGpr rd (sext (lo32 a * lo32 b))
  obtain ⟨h, l, m, e', -⟩ := writeHiloOr_ok true 0 0 ((s.spoil true true).skip n)
  have hrun := (bind_ok (f := fun _ => do
    spoilReads true true
    let a ← readGpr rs
    let b ← readGpr rt
    writeHiloOr true 0 0
    writeGpr rd (sext (lo32 a * lo32 b))) (require4650_ok h46)).trans
    ((spoilReads_bind _ _ _ s).trans (e.trans ((bind_ok e').trans rfl)))
  refine ⟨a, b, reads_of_spoil ra, reads_of_spoil rb, _, runSeq_ok hrun, fun hr => ?_, ?_, sequential_advance (by simp)⟩
  · rw [gprVal_congr (State.advance_par _) (State.advance_gpr _), putGpr_self _ _ hr, State.narrow_sext]
    rfl
  · refine (frame_spoil s true true fun r hr => by simp [hr]).trans (((same_skip _ n).frame _).trans
      (((same_skip _ m).frame _).trans ((frame_putHilo _ h l rfl).trans ((frame_putGpr _ rd _ ?_).trans
        ((same_advance _).frame _)))))
    simp

/-- Settles O19: the R4650's three have their operation, every other member the check that refuses them. -/
theorem multiplyAccumulate : Obligations.MultiplyAccumulate := by
  refine ⟨fun row hrow s rs rt => ?_, fun s rs rt rd => ⟨mul_completes rs rt rd, fun h46 => ?_⟩⟩
  · simp only [List.mem_cons, List.not_mem_nil, or_false] at hrow
    rcases hrow with rfl | rfl
    · exact ⟨accumulate_completes (f := fun a b => a.toInt * b.toInt) rfl, accumulate_reserved rfl⟩
    · exact ⟨accumulate_completes (f := fun a b => a.toNat * b.toNat) rfl, accumulate_reserved rfl⟩
  · exact traps_of_runSeq rfl (bind_error (require4650_error h46))

end Sys2Proof.Machine
end

section
/-! PROOFS. Instructions the member or the mode does not have: the checks that refuse them, and the statement. -/

namespace Sys2Proof.Machine

section Checks
variable {s : State}

/-- Below MIPS III, or in a mode without 64-bit operations, the doubleword check refuses. -/
theorem require64_error (h : ¬s.HasIsa .mips3 ∨ ∃ m, s.mode? = some m ∧ s.ops64 m = false) :
    require64 s = .error (.exc .reservedInstruction s) := by
  unfold require64
  by_cases h3 : s.HasIsa .mips3
  · obtain ⟨m, hm, ho⟩ := h.resolve_left (not_not_intro h3)
    exact (bind_ok (requireIsa_ok h3)).trans ((bind_ok (currentMode_ok hm)).trans
      (raiseIf_error _ _ (by simp [ho])))
  · exact bind_error (requireIsa_error h3)

theorem fpGate_error {l : Isa} (hc : s.CopUsable 1#2) (h : ¬s.HasIsa l) :
    fpGate l s = .error (.exc .reservedInstruction s) :=
  (bind_ok (requireCop_ok hc)).trans (requireIsa_error h)

theorem is30xx_of_not_mips3 (h : ¬s.HasIsa .mips3) : s.par.cpu.is30xx = true := by
  revert h
  unfold State.HasIsa
  cases s.par.cpu <;> simp [Cpu.isa, Isa.rank, Cpu.is30xx]

theorem require4xxx_error (hc : s.CopUsable 0#2) (h : s.par.cpu.is30xx = true) :
    require4xxx s = .error (.exc .reservedInstruction s) :=
  (bind_ok (requireCop_ok hc)).trans ((look_bind _ _ s).trans (raiseIf_error _ _ h))

end Checks

/-- Settles O8: each instruction starts with the check of its level, the doubleword ones with that of 64-bit operations,
those of a coprocessor after the check of the coprocessor. -/
theorem reservedBelowLevel : Obligations.ReservedBelowLevel := by
  intro s q r t u sa imm cc ri
  refine ⟨fun h64 => ⟨fun i hi => ?_, fun hc i hi => ?_, fun hc i hi => ?_⟩,
    fun h2 => ⟨fun i hi => ?_, fun hc i hi => ?_, fun hc i hi => ?_, fun hc i hi => ?_⟩,
    fun h3 => ⟨runSeq_exc (bind_error (requireIsa_error h3)), fun hc i hi => ?_, fun hc i hi => ?_⟩,
    fun h4 => ⟨fun i hi => ?_, fun hc i hi => ?_⟩⟩ <;>
  simp only [List.mem_cons, List.not_mem_nil, or_false] at hi
  · have no64 := require64_error h64
    rcases hi with rfl | rfl | rfl | rfl | rfl | rfl | rfl | rfl | rfl | rfl | rfl | rfl | rfl | rfl | rfl | rfl | rfl |
      rfl | rfl | rfl | rfl | rfl | rfl | rfl | rfl | rfl | rfl | rfl
    all_goals exact runSeq_exc (bind_error no64)
  · have no64 := require64_error h64
    rcases hi with rfl | rfl
    all_goals exact runSeq_exc ((bind_ok (requireCop_ok hc)).trans (bind_error no64))
  · have no64 := require64_error h64
    rcases hi with rfl | rfl
    all_goals exact runSeq_exc ((bind_ok (requireCop_ok hc)).trans (bind_error no64))
  · rcases hi with rfl | rfl | rfl | rfl | rfl | rfl | rfl
    case inr.inr.inl => exact runSeq_exc (requireIsa_error h2)
    all_goals exact runSeq_exc (bind_error (requireIsa_error h2))
  · rcases hi with rfl | rfl
    all_goals exact runOp_exc ((bind_ok (requireCop_ok hc)).trans (bind_error (requireIsa_error h2)))
  · have gate := fpGate_error hc h2
    rcases hi with rfl | rfl | rfl | rfl | rfl | rfl | rfl | rfl | rfl | rfl | rfl | rfl
    case inl => exact runOp_exc ((bind_ok (requireCop_ok hc)).trans (bind_error (requireIsa_error h2)))
    case inr.inl => exact runOp_exc ((bind_ok (requireCop_ok hc)).trans (bind_error (requireIsa_error h2)))
    all_goals exact runSeq_exc (bind_error gate)
  · rcases hi with rfl | rfl
    all_goals exact runOp_exc ((bind_ok (requireCop_ok hc)).trans (bind_error (requireIsa_error h2)))
  · have old := require4xxx_error hc (is30xx_of_not_mips3 h3)
    rcases hi with rfl | rfl
    · exact runOp_exc (bind_error old)
    · exact runSeq_exc old
  · have gate := fpGate_error hc h3
    rcases hi with rfl | rfl | rfl | rfl | rfl | rfl | rfl | rfl | rfl | rfl | rfl | rfl
    all_goals exact runSeq_exc (bind_error gate)
  · have lvl := requireIsa_error h4
    rcases hi with rfl | rfl | rfl | rfl | rfl | rfl | rfl | rfl | rfl | rfl | rfl | rfl | rfl | rfl | rfl | rfl | rfl | rfl
    case inr.inr.inr.inr.inl => exact runSeq_exc lvl
    case inr.inr.inr.inr.inr.inr.inl => exact runSeq_exc (bind_error (bind_error lvl))
    case inr.inr.inr.inr.inr.inr.inr.inl => exact runSeq_exc (bind_error (bind_error lvl))
    all_goals exact runSeq_exc (bind_error lvl)
  · have gate := fpGate_error hc h4
    rcases hi with rfl | rfl | rfl | rfl | rfl | rfl | rfl | rfl | rfl | rfl | rfl | rfl
    all_goals exact runSeq_exc (bind_error gate)

end Sys2Proof.Machine
end

section
/-! PROOFS. Jumps and branches: how a control transfer completes, the link write before it, the tests, and the
statements. -/

namespace Sys2Proof.Machine

/-! ### Transfers of control -/

/-- From `s` to `u` what a control transfer looks at stays. -/
structure SameControl (s u : State) : Prop where
  nextPc : u.nextPc = s.nextPc
  par : u.par = s.par
  cp0 : u.cp0 = s.cp0

theorem sameControl_skip (s : State) (n : Nat) : SameControl s (s.skip n) := ⟨rfl, rfl, rfl⟩

theorem pcNorm_of_sameControl {s u : State} (h : SameControl s u) (a : DWord) : u.pcNorm a = s.pcNorm a := by
  unfold State.pcNorm State.addr64 State.mode? State.exl State.erl
  rw [h.par, h.cp0]

theorem branchTarget_of_sameControl {s u : State} (h : SameControl s u) (off : BitVec 16) :
    u.branchTarget off = s.pcNorm (s.nextPc + off.signExtend 64 * 4) := by
  rw [branchTarget_eq, pcNorm_of_sameControl h, h.nextPc]

section Transfers
variable {i : Instr} {x : Op Unit} {s u : State} (hi : exec i s = runOp x s) (hc : SameControl s u)
include hi hc

/-- An instruction that comes to a branch at `u` completes as the branch, with the registers of `u`. -/
theorem completes_branchIf {taken : Bool} {off : BitVec 16} (h : x s = branchIf taken off u) :
    Completes i s fun t =>
      Branched s t taken (s.pcNorm (s.nextPc + off.signExtend 64 * 4)) ∧ SameMachine u t := by
  refine ⟨_, hi.trans (runOp_ok (h.trans (branchIf_apply _ _ _))), ?_, same_advanceBranch _ _ _⟩
  rw [branchTarget_of_sameControl hc]
  exact branched_done hc.nextPc hc.par hc.cp0 _ _

theorem completes_branchLikelyIf {taken : Bool} {off : BitVec 16} (h : x s = branchLikelyIf taken off u) :
    Completes i s fun t =>
      BranchedLikely s t taken (s.pcNorm (s.nextPc + off.signExtend 64 * 4)) ∧ SameMachine u t := by
  refine ⟨_, hi.trans (runOp_ok (h.trans (branchLikelyIf_apply _ _ _))), ?_, ?_⟩
  · rw [branchTarget_of_sameControl hc]
    exact branchedLikely_done hc.nextPc hc.par hc.cp0 _ _
  · split
    · exact same_advanceBranch _ _ _
    · exact same_advanceNullify _

theorem completes_jumpTo {a : DWord} (h : x s = jumpTo a u) :
    Completes i s fun t => Branched s t true a ∧ SameMachine u t :=
  ⟨_, hi.trans (runOp_ok h), branched_done hc.nextPc hc.par hc.cp0 _ _, same_advanceBranch _ _ _⟩

end Transfers

/-- A transfer that changed nothing before it has the empty frame. -/
theorem Completes.frame_skip {i : Instr} {s : State} {n : Nat} {P : State → Prop}
    (h : Completes i s fun t => P t ∧ SameMachine (s.skip n) t) : Completes i s fun t => P t ∧ Frame {} s t :=
  h.mono fun _ ⟨hp, hsame⟩ => ⟨hp, ((same_skip s n).trans hsame).frame _⟩

/-! ### The link -/

/-- From `s` to `u` register `rd` gets the link value and nothing else changes that the transfer looks at. -/
structure Linked (s u : State) (rd : RegNum) : Prop where
  control : SameControl s u
  frame : Frame { gpr := [rd] } s u
  value : rd ≠ 0#5 → u.gprVal rd = s.narrow (s.pcNorm (s.nextPc + 4))

theorem linked_putGpr {s t : State} (h : SameMachine s t) (hn : t.nextPc = s.nextPc) (rd : RegNum) :
    Linked s (t.putGpr rd t.linkValue) rd where
  control := ⟨by simpa using hn, by simpa using h.par, by simpa using h.cp0⟩
  frame := (h.frame _).trans (frame_putGpr _ _ _ (by simp))
  value hr := by
    have hc : SameControl s t := ⟨hn, h.par, h.cp0⟩
    rw [putGpr_self _ _ hr, narrow_congr h.par, State.linkValue, pcNorm_of_sameControl hc, hn]

/-- A completed transfer with a link has the register and the frame of the state it was made at. -/
theorem Completes.linked {i : Instr} {s u : State} {rd : RegNum} {P : State → Prop} (hu : Linked s u rd)
    (h : Completes i s fun t => P t ∧ SameMachine u t) : Completes i s fun t => P t ∧
      (rd ≠ 0#5 → t.gprVal rd = s.narrow (s.pcNorm (s.nextPc + 4))) ∧ Frame { gpr := [rd] } s t :=
  h.mono fun _ ⟨hp, hsame⟩ =>
    ⟨hp, fun hr => (gprVal_congr hsame.par hsame.gpr rd).trans (hu.value hr), hu.frame.trans (hsame.frame _)⟩

/-- What is noted for the slot makes no difference to a read. -/
theorem readGpr_noteLinkSlot {r : RegNum} {s : State} {a : DWord} {n : Nat} (h : readGpr r s = .ok (a, s.skip n)) :
    readGpr r s.noteLinkSlot = .ok (a, s.noteLinkSlot.skip n) := by
  have note (u : State) (hu : u = s.skip n) : u.noteLinkSlot = s.noteLinkSlot.skip n := by rw [hu]; rfl
  unfold readGpr at h ⊢
  split at h
  · rename_i hz
    obtain ⟨ha, hs⟩ := Prod.mk.inj (Except.ok.inj h)
    rw [if_pos (by exact hz), ← ha, ← note _ hs]
    rfl
  · rename_i hz
    obtain ⟨ha, hs⟩ := Prod.mk.inj (Except.ok.inj h)
    rw [if_neg (by exact hz), ← ha, ← note _ hs]
    rfl

section LinkRead
variable {s : State} {rs rd : RegNum}

/-- What the linking transfers on a register do first: the checks, the read, the link. -/
def linkRead (rs rd : RegNum) (k : DWord → Op Unit) : Op Unit := do
  refuseInDelaySlot
  restartable rs rd
  let a ← readGpr rs
  writeLink rd
  k a

theorem linkRead_ok (k : DWord → Op Unit) {a : DWord} {n : Nat} (ha : readGpr rs s = .ok (a, s.skip n))
    (hd : s.inDelay = false) (hr : s.Restarts rs rd = false) :
    ∃ u, linkRead rs rd k s = k a u ∧ Linked s u rd := by
  obtain ⟨t, ht, hst⟩ := restartable_ok hr
  have hread : readGpr rs t = .ok (a, t.skip n) := by
    rcases hst with rfl | rfl
    · exact ha
    · exact readGpr_noteLinkSlot ha
  have hsame : SameMachine s (t.skip n) ∧ (t.skip n).nextPc = s.nextPc := by
    rcases hst with rfl | rfl
    · exact ⟨same_skip _ n, rfl⟩
    · exact ⟨(same_noteLinkSlot s).trans (same_skip _ n), rfl⟩
  refine ⟨_, ?_, linked_putGpr hsame.1 hsame.2 rd⟩
  exact (bind_ok (refuseInDelaySlot_ok hd)).trans ((bind_ok ht).trans ((bind_ok hread).trans (bind_ok (writeLink_apply _ _))))

theorem linkRead_refused (k : DWord → Op Unit) (hd : s.inDelay = false) (hr : s.Restarts rs rd = true) :
    linkRead rs rd k s = .error (.refused .linkNotRestartable) :=
  (bind_ok (refuseInDelaySlot_ok hd)).trans (bind_error (restartable_refuses hr))

end LinkRead

/-! ### Jumps -/

/-- Settles O20: J and JR jump at once, JAL and JALR after the link; the register is read before it. -/
theorem jumps : Obligations.Jumps := by
  refine ⟨fun s idx hd => ⟨?_, ?_⟩, fun s rs rd hd => ?_⟩
  · exact (completes_jumpTo (u := s.skip 0) rfl (sameControl_skip s 0)
      ((bind_ok (refuseInDelaySlot_ok hd)).trans (look_bind _ _ s))).frame_skip
  · have hu := linked_putGpr (same_refl s) rfl 31#5
    refine ((completes_jumpTo rfl hu.control ?_).linked hu).mono fun t ⟨hb, hv, hf⟩ => ⟨hb, hv (by decide), hf⟩
    exact (bind_ok (refuseInDelaySlot_ok hd)).trans ((look_bind _ _ s).trans (bind_ok (writeLink_apply _ _)))
  · obtain ⟨a, n, ha, ra, -⟩ := readGpr_reads rs s
    refine ⟨a, ra, ?_, fun hr => ?_, fun hr => ?_⟩
    · exact (completes_jumpTo (a := s.normVa a) rfl (sameControl_skip s n)
        ((bind_ok (refuseInDelaySlot_ok hd)).trans (bind_ok ha))).frame_skip
    · obtain ⟨u, hrun, hu⟩ := linkRead_ok jumpReg ha hd hr
      have hva : u.normVa a = s.normVa a := by
        unfold State.normVa
        rw [hu.control.par]
      have hjump : jumpReg a u = jumpTo (s.normVa a) u := by rw [← hva]; rfl
      exact (completes_jumpTo (i := .jalr rs rd) (x := linkRead rs rd jumpReg) rfl hu.control
        (hrun.trans hjump)).linked hu
    · exact runOp_refused (linkRead_refused jumpReg hd hr)

/-! ### Branches on registers -/

section OnRegisters
variable {i : Instr} {s : State} {rs rt : RegNum} {off : BitVec 16} (hd : s.inDelay = false)
include hd

theorem branchRegs_completes {test : DWord → DWord → Bool} (hi : exec i s = runOp (branchRegs rs rt test off) s) :
    ∃ a b, s.Reads rs a ∧ s.Reads rt b ∧ Completes i s fun t =>
      Branched s t (test a b) (s.pcNorm (s.nextPc + off.signExtend 64 * 4)) ∧ Frame {} s t := by
  obtain ⟨a, b, n, h, ra, rb, -, -⟩ := read2 rs rt s fun a b => branchIf (test a b) off
  exact ⟨a, b, ra, rb, (completes_branchIf hi (sameControl_skip s n)
    ((bind_ok (refuseInDelaySlot_ok hd)).trans h)).frame_skip⟩

theorem branchReg_completes {test : DWord → Bool} (hi : exec i s = runOp (branchReg rs test off) s) :
    ∃ a, s.Reads rs a ∧ Completes i s fun t =>
      Branched s t (test a) (s.pcNorm (s.nextPc + off.signExtend 64 * 4)) ∧ Frame {} s t := by
  obtain ⟨a, n, h, ra, -⟩ := read1 rs s fun a => branchIf (test a) off
  exact ⟨a, ra, (completes_branchIf hi (sameControl_skip s n)
    ((bind_ok (refuseInDelaySlot_ok hd)).trans h)).frame_skip⟩

theorem branchRegLink_completes {test : DWord → Bool} (hi : exec i s = runOp (branchRegLink rs test off) s) :
    (s.Restarts rs 31#5 = false → ∃ a, s.Reads rs a ∧ Completes i s fun t =>
      Branched s t (test a) (s.pcNorm (s.nextPc + off.signExtend 64 * 4)) ∧
        t.gprVal 31#5 = s.narrow (s.pcNorm (s.nextPc + 4)) ∧ Frame { gpr := [31#5] } s t) ∧
    (s.Restarts rs 31#5 = true → exec i s = .refused .linkNotRestartable) := by
  refine ⟨fun hr => ?_, fun hr => ?_⟩
  · obtain ⟨a, n, ha, ra, -⟩ := readGpr_reads rs s
    obtain ⟨u, hrun, hu⟩ := linkRead_ok (fun a => branchIf (test a) off) ha hd hr
    exact ⟨a, ra, ((completes_branchIf hi hu.control hrun).linked hu).mono
      fun t ⟨hb, hv, hf⟩ => ⟨hb, hv (by decide), hf⟩⟩
  · exact hi.trans (runOp_refused (linkRead_refused _ hd hr))

end OnRegisters

/-- The tests of the sign, of the number the register holds. -/
theorem isPositive_eq (a : DWord) : (!isNotPositive a) = decide (0 < a.toInt) := by
  rw [isNotPositive_eq, ← decide_not, decide_eq_decide]
  omega

theorem isNotNegative_eq (a : DWord) : (!isNegative a) = decide (0 ≤ a.toInt) := by
  rw [isNegative_eq, ← decide_not, decide_eq_decide]
  omega

/-- The tests of equality, as the statements write them. -/
theorem beq_eq_test (a b : DWord) : (a == b) = decide (decide (a = b) = true) := by
  by_cases h : a = b <;> simp [h]

theorem bne_eq_test (a b : DWord) : (a != b) = decide (decide (a = b) = false) := by
  by_cases h : a = b <;> simp [h]

/-- Settles O21: each is one of three shared operations with its own test. -/
theorem branches : Obligations.Branches := by
  refine ⟨fun row hrow s rs rt off hd => ?_, fun row hrow s rs off hd => ?_, fun row hrow s rs off hd => ?_⟩
  · simp only [List.mem_cons, List.not_mem_nil, or_false] at hrow
    rcases hrow with rfl | rfl
    · simp only [← beq_eq_test]
      exact branchRegs_completes hd rfl
    · simp only [← bne_eq_test]
      exact branchRegs_completes hd rfl
  · simp only [List.mem_cons, List.not_mem_nil, or_false] at hrow
    rcases hrow with rfl | rfl | rfl | rfl
    · simp only [← isNotPositive_eq]
      exact branchReg_completes hd rfl
    · simp only [← isPositive_eq]
      exact branchReg_completes hd rfl
    · exact branchReg_completes hd rfl
    · simp only [← isNotNegative_eq]
      exact branchReg_completes hd rfl
  · simp only [List.mem_cons, List.not_mem_nil, or_false] at hrow
    rcases hrow with rfl | rfl
    · exact branchRegLink_completes hd rfl
    · simp only [← isNotNegative_eq]
      exact branchRegLink_completes hd rfl

/-! ### Branch-likely -/

section Likely
variable {i : Instr} {s : State} {rs rt : RegNum} {off : BitVec 16}

theorem likelyRegs_completes {test : DWord → DWord → Bool} (hi : exec i s = runOp (likelyRegs rs rt test off) s) :
    (s.HasIsa .mips2 → s.inDelay = false → ∃ a b, s.Reads rs a ∧ s.Reads rt b ∧ Completes i s fun t =>
      BranchedLikely s t (test a b) (s.pcNorm (s.nextPc + off.signExtend 64 * 4)) ∧ Frame {} s t) ∧
    (¬s.HasIsa .mips2 → Traps i s .reservedInstruction) := by
  refine ⟨fun h2 hd => ?_, fun h2 => ⟨s.freeCtr, hi.trans (runOp_exc (bind_error (requireIsa_error h2)))⟩⟩
  obtain ⟨a, b, n, h, ra, rb, -, -⟩ := read2 rs rt s fun a b => branchLikelyIf (test a b) off
  exact ⟨a, b, ra, rb, (completes_branchLikelyIf hi (sameControl_skip s n)
    ((bind_ok (requireIsa_ok h2)).trans ((bind_ok (refuseInDelaySlot_ok hd)).trans h))).frame_skip⟩

theorem likelyReg_completes {test : DWord → Bool} (hi : exec i s = runOp (likelyReg rs test off) s) :
    (s.HasIsa .mips2 → s.inDelay = false → ∃ a, s.Reads rs a ∧ Completes i s fun t =>
      BranchedLikely s t (test a) (s.pcNorm (s.nextPc + off.signExtend 64 * 4)) ∧ Frame {} s t) ∧
    (¬s.HasIsa .mips2 → Traps i s .reservedInstruction) := by
  refine ⟨fun h2 hd => ?_, fun h2 => ⟨s.freeCtr, hi.trans (runOp_exc (bind_error (requireIsa_error h2)))⟩⟩
  obtain ⟨a, n, h, ra, -⟩ := read1 rs s fun a => branchLikelyIf (test a) off
  exact ⟨a, ra, (completes_branchLikelyIf hi (sameControl_skip s n)
    ((bind_ok (requireIsa_ok h2)).trans ((bind_ok (refuseInDelaySlot_ok hd)).trans h))).frame_skip⟩

theorem likelyRegLink_completes {test : DWord → Bool} (hi : exec i s = runOp (likelyRegLink rs test off) s) :
    (s.HasIsa .mips2 → s.inDelay = false → s.Restarts rs 31#5 = false → ∃ a, s.Reads rs a ∧ Completes i s fun t =>
      BranchedLikely s t (test a) (s.pcNorm (s.nextPc + off.signExtend 64 * 4)) ∧
        t.gprVal 31#5 = s.narrow (s.pcNorm (s.nextPc + 4)) ∧ Frame { gpr := [31#5] } s t) ∧
    (s.HasIsa .mips2 → s.inDelay = false → s.Restarts rs 31#5 = true → exec i s = .refused .linkNotRestartable) ∧
    (¬s.HasIsa .mips2 → Traps i s .reservedInstruction) := by
  refine ⟨fun h2 hd hr => ?_, fun h2 hd hr => ?_,
    fun h2 => ⟨s.freeCtr, hi.trans (runOp_exc (bind_error (requireIsa_error h2)))⟩⟩
  · obtain ⟨a, n, ha, ra, -⟩ := readGpr_reads rs s
    obtain ⟨u, hrun, hu⟩ := linkRead_ok (fun a => branchLikelyIf (test a) off) ha hd hr
    exact ⟨a, ra, ((completes_branchLikelyIf hi hu.control ((bind_ok (requireIsa_ok h2)).trans hrun)).linked hu).mono
      fun t ⟨hb, hv, hf⟩ => ⟨hb, hv (by decide), hf⟩⟩
  · exact hi.trans (runOp_refused ((bind_ok (requireIsa_ok h2)).trans (linkRead_refused _ hd hr)))

end Likely

/-- Settles O22: as O21, with the check of the level first. -/
theorem branchesLikely : Obligations.BranchesLikely := by
  refine ⟨fun row hrow s rs rt off => ?_, fun row hrow s rs off => ?_, fun row hrow s rs off => ?_⟩
  · simp only [List.mem_cons, List.not_mem_nil, or_false] at hrow
    rcases hrow with rfl | rfl
    · simp only [← beq_eq_test]
      exact likelyRegs_completes rfl
    · simp only [← bne_eq_test]
      exact likelyRegs_completes rfl
  · simp only [List.mem_cons, List.not_mem_nil, or_false] at hrow
    rcases hrow with rfl | rfl | rfl | rfl
    · simp only [← isNotPositive_eq]
      exact likelyReg_completes rfl
    · simp only [← isPositive_eq]
      exact likelyReg_completes rfl
    · exact likelyReg_completes rfl
    · simp only [← isNotNegative_eq]
      exact likelyReg_completes rfl
  · simp only [List.mem_cons, List.not_mem_nil, or_false] at hrow
    rcases hrow with rfl | rfl
    · exact likelyRegLink_completes rfl
    · simp only [← isNotNegative_eq]
      exact likelyRegLink_completes rfl

/-! ### Branches on a coprocessor's condition -/

/-- The condition of a coprocessor: on an R30xx its pin, where the R3041 has it as an input. -/
theorem copCond_ok (z : BitVec 2) (s : State) : ∃ c n, copCond z s = .ok (c, s.skip n) ∧
    (s.par.cpu.is30xx = true → (s.par.cpu = .r3041 → bit z 1 = true → bit s.cp0.busCtrl 11 = true) →
      c = bit s.inp.brCond z.toNat) := by
  unfold copCond
  split
  · unfold brCondLine
    split
    · rename_i hout
      obtain ⟨h41, hz, hbr⟩ := hout
      refine ⟨_, 1, rfl, fun _ hin => ?_⟩
      rw [hin (by simpa using h41) hz] at hbr
      exact Bool.noConfusion hbr
    · exact ⟨_, 0, rfl, fun _ _ => rfl⟩
  · rename_i h30
    exact ⟨_, 1, rfl, fun h _ => absurd h h30⟩

/-- The condition code of the FPA, where it is settled. -/
theorem fpCond_ok (cc : BitVec 3) {s : State} (h : s.par.cpu.hasFpa = true) :
    ∃ c n, fpCond cc s = .ok (c, s.skip n) ∧ (s.haz.cond = 0 → c = s.fcc cc) := by
  unfold fpCond
  rw [if_neg (by simp [h])]
  split
  · exact ⟨_, 0, rfl, fun _ => rfl⟩
  · rename_i hcond
    exact ⟨_, 1, rfl, fun h0 => absurd h0 hcond⟩

/-- Without an FPA every member that there is is an R30xx, whose pin 1 is an input. -/
theorem fpCond_of_noFpa (cc : BitVec 3) {s : State} (h : s.par.cpu.hasFpa = false) :
    fpCond cc s = .ok (bit s.inp.brCond 1, s) := by
  have h30 : s.par.cpu.is30xx = true := by
    revert h
    cases s.par.cpu <;> simp [Cpu.hasFpa, Cpu.is30xx]
  unfold fpCond copCond brCondLine
  rw [if_pos (by simp [h]), if_pos h30, if_neg (by simp [bit])]
  rfl

/-- No member has branch-likely instructions and a coprocessor 3. -/
theorem not_mips2_of_rank_lt_three {s : State} (h : s.par.cpu.isa.rank < 3) : ¬s.HasIsa .mips2 := by
  revert h
  unfold State.HasIsa
  cases s.par.cpu <;> simp [Cpu.isa, Isa.rank]

theorem likelyCop3_traps {i : Instr} {tf : Bool} {off : BitVec 16} {s : State}
    (hi : exec i s = runOp (likelyCop 3#2 tf off) s) :
    (s.CopUnusable 3#2 → Traps i s (.coprocessorUnusable 3#2)) ∧
      (¬s.CopUnusable 3#2 → Traps i s .reservedInstruction) := by
  refine ⟨fun hu => ⟨s.freeCtr, hi.trans (runOp_exc (bind_error (requireCop_error hu)))⟩, fun hu => ⟨s.freeCtr, hi.trans ?_⟩⟩
  by_cases h3 : s.par.cpu.isa.rank < 3
  · have hcu : s.cu 3#2 = true := by
      by_contra hcu
      exact hu ⟨fun _ => h3, by simpa using hcu, by simp⟩
    have husable : s.CopUsable 3#2 := ⟨fun _ => h3, by rw [if_neg (by decide)]; exact hcu⟩
    exact runOp_exc ((bind_ok (requireCop_ok husable)).trans
      (bind_error (requireIsa_error (not_mips2_of_rank_lt_three h3))))
  · have hgone : requireCop 3#2 s = .error (.exc .reservedInstruction s) := by
      unfold requireCop
      exact (look_bind _ _ s).trans (bind_error (raiseIf_error _ _ (by simp; omega)))
    exact runOp_exc (bind_error hgone)

section OnConditions
variable {i j : Instr} {s : State} {off : BitVec 16} {tf c : Bool} {n : Nat}

/-- A branch on the condition `c`, as every coprocessor has it, and its likely form. -/
theorem branchOnCond_completes {z : BitVec 2} {cond : Op Bool}
    (hi : exec i s = runOp (do requireCop z; refuseInDelaySlot; let c ← cond; branchIf (c == tf) off) s)
    (hj : exec j s = runOp (do
      requireCop z; requireIsa .mips2; refuseInDelaySlot; let c ← cond; branchLikelyIf (c == tf) off) s)
    (hz : s.CopUsable z) (hd : s.inDelay = false) (hc : cond s = .ok (c, s.skip n)) :
    (Completes i s fun t =>
      Branched s t (c == tf) (s.pcNorm (s.nextPc + off.signExtend 64 * 4)) ∧ Frame {} s t) ∧
    (s.HasIsa .mips2 → Completes j s fun t =>
      BranchedLikely s t (c == tf) (s.pcNorm (s.nextPc + off.signExtend 64 * 4)) ∧ Frame {} s t) := by
  refine ⟨?_, fun h2 => ?_⟩
  · exact (completes_branchIf hi (sameControl_skip s n) ((bind_ok (requireCop_ok hz)).trans
      ((bind_ok (refuseInDelaySlot_ok hd)).trans (bind_ok hc)))).frame_skip
  · exact (completes_branchLikelyIf hj (sameControl_skip s n) ((bind_ok (requireCop_ok hz)).trans
      ((bind_ok (requireIsa_ok h2)).trans ((bind_ok (refuseInDelaySlot_ok hd)).trans (bind_ok hc))))).frame_skip

end OnConditions

/-- Settles O23: a branch on a condition and its likely form, with the condition of each coprocessor. -/
theorem conditionBranches : Obligations.ConditionBranches := by
  refine ⟨fun z tf plain likely hrow s off hz hd => ?_, fun row hrow s cc off hz hfpa hd => ?_,
    fun row hrow s cc off hz hfpa hd => ?_, fun mk hmk s off => ?_⟩
  · obtain ⟨c, n, hc, hpin⟩ := copCond_ok z s
    simp only [List.mem_cons, List.not_mem_nil, or_false, Prod.mk.injEq] at hrow
    refine ⟨c, hpin, ?_⟩
    rcases hrow with ⟨rfl, rfl, rfl, rfl⟩ | ⟨rfl, rfl, rfl, rfl⟩ | ⟨rfl, rfl, rfl, rfl⟩ | ⟨rfl, rfl, rfl, rfl⟩ |
      ⟨rfl, rfl, rfl, rfl⟩ | ⟨rfl, rfl, rfl, rfl⟩
    all_goals exact branchOnCond_completes rfl rfl hz hd hc
  · obtain ⟨c, n, hc, hcode⟩ := fpCond_ok cc hfpa
    simp only [List.mem_cons, List.not_mem_nil, or_false] at hrow
    refine ⟨c, hcode, ?_⟩
    rcases hrow with rfl | rfl
    all_goals exact branchOnCond_completes rfl rfl hz hd hc
  · have hc := fpCond_of_noFpa cc hfpa
    simp only [List.mem_cons, List.not_mem_nil, or_false] at hrow
    rcases hrow with rfl | rfl
    · exact (branchOnCond_completes (n := 0) (j := .bc1fl cc off) rfl rfl hz hd hc).1
    · exact (branchOnCond_completes (n := 0) (j := .bc1tl cc off) rfl rfl hz hd hc).1
  · simp only [List.mem_cons, List.not_mem_nil, or_false] at hmk
    rcases hmk with rfl | rfl
    · exact likelyCop3_traps rfl
    · exact likelyCop3_traps rfl

/-- Settles O24: the check of the delay slot comes after those of the level and of the coprocessor. -/
theorem branchInDelaySlotRefused : Obligations.BranchInDelaySlotRefused := by
  intro s rs rt rd idx off cc hd refused
  have slot := refuseInDelaySlot_refuses hd
  refine ⟨fun i hi => ?_, fun h2 i hi => ?_, fun row hrow hz => ?_, fun hz h30 => ?_⟩
  · simp only [List.mem_cons, List.not_mem_nil, or_false] at hi
    rcases hi with rfl | rfl | rfl | rfl | rfl | rfl | rfl | rfl | rfl | rfl | rfl | rfl
    all_goals exact runOp_refused (bind_error slot)
  · simp only [List.mem_cons, List.not_mem_nil, or_false] at hi
    rcases hi with rfl | rfl | rfl | rfl | rfl | rfl | rfl | rfl
    all_goals exact runOp_refused ((bind_ok (requireIsa_ok h2)).trans (bind_error slot))
  · have plain {x : Op Unit} : runOp (do requireCop row.1; refuseInDelaySlot; x) s = .refused .branchInDelaySlot :=
      runOp_refused ((bind_ok (requireCop_ok hz)).trans (bind_error slot))
    have likely {x : Op Unit} (h2 : s.HasIsa .mips2) :
        runOp (do requireCop row.1; requireIsa .mips2; refuseInDelaySlot; x) s = .refused .branchInDelaySlot :=
      runOp_refused ((bind_ok (requireCop_ok hz)).trans ((bind_ok (requireIsa_ok h2)).trans (bind_error slot)))
    simp only [List.mem_cons, List.not_mem_nil, or_false] at hrow
    rcases hrow with rfl | rfl | rfl | rfl
    · exact ⟨by simpa using ⟨plain, plain⟩, fun h2 => by simpa using ⟨likely h2, likely h2⟩⟩
    · exact ⟨by simpa using ⟨plain, plain⟩, fun h2 => by simpa using ⟨likely h2, likely h2⟩⟩
    · exact ⟨by simpa using ⟨plain, plain⟩, fun h2 => by simpa using ⟨likely h2, likely h2⟩⟩
    · exact ⟨by simpa using ⟨plain, plain⟩, fun h2 => by simp⟩
  · have here : require4xxx s = .ok ((), s) :=
      (bind_ok (requireCop_ok hz)).trans ((look_bind _ _ s).trans (raiseIf_ok _ _ h30))
    exact runOp_refused ((bind_ok here).trans (bind_error slot))

end Sys2Proof.Machine
end

section
/-! PROOFS. The bytes of a value and the aligned loads and stores: what the shared operations do at each outcome of an
access, and the statements. -/

namespace Sys2Proof.Machine

/-! ### Bytes -/

/-- Byte `i` of the value of some bytes: from the front in little-endian order, from the back in big-endian order. -/
theorem ofBytes_byte {l : List Byte} {n i : Nat} (hl : l.length = n) (hn : n ≤ 8) (hi : i < n) (big : Bool) :
    (ofBytes big l).extractLsb' (8 * i) 8 = l[if big then n - 1 - i else i]'(by subst hl; split <;> omega) := by
  subst hl
  cases big
  · exact ofBytesLE_byte l i hn hi
  · refine (ofBytesLE_byte l.reverse i (by simpa using hn) (by simpa using hi)).trans ?_
    simp [List.getElem_reverse]

theorem memReadList_lanes (s : State) (m : List Host.Cell) (a n j : Nat) (h : j < n) :
    (memReadList m (s.lanes a n))[j]'(by simpa using h) = memRead m (s.byteLane (a + j)) := by
  rw [memReadList_get _ _ _ (by simpa using h)]
  exact congrArg _ (byteAddrs_get _ _ _ _ h)

/-- Settles O25. -/
theorem byteOrder : Obligations.ByteOrder := by
  intro s a n i hn hi
  have hbyte := ofBytes_byte (l := memReadList s.mem (s.lanes a n)) (by simp) hn hi s.bigEndianCpu
  refine hbyte.trans ?_
  cases s.bigEndianCpu
  · exact memReadList_lanes s s.mem a n i hi
  · exact memReadList_lanes s s.mem a n (n - 1 - i) (by omega)

/-! ### Values that fit -/

theorem isolatedVal_lt (s : State) (a n : Nat) (hn : n ≤ 8) : (s.isolatedVal a n).toNat < 2 ^ (8 * n) := by
  have hlen : (memReadList s.isolated.data (s.isolatedPlaces a n)).length = n := by simp [State.isolatedPlaces]
  have hlt : ∀ l : List Byte, l.length = n → (ofBytesLE l).toNat < 2 ^ (8 * n) := fun l hl => hl ▸ ofBytesLE_lt l (by omega)
  unfold State.isolatedVal ofBytes
  split
  · exact hlt _ (by rw [List.length_reverse, hlen])
  · exact hlt _ hlen

/-- Only a MIPS IV member has offsets it must not be given, and it isolates no cache. -/
theorem offsetUndefined_of_isc {s : State} (h : s.isc = true) (off : BitVec 16) (n : Nat) :
    s.offsetUndefined off n = false := by
  have h30 : s.par.cpu.is30xx = true := (Bool.and_eq_true_iff.1 h).1
  unfold State.offsetUndefined
  cases hc : s.par.cpu <;> simp_all [Cpu.is30xx, Cpu.isa]

/-- An isolated load, and what follows it and keeps coprocessor 0. -/
theorem IsolatedLoad.then {s u t : State} {pa : Nat} {w : Touch} (h : IsolatedLoad s u pa) (hk : Frame w u t)
    (hw : w.cp0 = false) : IsolatedLoad s t pa := by
  obtain ⟨hcp0, h64, h48, htimer, hhalted⟩ := h
  obtain ⟨kcp0, k64, k48, ktimer, khalted⟩ := hk.cp0 hw
  exact ⟨kcp0.trans hcp0, k64.trans h64, k48.trans h48, ktimer.trans htimer, khalted.trans hhalted⟩

/-- A change of coprocessor 0, and then one of general registers. -/
theorem Frame.thenCp0 {s u t : State} {rs : List RegNum} (h : Frame { cp0 := true } s u) (hk : Frame { gpr := rs } u t) :
    Frame { gpr := rs, cp0 := true } s t :=
  (h.mono nofun nofun (fun _ => rfl) (fun e => Bool.noConfusion e) (fun _ => rfl) (fun _ => rfl)).trans
    (hk.mono (fun _ h => h) nofun (fun _ => rfl) (fun _ => rfl) (fun _ => rfl) (fun _ => rfl))

/-! ### What an access does at each outcome -/

section Access
variable {s : State} {va : DWord} {k : Access} {n pa : Nat} {cca : BitVec 3}

/-- A load or store that meets a cache error stops at it. -/
theorem checkData_cacheError {info : Word} (h : s.MeetsCacheError true info) :
    checkData va k pa s = .error (.exc (.cacheError (cacheErrImage info va pa)) s.dropCacheError) :=
  bind_error (cacheCheck_hit h.due va pa)

theorem loadAt_of_checked {t : State} (ht : translate va .load n s = .ok ((pa, cca), s))
    (hc : checkData va .load pa s = .ok ((), t)) : loadAt va n s = readMem pa n t :=
  (bind_ok ht).trans (bind_ok hc)

theorem storeAt_of_checked {t : State} (v : DWord) (ht : translate va .store n s = .ok ((pa, cca), s))
    (hc : checkData va .store pa s = .ok ((), t)) : storeAt va n v s = .ok ((), t.putMem pa n v) :=
  (bind_ok ht).trans ((bind_ok hc).trans rfl)

theorem loadAt_stops {e : Stop} (ht : translate va .load n s = .ok ((pa, cca), s))
    (hc : checkData va .load pa s = .error e) : loadAt va n s = .error e :=
  (bind_ok ht).trans (bind_error hc)

theorem storeAt_stops {e : Stop} (v : DWord) (ht : translate va .store n s = .ok ((pa, cca), s))
    (hc : checkData va .store pa s = .error e) : storeAt va n v s = .error e :=
  (bind_ok ht).trans (bind_error hc)

theorem loadAt_isolated (h : s.Maps va .load n pa cca) (hi : s.isc = true) :
    ∃ t, loadAt va n s = .ok (s.isolatedVal pa n, t) ∧ IsolatedLoad s t pa ∧ Frame { cp0 := true } s t ∧
      t.hazNext = s.hazNext ∧ t.nextPc = s.nextPc ∧ t.haz = s.haz := by
  obtain ⟨htr, hcache, hwatch⟩ := h
  obtain ⟨t, hread, hload, hframe, hhaz, hnext, -, -, hnpc⟩ := readMem_isolated hi pa n
  exact ⟨t, (loadAt_of_checked htr (checkData_ok hcache hwatch)).trans hread, hload, hframe, hnext, hnpc, hhaz⟩

theorem loadAt_busError (h : s.Maps va .load n pa cca) (hi : s.isc = false) (hb : s.busErrorAt (s.lanes pa n) = true) :
    loadAt va n s = .error (.exc .busErrorData s) := by
  obtain ⟨htr, hcache, hwatch⟩ := h
  refine (loadAt_of_checked htr (checkData_ok hcache hwatch)).trans ?_
  unfold readMem
  rw [if_neg (by simp [hi]), if_pos hb]

/-- A watched access while EXL or ERL is clear takes the exception; while one is set it leaves the watch for later. -/
theorem checkData_watchTaken (hc : s.cacheErrorDue true = none) (hw : s.Watches (if k.isStore then 1 else 2) va)
    (hx : s.exl = false) (he : s.erl = false) : checkData va k pa s = .error (.exc (.watch false true) s) := by
  rw [checkData_watched hc hw, if_neg (by simp [hx, he])]

theorem checkData_watchPostponed (hc : s.cacheErrorDue true = none) (hw : s.Watches (if k.isStore then 1 else 2) va)
    (hx : s.exl = true ∨ s.erl = true) : checkData va k pa s = .ok ((), { s with watchD := true }) := by
  rw [checkData_watched hc hw, if_pos (by simpa using hx)]

end Access

/-! ### How a load of a register completes -/

/-- An instruction that comes to state `u` and then writes register `r` as a load does. -/
theorem completes_loaded {i : Instr} {x : Op Unit} {s u : State} {r : RegNum} {v : DWord} (hi : exec i s = runSeq x s)
    (h : x s = .ok ((), (u.putGpr r v).delayGpr .mips1 false r)) (hp : u.par = s.par) (hn : u.nextPc = s.nextPc) :
    Completes i s fun t => (r ≠ 0#5 → t.gprVal r = s.narrow v) ∧
      (u.hazNext = Hazards.none → ∀ q, t.Settled q ↔ ¬(s.par.cpu.isa = .mips1 ∧ q = r ∧ r ≠ 0#5)) ∧
      Frame { gpr := [r] } u t ∧ Sequential s t := by
  obtain ⟨t, ht, hval, hset, hframe, hseq⟩ := runSeq_loaded (x := fun _ => x s) (s := u) (n := 0) h
  have hrun : runSeq x s = .next t := ht
  refine ⟨t, hi.trans hrun, fun hr => ?_, fun hz q => ?_, hframe, ?_⟩
  · rw [hval hr, narrow_congr hp]
  · rw [hset hz q, hp]
  · obtain ⟨hpc, hnpc, hd⟩ := hseq
    exact ⟨hpc.trans hn, by rw [hnpc, hn], hd⟩

section LoadReg
variable {s u : State} {base rt : RegNum} {off : BitVec 16} {n m : Nat} {f : DWord → DWord} {va w : DWord}

theorem loadReg_ok (hb : effAddr base off s = .ok (va, s.skip m)) (hl : loadAt va n (s.skip m) = .ok (w, u)) :
    ∃ v j, loadReg base rt off n f s = .ok ((), ((u.skip j).putGpr rt v).delayGpr .mips1 false rt) ∧
      (u.offsetUndefined off n = false → v = f w) := by
  obtain ⟨v, j, hv, he⟩ := freeIf_reads (u.offsetUndefined off n) (f w) u
  have hf : loadField base off n f s = .ok (v, u.skip j) :=
    (bind_ok hb).trans ((bind_ok hl).trans ((look_bind _ _ _).trans hv))
  exact ⟨v, j, (bind_ok hf).trans rfl, he⟩

theorem loadReg_stops {e : Stop} (hb : effAddr base off s = .ok (va, s.skip m))
    (hl : loadAt va n (s.skip m) = .error e) : loadReg base rt off n f s = .error e :=
  bind_error ((bind_ok hb).trans (bind_error hl))

end LoadReg

/-- `t` is the state after a load, done from `u`, of the field `w` by an instruction at `s`. -/
def FieldLoaded (s : State) (rt : RegNum) (off : BitVec 16) (n : Nat) (w : DWord) (u t : State) : Prop :=
  (rt ≠ 0#5 → s.offsetUndefined off n = false → t.gprVal rt = w) ∧
    (s.hazNext = Hazards.none → ∀ r, t.Settled r ↔ ¬(s.par.cpu.isa = .mips1 ∧ r = rt ∧ rt ≠ 0#5)) ∧
    Frame { gpr := [rt] } u t ∧ Sequential s t

section LoadOutcomes
variable {i : Instr} {x : Op Unit} {s : State} {base rt : RegNum} {off : BitVec 16} {n m pa : Nat} {cca : BitVec 3}
  {f g : DWord → DWord} {va : DWord}

theorem load_from (hi : exec i s = runSeq x s) (hx : x s = loadReg base rt off n g s)
    (hb : effAddr base off s = .ok (va, s.skip m)) {u : State} {w : DWord}
    (hl : loadAt va n (s.skip m) = .ok (w, u)) (hp : u.par = s.par) (hn : u.nextPc = s.nextPc)
    (hz : u.hazNext = s.hazNext) (hg : s.narrow (g w) = f w) :
    Completes i s (FieldLoaded s rt off n (f w) u) := by
  obtain ⟨v, j, hrun, hv⟩ := loadReg_ok (rt := rt) (f := g) hb hl
  refine (completes_loaded hi (hx.trans hrun) hp hn).mono fun t ⟨hval, hset, hframe, hseq⟩ => ?_
  refine ⟨fun hr hu => ?_, fun hnone => hset (hz.trans hnone), ((same_skip u j).frame _).trans hframe, hseq⟩
  rw [hval hr, hv (by rw [← hu, State.offsetUndefined, hp]; rfl), hg]

/-- What a load does whose address maps: from memory, from the isolated array, or where the board answers with a bus error. -/
theorem load_outcomes (hi : exec i s = runSeq x s) (hx : x s = loadReg base rt off n g s)
    (hb : effAddr base off s = .ok (va, s.skip m)) (hn8 : n ≤ 8)
    (hg : ∀ w : DWord, w.toNat < 2 ^ (8 * n) → s.narrow (g w) = f w) (hm : s.Maps va .load n pa cca) :
    (s.Readable pa n → Completes i s (FieldLoaded s rt off n (f (s.memVal pa n)) s)) ∧
    (s.isc = true → Completes i s fun t => (rt ≠ 0#5 → t.gprVal rt = f (s.isolatedVal pa n)) ∧ IsolatedLoad s t pa ∧
      Frame { gpr := [rt], cp0 := true } s t ∧ Sequential s t) ∧
    (s.isc = false → s.busErrorAt (s.lanes pa n) = true → Traps i s .busErrorData) := by
  have hm' := State.skip_Maps s m _ _ _ _ _ hm
  refine ⟨fun hr => ?_, fun hisc => ?_, fun hisc hbus => ?_⟩
  · refine (load_from hi hx hb (loadAt_ok hm' hr) rfl rfl rfl (hg _ (memVal_lt s pa n hn8))).mono ?_
    rintro t ⟨hval, hset, hframe, hseq⟩
    exact ⟨hval, hset, ((same_skip s m).frame _).trans hframe, hseq⟩
  · obtain ⟨u, hload, hiso, hframe, hnext, hnpc, -⟩ := loadAt_isolated hm' hisc
    refine (load_from hi hx hb hload hframe.rest.1 hnpc hnext (hg _ (isolatedVal_lt s pa n hn8))).mono ?_
    rintro t ⟨hval, -, hkeep, hseq⟩
    exact ⟨fun hr => hval hr (offsetUndefined_of_isc hisc off n), hiso.then hkeep rfl,
      ((same_skip s m).frame _).trans (hframe.thenCp0 hkeep), hseq⟩
  · exact traps_skip hi (hx.trans (loadReg_stops hb (loadAt_busError hm' hisc hbus)))

/-- What a load does whose address DWatch names. -/
theorem load_watched (hi : exec i s = runSeq x s) (hx : x s = loadReg base rt off n g s)
    (hb : effAddr base off s = .ok (va, s.skip m)) (hn8 : n ≤ 8)
    (hg : ∀ w : DWord, w.toNat < 2 ^ (8 * n) → s.narrow (g w) = f w)
    (ht : translate va .load n s = .ok ((pa, cca), s)) (hc : s.cacheErrorDue true = none) (hw : s.Watches 2 va) :
    (s.exl = false → s.erl = false → Traps i s (.watch false true)) ∧
    (s.exl = true ∨ s.erl = true → s.Readable pa n →
      Completes i s (FieldLoaded s rt off n (f (s.memVal pa n)) { s with watchD := true })) := by
  have ht' := translate_skip ht m
  refine ⟨fun hexl herl => ?_, fun hpost hr => ?_⟩
  · have hcheck : checkData va .load pa (s.skip m) = .error (.exc (.watch false true) (s.skip m)) :=
      checkData_watchTaken (s := s.skip m) hc hw hexl herl
    exact traps_skip hi (hx.trans (loadReg_stops hb (loadAt_stops ht' hcheck)))
  · have hcheck : checkData va .load pa (s.skip m) = .ok ((), { s.skip m with watchD := true }) :=
      checkData_watchPostponed (s := s.skip m) hc hw hpost
    have hload : loadAt va n (s.skip m) = .ok (s.memVal pa n, { s.skip m with watchD := true }) :=
      (loadAt_of_checked ht' hcheck).trans (readMem_ok (s := { s.skip m with watchD := true }) hr)
    refine (load_from hi hx hb hload rfl rfl rfl (hg _ (memVal_lt s pa n hn8))).mono ?_
    rintro t ⟨hval, hset, hframe, hseq⟩
    have hskip : SameMachine { s with watchD := true } { s.skip m with watchD := true } := by constructor <;> rfl
    exact ⟨hval, hset, (hskip.frame _).trans hframe, hseq⟩

/-- An instruction whose run meets a cache error takes it, after which the error is gone. -/
theorem exec_cacheError (hi : exec i s = runSeq x s) {e : Exc} (h : x s = .error (.exc e (s.skip m).dropCacheError)) :
    ∃ c, exec i s = .next (takeException e { s.dropCacheError with freeCtr := c }) :=
  ⟨s.freeCtr + m, hi.trans (runSeq_exc h)⟩

theorem load_cacheError (hi : exec i s = runSeq x s) (hx : x s = loadReg base rt off n g s)
    (hb : effAddr base off s = .ok (va, s.skip m)) {info : Word}
    (ht : translate va .load n s = .ok ((pa, cca), s)) (hc : s.MeetsCacheError true info) :
    ∃ c, exec i s =
      .next (takeException (.cacheError (cacheErrImage info va pa)) { s.dropCacheError with freeCtr := c }) :=
  exec_cacheError hi (hx.trans (loadReg_stops hb (loadAt_stops (translate_skip ht m)
    (checkData_cacheError (s := s.skip m) hc))))

end LoadOutcomes

/-- The aligned loads that need no 64-bit operations, and those that do, are loadReg where they run. -/
theorem load64_eq {x : Op Unit} {s : State} (h : s.Has64) : (do require64; x) s = x s := bind_ok (require64_ok h)

/-- A word, sign-extended or below `2^31`, is as wide as any register. -/
theorem narrow_sextBytes (s : State) {n : Nat} (hn : 8 * n ≤ 32) (w : DWord) : s.narrow (sextBytes n w) = sextBytes n w :=
  State.narrow_word (isWord_sextOf hn _)

theorem narrow_lt (s : State) {w : DWord} {k : Nat} (hk : k ≤ 31) (hw : w.toNat < 2 ^ k) : s.narrow w = w :=
  State.narrow_word (isWord_lt (lt_of_lt_of_le hw (Nat.pow_le_pow_right (by decide) hk)))

theorem setWidth_of_lt {w : DWord} {k : Nat} (hk : k ≤ 64) (hw : w.toNat < 2 ^ k) : (w.setWidth k).setWidth 64 = w := by
  apply BitVec.eq_of_toNat_eq
  rw [BitVec.toNat_setWidth, BitVec.toNat_setWidth, Nat.mod_eq_of_lt hw,
    Nat.mod_eq_of_lt (lt_of_lt_of_le hw (Nat.pow_le_pow_right (by decide) hk))]

/-- The statement about one aligned load. -/
theorem alignedLoad {i : Instr} {x : Op Unit} {s : State} {base rt : RegNum} {off : BitVec 16} {n : Nat}
    {f g : DWord → DWord} (hi : exec i s = runSeq x s) (hx : x s = loadReg base rt off n g s) (hn8 : n ≤ 8)
    (hg : ∀ w : DWord, w.toNat < 2 ^ (8 * n) → s.narrow (g w) = f w) :
    ∃ b, s.Reads base b ∧ ∀ pa cca,
      let va := s.normVa (b + off.signExtend 64)
      (s.Maps va .load n pa cca → s.Readable pa n → Completes i s (FieldLoaded s rt off n (f (s.memVal pa n)) s)) ∧
      (s.Maps va .load n pa cca → s.isc = true → Completes i s fun t =>
        (rt ≠ 0#5 → t.gprVal rt = f (s.isolatedVal pa n)) ∧ IsolatedLoad s t pa ∧
          Frame { gpr := [rt], cp0 := true } s t ∧ Sequential s t) ∧
      (translate va .load n s = .ok ((pa, cca), s) → s.cacheErrorDue true = none → s.Watches 2 va →
        (s.exl = false → s.erl = false → Traps i s (.watch false true)) ∧
          (s.exl = true ∨ s.erl = true → s.Readable pa n →
            Completes i s (FieldLoaded s rt off n (f (s.memVal pa n)) { s with watchD := true }))) ∧
      (s.Maps va .load n pa cca → s.isc = false → s.busErrorAt (s.lanes pa n) = true → Traps i s .busErrorData) ∧
      ∀ info, translate va .load n s = .ok ((pa, cca), s) → s.MeetsCacheError true info →
        ∃ c, exec i s =
          .next (takeException (.cacheError (cacheErrImage info va pa)) { s.dropCacheError with freeCtr := c }) := by
  obtain ⟨b, m, hb, rb⟩ := effAddr_reads base off s
  refine ⟨b, rb, fun pa cca => ⟨fun hm => ?_, fun hm => ?_, ?_, fun hm => ?_, fun info => ?_⟩⟩
  · exact (load_outcomes hi hx hb hn8 hg hm).1
  · exact (load_outcomes hi hx hb hn8 hg hm).2.1
  · exact load_watched hi hx hb hn8 hg
  · exact (load_outcomes hi hx hb hn8 hg hm).2.2
  · exact load_cacheError hi hx hb

/-- Settles O26. -/
theorem alignedLoads : Obligations.AlignedLoads := by
  intro n need64 f mk hrow s base rt off h64
  simp only [List.mem_cons, List.not_mem_nil, or_false, Prod.mk.injEq] at hrow
  rcases hrow with ⟨rfl, rfl, rfl, rfl⟩ | ⟨rfl, rfl, rfl, rfl⟩ | ⟨rfl, rfl, rfl, rfl⟩ | ⟨rfl, rfl, rfl, rfl⟩ |
    ⟨rfl, rfl, rfl, rfl⟩ | ⟨rfl, rfl, rfl, rfl⟩ | ⟨rfl, rfl, rfl, rfl⟩
  · exact alignedLoad (i := .lb base rt off) rfl rfl (by decide) fun w _ => narrow_sextBytes s (n := 1) (by decide) w
  · exact alignedLoad (i := .lbu base rt off) rfl rfl (by decide) fun w hw =>
      (narrow_lt s (by decide) hw).trans (setWidth_of_lt (by decide) hw).symm
  · exact alignedLoad (i := .lh base rt off) rfl rfl (by decide) fun w _ => narrow_sextBytes s (n := 2) (by decide) w
  · exact alignedLoad (i := .lhu base rt off) rfl rfl (by decide) fun w hw =>
      (narrow_lt s (by decide) hw).trans (setWidth_of_lt (by decide) hw).symm
  · exact alignedLoad (i := .lw base rt off) rfl rfl (by decide) fun w _ => narrow_sextBytes s (n := 4) (by decide) w
  · exact alignedLoad (i := .lwu base rt off) rfl (load64_eq (h64 rfl)) (by decide) fun w hw =>
      (State.narrow_of_mips3 (h64 rfl).1 w).trans (setWidth_of_lt (by decide) hw).symm
  · exact alignedLoad (i := .ld base rt off) rfl (load64_eq (h64 rfl)) (by decide) fun w _ =>
      State.narrow_of_mips3 (h64 rfl).1 w

end Sys2Proof.Machine
end

section
/-! PROOFS. The aligned stores: the shared operation at each outcome of an access, and the statement. -/

namespace Sys2Proof.Machine

/-- Only a member with watches, which is no R30xx, watches; it isolates no cache. -/
theorem isc_of_watches {s : State} {b : Nat} {va : DWord} (h : s.Watches b va) : s.isc = false := by
  obtain ⟨h4650, -, -⟩ := h
  unfold State.isc
  cases hc : s.par.cpu <;> simp_all [Cpu.is4650, Cpu.is30xx]

/-- An instruction that comes to state `u`, whose cache is not isolated, and then stores. -/
theorem completes_stored {i : Instr} {x : Op Unit} {s u : State} {pa n m : Nat} {v : DWord} (hi : exec i s = runSeq x s)
    (h : x s = .ok ((), (u.skip m).putMem pa n v)) (hisc : u.isc = false) (hn : u.nextPc = s.nextPc) :
    Completes i s fun t => memReadList t.mem (u.lanes pa n) = toBytes u.bigEndianCpu n v ∧
      Frame { mem := u.lanes pa n } u t ∧ Sequential s t := by
  obtain ⟨t, ht, hmem, hframe, hpc, hnpc, hd⟩ := runSeq_setMem (x := fun _ => x s) (s := u) hisc h
  have hrun : runSeq x s = .next t := ht
  exact ⟨t, hi.trans hrun, hmem, hframe, hpc.trans hn, by rw [hnpc, hn], hd⟩

theorem completes_isolated {i : Instr} {x : Op Unit} {s : State} {pa n m : Nat} {v : DWord} (hi : exec i s = runSeq x s)
    (h : x s = .ok ((), (s.skip m).putMem pa n v)) (hisc : s.isc = true) :
    Completes i s fun t => IsolatedStore s t pa n v ∧ Sequential s t := by
  obtain ⟨t, ht, hstored, hseq⟩ := runSeq_isolated hisc h
  exact ⟨t, hi.trans ht, hstored, hseq⟩

/-- A store of a field reads its base, and its access stores the value, or any value where the offset must not be given. -/
theorem storeField_eq (base : RegNum) (off : BitVec 16) (n : Nat) (v : DWord) (s : State) :
    ∃ b w m, s.Reads base b ∧ (s.offsetUndefined off n = false → w = v) ∧
      storeField base off n v s = storeAt (s.normVa (b + off.signExtend 64)) n w (s.skip m) := by
  obtain ⟨b, m, hb, rb⟩ := effAddr_reads base off s
  obtain ⟨w, j, hw, he⟩ := freeIf_reads (s.offsetUndefined off n) v (s.skip m)
  refine ⟨b, w, m + j, rb, he, ?_⟩
  rw [← State.skip_skip]
  exact (bind_ok hb).trans ((look_bind _ _ _).trans (bind_ok hw))

theorem storeReg_eq (base rt : RegNum) (off : BitVec 16) (n : Nat) (s : State) :
    ∃ b v w m, s.Reads base b ∧ s.Reads rt v ∧ (s.offsetUndefined off n = false → w = v) ∧
      storeReg base rt off n s = storeAt (s.normVa (b + off.signExtend 64)) n w (s.skip m) := by
  obtain ⟨v, j, hv, rv, -⟩ := readGpr_reads rt s
  obtain ⟨b, w, m, rb, hw, hst⟩ := storeField_eq base off n v (s.skip j)
  refine ⟨b, v, w, j + m, rb, rv, hw, (bind_ok hv).trans (hst.trans ?_)⟩
  rw [State.skip_skip]
  rfl

theorem storeAt_isMaps {s : State} {va : DWord} {n pa m : Nat} {cca : BitVec 3} (w : DWord)
    (hm : s.Maps va .store n pa cca) : storeAt va n w (s.skip m) = .ok ((), (s.skip m).putMem pa n w) :=
  storeAt_ok w (State.skip_Maps _ _ _ _ _ _ _ hm)

/-- `t` is the state after a store, done from `u`, of the low bytes of `v` by an instruction at `s`. -/
def FieldStored (s : State) (off : BitVec 16) (n pa : Nat) (v : DWord) (u t : State) : Prop :=
  (s.offsetUndefined off n = false → memReadList t.mem (s.lanes pa n) = toBytes s.bigEndianCpu n v) ∧
    Frame { mem := s.lanes pa n } u t ∧ Sequential s t

section StoreOutcomes
variable {i : Instr} {x : Op Unit} {s : State} {off : BitVec 16} {n m pa : Nat} {cca : BitVec 3} {va v w : DWord}

/-- What a store does whose address DWatch names. -/
theorem store_watched (hi : exec i s = runSeq x s) (hx : x s = storeAt va n w (s.skip m))
    (hw : s.offsetUndefined off n = false → w = v) (ht : translate va .store n s = .ok ((pa, cca), s))
    (hc : s.cacheErrorDue true = none) (hwatch : s.Watches 1 va) :
    (s.exl = false → s.erl = false → Traps i s (.watch false true)) ∧
    (s.exl = true ∨ s.erl = true → Completes i s (FieldStored s off n pa v { s with watchD := true })) := by
  have ht' := translate_skip ht m
  refine ⟨fun hexl herl => ?_, fun hpost => ?_⟩
  · have hcheck : checkData va .store pa (s.skip m) = .error (.exc (.watch false true) (s.skip m)) :=
      checkData_watchTaken (s := s.skip m) hc hwatch hexl herl
    exact traps_skip hi (hx.trans (storeAt_stops w ht' hcheck))
  · have hcheck : checkData va .store pa (s.skip m) = .ok ((), { s.skip m with watchD := true }) :=
      checkData_watchPostponed (s := s.skip m) hc hwatch hpost
    have hst : x s = .ok ((), ((({ s with watchD := true } : State).skip m).putMem pa n w)) :=
      hx.trans (storeAt_of_checked w ht' hcheck)
    refine (completes_stored hi hst (isc_of_watches hwatch) rfl).mono ?_
    rintro t ⟨hmem, hframe, hseq⟩
    exact ⟨fun hu => hw hu ▸ hmem, hframe, hseq⟩

/-- The statement about one aligned store. -/
theorem alignedStore (hi : exec i s = runSeq x s) {base rt : RegNum} (hx : x s = storeReg base rt off n s) :
    ∃ b v, s.Reads base b ∧ s.Reads rt v ∧ ∀ pa cca,
      let va := s.normVa (b + off.signExtend 64)
      (s.Maps va .store n pa cca → s.isc = false → Completes i s (FieldStored s off n pa v s)) ∧
      (s.Maps va .store n pa cca → s.isc = true → Completes i s fun t => IsolatedStore s t pa n v ∧ Sequential s t) ∧
      (translate va .store n s = .ok ((pa, cca), s) → s.cacheErrorDue true = none → s.Watches 1 va →
        (s.exl = false → s.erl = false → Traps i s (.watch false true)) ∧
          (s.exl = true ∨ s.erl = true → Completes i s (FieldStored s off n pa v { s with watchD := true }))) ∧
      ∀ info, translate va .store n s = .ok ((pa, cca), s) → s.MeetsCacheError true info →
        ∃ c, exec i s =
          .next (takeException (.cacheError (cacheErrImage info va pa)) { s.dropCacheError with freeCtr := c }) := by
  obtain ⟨b, v, w, m, rb, rv, hw, hst⟩ := storeReg_eq base rt off n s
  have hrun := hx.trans hst
  refine ⟨b, v, rb, rv, fun pa cca => ⟨fun hm hisc => ?_, fun hm hisc => ?_, ?_, fun info ht hc => ?_⟩⟩
  · refine (completes_stored hi (hrun.trans (storeAt_isMaps w hm)) hisc rfl).mono ?_
    rintro t ⟨hmem, hframe, hseq⟩
    exact ⟨fun hu => hw hu ▸ hmem, hframe, hseq⟩
  · have hwv := hw (offsetUndefined_of_isc hisc off n)
    subst hwv
    exact completes_isolated hi (hrun.trans (storeAt_isMaps w hm)) hisc
  · exact store_watched hi hrun hw
  · exact exec_cacheError hi (hrun.trans (storeAt_stops w (translate_skip ht m)
      (checkData_cacheError (s := s.skip m) hc)))

end StoreOutcomes

/-- Settles O27. -/
theorem alignedStores : Obligations.AlignedStores := by
  intro n need64 mk hrow s base rt off h64
  simp only [List.mem_cons, List.not_mem_nil, or_false, Prod.mk.injEq] at hrow
  rcases hrow with ⟨rfl, rfl, rfl⟩ | ⟨rfl, rfl, rfl⟩ | ⟨rfl, rfl, rfl⟩ | ⟨rfl, rfl, rfl⟩
  · exact alignedStore (i := .sb base rt off) rfl rfl
  · exact alignedStore (i := .sh base rt off) rfl rfl
  · exact alignedStore (i := .sw base rt off) rfl rfl
  · exact alignedStore (i := .sd base rt off) rfl (load64_eq (h64 rfl))

end Sys2Proof.Machine
end

section
/-! PROOFS. The unaligned loads and stores: the merge of the bytes read with those of the register, whichever array they
come from, and the statements. -/

namespace Sys2Proof.Machine

/-! ### Reading bytes and merging them -/

/-- What a left or right load merges with does not depend on SR. -/
theorem readGprMerge_setSr (r : RegNum) (s : State) :
    ∃ v j, s.ReadsMerged r v ∧ ∀ w, readGprMerge r (s.setSr w) = .ok (v, (s.setSr w).skip j) := by
  unfold readGprMerge State.ReadsMerged
  by_cases hm : s.haz.moved = true
  · by_cases hr : s.haz.gpr = some r ∧ r ≠ 0#5
    · refine ⟨s.narrow s.free, 1, fun g => ?_, fun w => ?_⟩
      · exact absurd hr (g.resolve_left (by simp [hm]))
      · exact (if_pos hm).trans (if_pos hr)
    · exact ⟨s.gprVal r, 0, fun _ => rfl, fun w => (if_pos hm).trans (if_neg hr)⟩
  · exact ⟨s.gprVal r, 0, fun _ => rfl, fun w => if_neg hm⟩

theorem readMem_isolated_setSr {s : State} (h : s.isc = true) (a n : Nat) :
    ∃ w, readMem a n s = .ok (s.isolatedVal a n, s.setSr w) ∧ IsolatedLoad s (s.setSr w) a := by
  obtain ⟨t, ht, hload, -⟩ := readMem_isolated h a n
  have hread : readMem a n s = .ok (s.isolatedLoad a n) := if_pos h
  have ht' : t = (s.isolatedLoad a n).2 := congrArg Prod.snd (Except.ok.inj (ht.symm.trans hread))
  subst ht'
  exact ⟨_, ht, hload⟩

/-- Bytes are read, from memory or the isolated array, and `g` of them and the register is the result. -/
def mergeRead {α : Type} (rt : RegNum) (a n : Nat) (g : DWord → DWord → α) : Op α := do
  let m ← readMem a n
  let v ← readGprMerge rt
  pure (g m v)

theorem mergeRead_outcomes (rt : RegNum) (s : State) :
    ∃ v, s.ReadsMerged rt v ∧ ∀ {α : Type} (a n : Nat) (g : DWord → DWord → α),
      (s.Readable a n → ∃ j, mergeRead rt a n g s = .ok (g (s.memVal a n) v, s.skip j)) ∧
      (s.isc = true → ∃ u, mergeRead rt a n g s = .ok (g (s.isolatedVal a n) v, u) ∧ IsolatedLoad s u a ∧
        Frame { cp0 := true } s u ∧ u.nextPc = s.nextPc) := by
  obtain ⟨v, j, rv, hv⟩ := readGprMerge_setSr rt s
  refine ⟨v, rv, fun a n g => ⟨fun hr => ⟨j, ?_⟩, fun hi => ?_⟩⟩
  · exact (bind_ok (readMem_ok hr)).trans ((bind_ok (hv s.cp0.sr)).trans rfl)
  · obtain ⟨w, hread, hload⟩ := readMem_isolated_setSr hi a n
    refine ⟨(s.setSr w).skip j, (bind_ok hread).trans ((bind_ok (hv w)).trans rfl), ?_, ?_, rfl⟩
    · exact hload.then ((same_skip _ j).frame {}) rfl
    · exact (frame_setSr s w).trans ((same_skip _ j).frame _)

/-! ### The unaligned loads -/

/-- `y` at `s` reads its base and register `rt`, and gives `g` of the bytes `part va pa` and the register, where the address
maps. -/
def MergeReads {α : Type} (y : Op α) (s : State) (base rt : RegNum) (off : BitVec 16) (part : DWord → Nat → Nat × Nat)
    (g : Nat × Nat → DWord → DWord → α) : Prop :=
  ∃ b v, s.Reads base b ∧ s.ReadsMerged rt v ∧ ∀ pa cca, s.Maps (s.normVa (b + off.signExtend 64)) .load 1 pa cca →
    let p := part (s.normVa (b + off.signExtend 64)) pa
    (s.Readable p.1 p.2 → ∃ j, y s = .ok (g p (s.memVal p.1 p.2) v, s.skip j)) ∧
    (s.isc = true → ∃ u, y s = .ok (g p (s.isolatedVal p.1 p.2) v, u) ∧
      IsolatedLoad s u p.1 ∧ Frame { cp0 := true } s u ∧ u.nextPc = s.nextPc)

theorem mergeReads_of_eq {α : Type} {y : Op α} {s : State} {base rt : RegNum} {off : BitVec 16}
    {part : State → DWord → Nat → Nat × Nat} {g : Nat × Nat → DWord → DWord → α} (hpart : ∀ m, part (s.skip m) = part s)
    (hy : y = do
      let va ← effAddr base off
      let r ← translate va .load 1
      checkData va .load r.1
      let p ← look fun t => part t va r.1
      mergeRead rt p.1 p.2 (g p)) :
    MergeReads y s base rt off (part s) g := by
  obtain ⟨b, m, hb, rb⟩ := effAddr_reads base off s
  obtain ⟨v, rv, hread⟩ := mergeRead_outcomes rt (s.skip m)
  refine ⟨b, v, rb, rv, fun pa cca hm => ?_⟩
  obtain ⟨htr, hcache, hwatch⟩ := State.skip_Maps s m _ _ _ _ _ hm
  have hrun := (congrFun hy s).trans ((bind_ok hb).trans ((bind_ok htr).trans
    ((bind_ok (checkData_ok hcache hwatch)).trans (look_bind _ _ _))))
  rw [hpart] at hrun
  obtain ⟨hplain, hiso⟩ := hread (part s (s.normVa (b + off.signExtend 64)) pa).1
    (part s (s.normVa (b + off.signExtend 64)) pa).2 (g (part s (s.normVa (b + off.signExtend 64)) pa))
  refine ⟨fun hr => ?_, fun hisc => ?_⟩
  · obtain ⟨j, hj⟩ := hplain hr
    refine ⟨m + j, hrun.trans (hj.trans ?_)⟩
    rw [State.skip_skip]
    rfl
  · obtain ⟨u, hu, hload, hframe, hnpc⟩ := hiso hisc
    exact ⟨u, hrun.trans hu, hload, ((same_skip s m).frame _).trans hframe, hnpc⟩

theorem loadLeft_reads (base rt : RegNum) (off : BitVec 16) (n : Nat) (s : State) :
    MergeReads (loadLeft base rt off n) s base rt off (fun va pa => s.leftPart va pa n)
      (fun p m v => (m <<< (8 * (n - p.2))) ||| (v &&& lowBytes (n - p.2))) :=
  mergeReads_of_eq (part := fun t va pa => t.leftPart va pa n) (fun _ => rfl) rfl

theorem loadRight_reads (base rt : RegNum) (off : BitVec 16) (n : Nat) (s : State) :
    MergeReads (loadRight base rt off n) s base rt off (fun va pa => s.rightPart va pa n)
      (fun p m v => (m ||| (v &&& ~~~lowBytes p.2), p.2 == n)) :=
  mergeReads_of_eq (part := fun t va pa => t.rightPart va pa n)
    (g := fun p m v => (m ||| (v &&& ~~~lowBytes p.2), p.2 == n)) (fun _ => rfl) rfl

/-- An instruction that merges and writes the result, extended by `out`, as a load does. -/
theorem mergeReads_completes {α : Type} {i : Instr} {x : Op Unit} {y : Op α} {s : State} {base rt : RegNum}
    {off : BitVec 16} {part : DWord → Nat → Nat × Nat} {g : Nat × Nat → DWord → DWord → α} {out : α → DWord}
    (hi : exec i s = runSeq x s) (h : MergeReads y s base rt off part g)
    (hx : ∀ a u, y s = .ok (a, u) → u.par = s.par →
      x s = .ok ((), (u.putGpr rt (out a)).delayGpr .mips1 false rt)) :
    ∃ b v, s.Reads base b ∧ s.ReadsMerged rt v ∧ ∀ pa cca, s.Maps (s.normVa (b + off.signExtend 64)) .load 1 pa cca →
      let p := part (s.normVa (b + off.signExtend 64)) pa
      (s.Readable p.1 p.2 → Completes i s fun t =>
        (rt ≠ 0#5 → t.gprVal rt = s.narrow (out (g p (s.memVal p.1 p.2) v))) ∧ Frame { gpr := [rt] } s t ∧ Sequential s t) ∧
      (s.isc = true → Completes i s fun t =>
        (rt ≠ 0#5 → t.gprVal rt = s.narrow (out (g p (s.isolatedVal p.1 p.2) v))) ∧ IsolatedLoad s t p.1 ∧
          Frame { gpr := [rt], cp0 := true } s t ∧ Sequential s t) := by
  obtain ⟨b, v, rb, rv, hread⟩ := h
  refine ⟨b, v, rb, rv, fun pa cca hm => ?_⟩
  obtain ⟨hplain, hiso⟩ := hread pa cca hm
  refine ⟨fun hr => ?_, fun hisc => ?_⟩
  · obtain ⟨j, hj⟩ := hplain hr
    refine (completes_loaded hi (hx _ _ hj rfl) rfl rfl).mono ?_
    rintro t ⟨hval, -, hframe, hseq⟩
    exact ⟨hval, ((same_skip s j).frame _).trans hframe, hseq⟩
  · obtain ⟨u, hu, hload, hframe, hnpc⟩ := hiso hisc
    refine (completes_loaded hi (hx _ _ hu hframe.rest.1) hframe.rest.1 hnpc).mono ?_
    rintro t ⟨hval, -, hkeep, hseq⟩
    exact ⟨hval, hload.then hkeep rfl, hframe.thenCp0 hkeep, hseq⟩

/-- Settles O28. -/
theorem unalignedLoads : Obligations.UnalignedLoads := by
  refine ⟨fun n mk hrow s base rt off h64 => ?_, fun n mk hrow s base rt off h64 => ?_⟩
  · simp only [List.mem_cons, List.not_mem_nil, or_false, Prod.mk.injEq] at hrow
    rcases hrow with ⟨rfl, rfl⟩ | ⟨rfl, rfl⟩
    · have h := mergeReads_completes (i := .lwl base rt off) (out := sextLo) rfl (loadLeft_reads base rt off 4 s)
        fun a u hy _ => (bind_ok hy).trans rfl
      simp only [State.narrow_word (isWord_sext _), sextLo] at h
      exact h
    · have h := mergeReads_completes (i := .ldl base rt off) (out := id) rfl (loadLeft_reads base rt off 8 s)
        fun a u hy _ => (load64_eq (h64 rfl)).trans ((bind_ok hy).trans rfl)
      simp only [State.narrow_of_mips3 (h64 rfl).1] at h
      exact h
  · simp only [List.mem_cons, List.not_mem_nil, or_false, Prod.mk.injEq] at hrow
    rcases hrow with ⟨rfl, rfl⟩ | ⟨rfl, rfl⟩
    · have hx : ∀ a u, loadRight base rt off 4 s = .ok (a, u) → u.par = s.par → (do
            let r ← loadRight base rt off 4
            let c ← look fun t => t.par.lwrUpperSigned
            writeGprLoaded rt (lwrResult c r.1 r.2)) s =
          .ok ((), (u.putGpr rt (lwrResult s.par.lwrUpperSigned a.1 a.2)).delayGpr .mips1 false rt) := by
        intro a u hy hp
        rw [← hp]
        exact bind_ok hy
      have h := mergeReads_completes (i := .lwr base rt off) rfl (loadRight_reads base rt off 4 s)
        (out := fun r : DWord × Bool => lwrResult s.par.lwrUpperSigned r.1 r.2) hx
      simp only [if_true]
      exact h
    · have h := mergeReads_completes (i := .ldr base rt off) (out := Prod.fst) rfl (loadRight_reads base rt off 8 s)
        fun a u hy _ => (load64_eq (h64 rfl)).trans ((bind_ok hy).trans rfl)
      simp only [State.narrow_of_mips3 (h64 rfl).1] at h
      exact h

/-! ### The unaligned stores -/

/-- An unaligned store reads its registers and stores `shift p v`, for the register's value `v`, in the bytes
`p = part va pa`. -/
theorem unalignedStore {i : Instr} {x : Op Unit} {s : State} {base rt : RegNum} {off : BitVec 16}
    {part : State → DWord → Nat → Nat × Nat} {shift : Nat × Nat → DWord → DWord} (hi : exec i s = runSeq x s)
    (hpart : ∀ m, part (s.skip m) = part s)
    (hx : x s = (do
      let v ← readGpr rt
      let va ← effAddr base off
      let r ← translate va .store 1
      checkData va .store r.1
      let p ← look fun t => part t va r.1
      writeMem p.1 p.2 (shift p v)) s) :
    ∃ b v, s.Reads base b ∧ s.Reads rt v ∧ ∀ pa cca, s.Maps (s.normVa (b + off.signExtend 64)) .store 1 pa cca →
      let p := part s (s.normVa (b + off.signExtend 64)) pa
      (s.isc = false → Completes i s fun t =>
        memReadList t.mem (s.lanes p.1 p.2) = toBytes s.bigEndianCpu p.2 (shift p v) ∧
          Frame { mem := s.lanes p.1 p.2 } s t ∧ Sequential s t) ∧
      (s.isc = true → Completes i s fun t => IsolatedStore s t p.1 p.2 (shift p v) ∧ Sequential s t) := by
  obtain ⟨v, j, hv, rv, -⟩ := readGpr_reads rt s
  obtain ⟨b, m, hb, rb⟩ := effAddr_reads base off (s.skip j)
  rw [State.skip_skip] at hb
  refine ⟨b, v, rb, rv, fun pa cca hm => ?_⟩
  obtain ⟨htr, hcache, hwatch⟩ := State.skip_Maps s (j + m) _ _ _ _ _ hm
  have hrun := hx.trans ((bind_ok hv).trans ((bind_ok hb).trans ((bind_ok htr).trans
    ((bind_ok (checkData_ok hcache hwatch)).trans (look_bind _ _ _)))))
  rw [hpart] at hrun
  exact ⟨completes_stored hi hrun (hn := rfl), completes_isolated hi hrun⟩

/-- Settles O29. -/
theorem unalignedStores : Obligations.UnalignedStores := by
  intro n left mk hrow s base rt off h64
  simp only [List.mem_cons, List.not_mem_nil, or_false, Prod.mk.injEq] at hrow
  rcases hrow with ⟨rfl, rfl, rfl⟩ | ⟨rfl, rfl, rfl⟩ | ⟨rfl, rfl, rfl⟩ | ⟨rfl, rfl, rfl⟩
  · exact unalignedStore (i := .swl base rt off) (part := fun t va pa => t.leftPart va pa 4)
      (shift := fun p v => v >>> (8 * (4 - p.2))) rfl (fun _ => rfl) rfl
  · exact unalignedStore (i := .sdl base rt off) (part := fun t va pa => t.leftPart va pa 8)
      (shift := fun p v => v >>> (8 * (8 - p.2))) rfl (fun _ => rfl) (load64_eq (h64 rfl))
  · exact unalignedStore (i := .swr base rt off) (part := fun t va pa => t.rightPart va pa 4)
      (shift := fun _ v => v) rfl (fun _ => rfl) rfl
  · exact unalignedStore (i := .sdr base rt off) (part := fun t va pa => t.rightPart va pa 8)
      (shift := fun _ v => v) rfl (fun _ => rfl) (load64_eq (h64 rfl))

end Sys2Proof.Machine
end

section
/-! PROOFS. Load linked and store conditional, the absent coprocessors, what has no effect, and the traps. -/

namespace Sys2Proof.Machine

/-! ### Load linked -/

/-- The run of a load linked whose address maps and whose data the board answers. -/
theorem loadLinked_run (base rt : RegNum) (off : BitVec 16) (n : Nat) (f : DWord → DWord) (s : State) :
    ∃ b, s.Reads base b ∧ ∀ pa cca, s.Maps (s.normVa (b + off.signExtend 64)) .load n pa cca → s.Readable pa n →
      ∃ v j, (s.offsetUndefined off n = false → cca ≠ 2#3 → v = f (s.memVal pa n)) ∧
        loadLinked base rt off n f s = .ok ((), ((s.skip j).putGpr rt v).setLink
          { va := s.normVa (b + off.signExtend 64), pa := pa, cca := cca, double := n == 8 }) := by
  obtain ⟨b, m, hb, rb⟩ := effAddr_reads base off s
  refine ⟨b, rb, fun pa cca hm hr => ?_⟩
  obtain ⟨htr, hcache, hwatch⟩ := State.skip_Maps s m _ _ _ _ _ hm
  obtain ⟨v, j, hv, he⟩ := freeIf_reads (s.offsetUndefined off n || cca == 2#3) (f (s.memVal pa n)) (s.skip m)
  refine ⟨v, m + j, fun hu hc => he (by simp [hu, hc]), ?_⟩
  rw [← State.skip_skip]
  exact (bind_ok hb).trans ((bind_ok htr).trans ((bind_ok (checkData_ok hcache hwatch)).trans
    ((bind_ok (readMem_ok (s := s.skip m) hr)).trans ((look_bind _ _ _).trans ((bind_ok hv).trans rfl)))))

theorem setLink_cp0 (s : State) (l : Link) :
    (s.setLink l).cp0 = if s.par.cpu.isOrionTlb then { s.cp0 with llAddr := BitVec.ofNat 32 l.pa } else s.cp0 := rfl

/-- A link touches the link and coprocessor 0. -/
theorem frame_setLink (s : State) (l : Link) {w : Touch} (hc : w.cp0 = true) (hl : w.link = true) :
    Frame w s (s.setLink l) where
  gpr q _ := gprVal_congr rfl rfl q
  mem a _ := rfl
  hilo _ := ⟨rfl, rfl⟩
  cp0 e := by simp [hc] at e
  fpu _ := rfl
  link e := by simp [hl] at e
  rest := ⟨rfl, rfl, rfl, rfl, rfl, rfl⟩

/-- The statement about one load linked. -/
theorem loadLinked_completes {i : Instr} {x : Op Unit} {s : State} {base rt : RegNum} {off : BitVec 16} {n : Nat}
    {f g : DWord → DWord} (hi : exec i s = runSeq x s) (hx : x s = loadLinked base rt off n g s)
    (hg : ∀ w, s.narrow (g w) = f w) :
    ∃ b, s.Reads base b ∧ ∀ pa cca, s.Maps (s.normVa (b + off.signExtend 64)) .load n pa cca → s.Readable pa n →
      Completes i s fun t =>
        (rt ≠ 0#5 → s.offsetUndefined off n = false → cca ≠ 2#3 → t.gprVal rt = f (s.memVal pa n)) ∧
          t.llBit = true ∧
          t.link = { va := s.normVa (b + off.signExtend 64), pa := pa, cca := cca, double := n == 8 } ∧
          (s.par.cpu.isOrionTlb = true → t.cp0 = { s.cp0 with llAddr := BitVec.ofNat 32 pa }) ∧
          (s.par.cpu.isOrionTlb = false → t.cp0 = s.cp0) ∧
          Frame { gpr := [rt], link := true, cp0 := true } s t ∧ Sequential s t := by
  obtain ⟨b, rb, hrun⟩ := loadLinked_run base rt off n g s
  refine ⟨b, rb, fun pa cca hm hr => ?_⟩
  obtain ⟨v, j, hv, hll⟩ := hrun pa cca hm hr
  generalize hl : ({ va := s.normVa (b + off.signExtend 64), pa := pa, cca := cca, double := n == 8 } : Link) = l at hll
  have hpa : l.pa = pa := by rw [← hl]
  refine ⟨_, hi.trans (runSeq_ok (hx.trans hll)), fun hrt hu hc => ?_, rfl, rfl, fun ho => ?_, fun ho => ?_, ?_, ?_⟩
  · have hgpr : (((s.skip j).putGpr rt v).setLink l).advance.gprVal rt = s.narrow v :=
      (gprVal_congr rfl rfl rt).trans (putGpr_self (s.skip j) v hrt)
    rw [hgpr, hv hu hc, hg]
  · refine (setLink_cp0 _ l).trans ?_
    simp [ho, hpa]
  · refine (setLink_cp0 _ l).trans ?_
    simp [ho]
  · exact ((same_skip s j).frame _).trans ((frame_putGpr _ rt v (by simp)).trans ((frame_setLink _ l rfl rfl).trans
      ((same_advance _).frame _)))
  · exact sequential_advance (by simp [State.setLink])

/-- Settles O30. -/
theorem Statements.loadLinked : Obligations.LoadLinked := by
  intro n f mk hrow s base rt off hisa h64
  simp only [List.mem_cons, List.not_mem_nil, or_false, Prod.mk.injEq] at hrow
  rcases hrow with ⟨rfl, rfl, rfl⟩ | ⟨rfl, rfl, rfl⟩
  · exact loadLinked_completes (i := .ll base rt off) rfl (bind_ok (requireIsa_ok hisa))
      (narrow_sextBytes s (n := 4) (by decide))
  · exact loadLinked_completes (i := .lld base rt off) rfl (load64_eq (h64 rfl)) (State.narrow_of_mips3 (h64 rfl).1)

/-! ### Store conditional -/

/-- The success of a store conditional is LLbit, but at an uncached address or one that was not linked. -/
theorem scSuccess_ok (va : DWord) (pa : Nat) (cca : BitVec 3) (n : Nat) (s : State) :
    ∃ ok j, scSuccess va pa cca n s = .ok (ok, s.skip j) ∧ (cca ≠ 2#3 →
      (s.llBit = true → s.link = { va := va, pa := pa, cca := cca, double := n == 8 }) → ok = s.llBit) := by
  unfold scSuccess
  split
  · rename_i h
    refine ⟨_, 1, rfl, fun hc hl => ?_⟩
    simp only [Bool.or_eq_true, beq_iff_eq, Bool.and_eq_true, bne_iff_ne, ne_eq] at h
    obtain ⟨hbit, hne⟩ := h.resolve_left hc
    exact absurd (hl hbit) hne
  · exact ⟨s.llBit, 0, rfl, fun _ _ => rfl⟩

/-- The state after a store conditional that stores `w` where `ok` is, and answers `y`. -/
def State.storedCond (s : State) (pa n : Nat) (ok : Bool) (w y : DWord) (rt : RegNum) (j k : Nat) : State :=
  { ((if ok then (s.skip j).putMem pa n w else s.skip j).skip k).putGpr rt y with llBit := false }

theorem storeConditional_run (base rt : RegNum) (off : BitVec 16) (n : Nat) (s : State) :
    ∃ b v, s.Reads base b ∧ s.Reads rt v ∧ ∀ pa cca, s.Maps (s.normVa (b + off.signExtend 64)) .store n pa cca →
      ∃ ok w y j k, storeConditional base rt off n s = .ok ((), s.storedCond pa n ok w y rt j k) ∧
        (s.offsetUndefined off n = false → w = v ∧ y = boolVal ok) ∧
        (cca ≠ 2#3 → (s.llBit = true →
          s.link = { va := s.normVa (b + off.signExtend 64), pa := pa, cca := cca, double := n == 8 }) → ok = s.llBit) := by
  obtain ⟨v, m1, hv, rv, -⟩ := readGpr_reads rt s
  obtain ⟨b, m2, hb, rb⟩ := effAddr_reads base off (s.skip m1)
  rw [State.skip_skip] at hb
  refine ⟨b, v, rb, rv, fun pa cca hm => ?_⟩
  obtain ⟨htr, hcache, hwatch⟩ := State.skip_Maps s (m1 + m2) _ _ _ _ _ hm
  obtain ⟨ok, m3, hok, hsucc⟩ := scSuccess_ok (s.normVa (b + off.signExtend 64)) pa cca n (s.skip (m1 + m2))
  rw [State.skip_skip] at hok
  obtain ⟨w, m4, hw, hwv⟩ := freeIf_reads (s.offsetUndefined off n) v (s.skip (m1 + m2 + m3))
  rw [State.skip_skip] at hw
  obtain ⟨y, k, hy, hyv⟩ := freeIf_reads (s.offsetUndefined off n) (boolVal ok)
    (if ok then (s.skip (m1 + m2 + m3 + m4)).putMem pa n w else s.skip (m1 + m2 + m3 + m4))
  refine ⟨ok, w, y, m1 + m2 + m3 + m4, k, ?_, fun hu => ⟨hwv hu, hyv hu⟩, hsucc⟩
  exact (bind_ok hv).trans ((bind_ok hb).trans ((bind_ok htr).trans ((bind_ok (checkData_ok hcache hwatch)).trans
    ((bind_ok hok).trans ((look_bind _ _ _).trans ((bind_ok hw).trans ((change_bind _ _ _).trans
      ((bind_ok hy).trans rfl))))))))

section StoredCond
variable (s : State) (pa n : Nat) (ok : Bool) (w y : DWord) (rt : RegNum) (j k : Nat)

theorem storedCond_parts :
    (s.storedCond pa n ok w y rt j k).par = s.par ∧
      ((s.storedCond pa n ok w y rt j k).nextPc = s.nextPc ∧ (s.storedCond pa n ok w y rt j k).link = s.link) := by
  unfold State.storedCond
  cases ok
  · simp
  · cases hisc : s.isc
    · rw [if_pos rfl, putMem_plain (s := s.skip j) hisc]
      simp [State.setMem]
    · obtain ⟨c, hc, -⟩ := putMem_isolated (s := s.skip j) hisc pa (n := n) w
      rw [if_pos rfl, hc]
      unfold State.setIsolated
      split <;> simp

theorem frame_storedCond (hisc : s.isc = false) :
    Frame { gpr := [rt], mem := s.lanes pa n, link := true } s (s.storedCond pa n ok w y rt j k) := by
  have hstore : Frame { gpr := [rt], mem := s.lanes pa n, link := true } s
      (if ok then (s.skip j).putMem pa n w else s.skip j) := by
    cases ok
    · exact (same_skip s j).frame _
    · rw [if_pos rfl, putMem_plain (s := s.skip j) hisc]
      exact ((same_skip s j).frame _).trans (frame_setMem (s.skip j) pa n w fun _ h => h)
  refine hstore.trans (((same_skip _ k).frame _).trans ((frame_putGpr _ rt y (by simp)).trans ?_))
  exact ⟨fun q _ => gprVal_congr rfl rfl q, fun _ _ => rfl, fun _ => ⟨rfl, rfl⟩, fun _ => ⟨rfl, rfl, rfl, rfl, rfl⟩,
    fun _ => rfl, nofun, rfl, rfl, rfl, rfl, rfl, rfl⟩

theorem storedCond_mem (hisc : s.isc = false) : (s.storedCond pa n ok w y rt j k).mem =
    if ok then ((s.skip j).setMem pa n w).mem else s.mem := by
  unfold State.storedCond
  cases ok
  · simp
  · rw [if_pos rfl, putMem_plain (s := s.skip j) hisc]
    simp

end StoredCond

/-- The statement about one store conditional. -/
theorem storeConditional_completes {i : Instr} {x : Op Unit} {s : State} {base rt : RegNum} {off : BitVec 16} {n : Nat}
    (hi : exec i s = runSeq x s) (hx : x s = storeConditional base rt off n s) (hisc : s.isc = false) :
    ∃ b v, s.Reads base b ∧ s.Reads rt v ∧ ∀ pa cca, s.Maps (s.normVa (b + off.signExtend 64)) .store n pa cca →
      Completes i s fun t =>
        (cca ≠ 2#3 → s.offsetUndefined off n = false →
          (s.llBit = true →
            s.link = { va := s.normVa (b + off.signExtend 64), pa := pa, cca := cca, double := n == 8 }) →
          (rt ≠ 0#5 → t.gprVal rt = if s.llBit then 1 else 0) ∧
            (s.llBit = true → memReadList t.mem (s.lanes pa n) = toBytes s.bigEndianCpu n v) ∧
            (s.llBit = false → t.mem = s.mem)) ∧
          t.llBit = false ∧ t.link = s.link ∧
          Frame { gpr := [rt], mem := s.lanes pa n, link := true } s t ∧ Sequential s t := by
  obtain ⟨b, v, rb, rv, hrun⟩ := storeConditional_run base rt off n s
  refine ⟨b, v, rb, rv, fun pa cca hm => ?_⟩
  obtain ⟨ok, w, y, j, k, hsc, hval, hok⟩ := hrun pa cca hm
  obtain ⟨hpar, hnpc, hlink⟩ := storedCond_parts s pa n ok w y rt j k
  refine ⟨_, hi.trans (runSeq_ok (hx.trans hsc)), fun hc hu hl => ?_, rfl, hlink, ?_, sequential_advance hnpc⟩
  · obtain ⟨rfl, rfl⟩ := hval hu
    have hmem := storedCond_mem s pa n ok w (boolVal ok) rt j k hisc
    refine ⟨fun hrt => ?_, fun hbit => ?_, fun hbit => ?_⟩
    · have hgpr : (s.storedCond pa n ok w (boolVal ok) rt j k).advance.gprVal rt = s.narrow (boolVal ok) := by
        refine (gprVal_congr rfl rfl rt).trans ((putGpr_self _ _ hrt).trans (narrow_congr ?_ _))
        simpa [State.storedCond] using hpar
      rw [hgpr, ← hok hc hl]
      cases ok
      · exact State.narrow_word (by decide)
      · exact State.narrow_word (by decide)
    · rw [← hok hc hl] at hbit
      subst hbit
      refine (congrArg (memReadList · (s.lanes pa n)) hmem).trans ?_
      exact setMem_reads (s.skip j) pa n w
    · rw [← hok hc hl] at hbit
      subst hbit
      exact hmem
  · exact (frame_storedCond s pa n ok w y rt j k hisc).trans ((same_advance _).frame _)

/-- Settles O31. -/
theorem Statements.storeConditional : Obligations.StoreConditional := by
  intro n mk hrow s base rt off hisa h64 hisc
  simp only [List.mem_cons, List.not_mem_nil, or_false, Prod.mk.injEq] at hrow
  rcases hrow with ⟨rfl, rfl⟩ | ⟨rfl, rfl⟩
  · exact storeConditional_completes (i := .sc base rt off) rfl (bind_ok (requireIsa_ok hisa)) hisc
  · exact storeConditional_completes (i := .scd base rt off) rfl (load64_eq (h64 rfl)) hisc

end Sys2Proof.Machine
end

section
/-! PROOFS. The absent coprocessors, what has no effect, the conditional traps, and the accesses that stop at their
address. -/

namespace Sys2Proof.Machine

/-! ### Instructions that change nothing -/

/-- An instruction that only used up free values completes and changes nothing. -/
theorem completes_skip {i : Instr} {x : Op Unit} {s : State} {n : Nat} (hi : exec i s = runSeq x s)
    (h : x s = .ok ((), s.skip n)) : Completes i s fun t => Frame {} s t ∧ Sequential s t := by
  obtain ⟨t, ht, hframe, hseq⟩ := runSeq_skip h
  exact ⟨t, hi.trans ht, hframe, hseq⟩

theorem require4xxx_ok {s : State} (hc : s.CopUsable 0#2) (h : s.par.cpu.is30xx = false) :
    require4xxx s = .ok ((), s) :=
  (bind_ok (requireCop_ok hc)).trans ((look_bind _ _ _).trans (raiseIf_ok _ _ h))

/-- Settles O33. -/
theorem noEffect : Obligations.NoEffect := by
  intro s base index hint stype off
  refine ⟨fun h => ?_, fun h => ?_, fun h hc => ?_, fun hc h => ?_⟩
  · exact completes_skip (i := .sync stype) (n := 0) rfl (requireIsa_ok h)
  · exact completes_skip (i := .pref base hint off) (n := 0) rfl (requireIsa_ok h)
  · exact completes_skip (i := .prefx base index hint) (n := 0) rfl ((bind_ok (requireIsa_ok h)).trans (requireCop_ok hc))
  · exact completes_skip (i := .wait) (n := 0) rfl (require4xxx_ok hc h)

/-! ### The absent coprocessors -/

section Absent
variable {i : Instr} {x : Op Unit} {s : State} {base rt : RegNum} {off : BitVec 16} {n : Nat} {z : BitVec 2}

theorem loadAbsent_completes (hi : exec i s = runSeq x s) (hx : x s = loadAbsent z base off n s) (hz : s.CopUsable z) :
    ∃ b, s.Reads base b ∧ ∀ pa cca, s.Maps (s.normVa (b + off.signExtend 64)) .load n pa cca →
      (s.Readable pa n → Completes i s fun t => Frame {} s t ∧ Sequential s t) ∧
        (s.isc = true → Completes i s fun t => IsolatedLoad s t pa ∧ Frame { cp0 := true } s t ∧ Sequential s t) := by
  obtain ⟨b, m, hb, rb⟩ := effAddr_reads base off s
  refine ⟨b, rb, fun pa cca hm => ?_⟩
  have hm' := State.skip_Maps s m _ _ _ _ _ hm
  -- the run, once the access answers at `u`
  have hrun : ∀ w u, loadAt (s.normVa (b + off.signExtend 64)) n (s.skip m) = .ok (w, u) →
      ∃ j, x s = .ok ((), u.skip j) := by
    intro w u hl
    obtain ⟨v, j, hv, -⟩ := freeIf_reads (u.offsetUndefined off n) w u
    have hfield : loadField base off n id s = .ok (v, u.skip j) :=
      (bind_ok hb).trans ((bind_ok hl).trans ((look_bind _ _ _).trans hv))
    exact ⟨j, hx.trans ((bind_ok (requireCop_ok hz)).trans ((bind_ok hfield).trans rfl))⟩
  refine ⟨fun hr => ?_, fun hisc => ?_⟩
  · obtain ⟨j, hj⟩ := hrun _ _ (loadAt_ok hm' hr)
    exact completes_skip hi (hj.trans (by rw [State.skip_skip]))
  · obtain ⟨u, hu, hload, hframe, -, hnpc, -⟩ := loadAt_isolated hm' hisc
    obtain ⟨j, hj⟩ := hrun _ _ hu
    have hsame : SameMachine u (u.skip j).advance := (same_skip u j).trans (same_advance _)
    exact ⟨_, hi.trans (runSeq_ok hj), hload.then (hsame.frame {}) rfl,
      ((same_skip s m).frame _).trans (hframe.trans (hsame.frame _)), sequential_advance hnpc⟩

theorem storeAbsent_completes (hi : exec i s = runSeq x s) (hx : x s = storeAbsent z base off n s) (hz : s.CopUsable z) :
    ∃ b, s.Reads base b ∧ ∀ pa cca, s.Maps (s.normVa (b + off.signExtend 64)) .store n pa cca →
      (s.isc = false → Completes i s fun t => Frame { mem := s.lanes pa n } s t ∧ Sequential s t) ∧
        (s.isc = true → Completes i s fun t => ∃ v, IsolatedStore s t pa n v ∧ Sequential s t) := by
  obtain ⟨b, w, m, rb, -, hst⟩ := storeField_eq base off n s.free (s.skip 1)
  rw [State.skip_skip] at hst
  have hrun := hx.trans ((bind_ok (requireCop_ok hz)).trans ((bind_ok (x := fresh) rfl).trans hst))
  refine ⟨b, rb, fun pa cca hm => ⟨fun hisc => ?_, fun hisc => ?_⟩⟩
  · exact (completes_stored hi (hrun.trans (storeAt_isMaps w hm)) hisc rfl).mono fun t ⟨_, hframe, hseq⟩ => ⟨hframe, hseq⟩
  · exact (completes_isolated hi (hrun.trans (storeAt_isMaps w hm)) hisc).mono fun t h => ⟨w, h⟩

theorem absentNop_completes (hi : exec i s = runSeq (absentNop z) s) (hz : s.CopUsable z) :
    Completes i s fun t => Frame {} s t ∧ Sequential s t := completes_skip (n := 0) hi (requireCop_ok hz)

theorem moveFromAbsent_completes (hi : exec i s = runSeq (moveFromAbsent z rt) s) (hz : s.CopUsable z) :
    Completes i s fun t => Frame { gpr := [rt] } s t ∧ Sequential s t := by
  have hrun : moveFromAbsent z rt s = .ok ((), ((s.skip 1).putGpr rt s.free).delayGpr .mips1 true rt) :=
    (bind_ok (requireCop_ok hz)).trans ((bind_ok (x := fresh) rfl).trans rfl)
  refine ⟨_, hi.trans (runSeq_ok hrun), ?_, sequential_advance (by simp)⟩
  exact ((same_skip s 1).frame _).trans ((frame_putGpr _ rt _ (by simp)).trans
    (((same_delayGpr _ _ _ _).trans (same_advance _)).frame _))

end Absent

/-- Settles O32. -/
theorem absentCoprocessors : Obligations.AbsentCoprocessors := by
  refine ⟨fun z n mk hrow s base rt off hz hisa => ?_, fun z n mk hrow s base rt off hz hisa => ?_,
    fun s rt rd fn => ⟨fun hz => ⟨fun i hi => ?_, fun i hi => ?_⟩, fun hz => ⟨fun i hi => ?_, fun i hi => ?_⟩⟩⟩
  · simp only [List.mem_cons, List.not_mem_nil, or_false, Prod.mk.injEq] at hrow
    rcases hrow with ⟨rfl, rfl, rfl⟩ | ⟨rfl, rfl, rfl⟩ | ⟨rfl, rfl, rfl⟩
    · exact loadAbsent_completes (i := .lwc2 base rt off) rfl rfl hz
    · exact loadAbsent_completes (i := .lwc3 base rt off) rfl rfl hz
    · exact loadAbsent_completes (i := .ldc2 base rt off) rfl (bind_ok (requireIsa_ok (hisa rfl))) hz
  · simp only [List.mem_cons, List.not_mem_nil, or_false, Prod.mk.injEq] at hrow
    rcases hrow with ⟨rfl, rfl, rfl⟩ | ⟨rfl, rfl, rfl⟩ | ⟨rfl, rfl, rfl⟩
    · exact storeAbsent_completes (i := .swc2 base rt off) rfl rfl hz
    · exact storeAbsent_completes (i := .swc3 base rt off) rfl rfl hz
    · exact storeAbsent_completes (i := .sdc2 base rt off) rfl (bind_ok (requireIsa_ok (hisa rfl))) hz
  · simp only [List.mem_cons, List.not_mem_nil, or_false] at hi
    rcases hi with rfl | rfl | rfl
    · exact absentNop_completes rfl hz
    · exact absentNop_completes rfl hz
    · exact absentNop_completes rfl hz
  · simp only [List.mem_cons, List.not_mem_nil, or_false] at hi
    rcases hi with rfl | rfl
    · exact moveFromAbsent_completes rfl hz
    · exact moveFromAbsent_completes rfl hz
  · simp only [List.mem_cons, List.not_mem_nil, or_false] at hi
    rcases hi with rfl | rfl | rfl
    · exact absentNop_completes rfl hz
    · exact absentNop_completes rfl hz
    · exact absentNop_completes rfl hz
  · simp only [List.mem_cons, List.not_mem_nil, or_false] at hi
    rcases hi with rfl | rfl
    · exact moveFromAbsent_completes rfl hz
    · exact moveFromAbsent_completes rfl hz

/-! ### Traps -/

section TrapForms
variable {i : Instr} {s : State} {rs rt : RegNum} {test p : DWord → DWord → Bool}

theorem trapRR_outcomes (hi : exec i s = runSeq (trapRR rs rt test) s) (hp : ∀ a b, p a b = test a b) :
    (s.HasIsa .mips2 → ∃ a b, s.Reads rs a ∧ s.Reads rt b ∧
      (p a b = false → Completes i s fun t => Frame {} s t ∧ Sequential s t) ∧ (p a b = true → Traps i s .trap)) ∧
    (¬s.HasIsa .mips2 → Traps i s .reservedInstruction) := by
  refine ⟨fun h => ?_, fun h => traps_skip (n := 0) hi (bind_error (requireIsa_error h))⟩
  obtain ⟨a, b, m, hread, ra, rb, -, -⟩ := read2 rs rt s fun a b => raiseIf (test a b) .trap
  have hrun : trapRR rs rt test s = raiseIf (test a b) .trap (s.skip m) := (bind_ok (requireIsa_ok h)).trans hread
  exact ⟨a, b, ra, rb, fun hab => completes_skip hi (hrun.trans (raiseIf_ok _ _ ((hp a b).symm.trans hab))),
    fun hab => traps_skip hi (hrun.trans (raiseIf_error _ _ ((hp a b).symm.trans hab)))⟩

theorem trapRI_outcomes {imm : BitVec 16} (hi : exec i s = runSeq (trapRI rs imm test) s) (hp : ∀ a b, p a b = test a b) :
    (s.HasIsa .mips2 → ∃ a, s.Reads rs a ∧
      (p a (imm.signExtend 64) = false → Completes i s fun t => Frame {} s t ∧ Sequential s t) ∧
      (p a (imm.signExtend 64) = true → Traps i s .trap)) ∧
    (¬s.HasIsa .mips2 → Traps i s .reservedInstruction) := by
  refine ⟨fun h => ?_, fun h => traps_skip (n := 0) hi (bind_error (requireIsa_error h))⟩
  obtain ⟨a, m, ha, ra, -⟩ := readGpr_reads rs s
  have hrun : trapRI rs imm test s = raiseIf (test a (sextImm imm)) .trap (s.skip m) :=
    (bind_ok (requireIsa_ok h)).trans (bind_ok ha)
  exact ⟨a, ra, fun hab => completes_skip hi (hrun.trans (raiseIf_ok _ _ ((hp _ _).symm.trans hab))),
    fun hab => traps_skip hi (hrun.trans (raiseIf_error _ _ ((hp _ _).symm.trans hab)))⟩

end TrapForms

theorem decide_toInt_le (a b : DWord) : decide (b.toInt ≤ a.toInt) = !a.slt b := by
  simp [BitVec.slt, ← decide_not]

theorem decide_toNat_le (a b : DWord) : decide (b.toNat ≤ a.toNat) = !a.ult b := by
  simp [BitVec.ult, ← decide_not]

theorem decide_ne_eq_bne (a b : DWord) : decide (a ≠ b) = (a != b) := by
  rw [bne, beq_eq_decide, decide_not]

/-- Settles O35. -/
theorem syscallBreakAndTraps : Obligations.SyscallBreakAndTraps := by
  refine ⟨fun s code => ⟨rfl, rfl⟩, fun row hrow s rs rt code => ?_, fun row hrow s rs imm => ?_⟩
  · simp only [List.mem_cons, List.not_mem_nil, or_false] at hrow
    rcases hrow with rfl | rfl | rfl | rfl | rfl | rfl
    · exact trapRR_outcomes (i := .tge rs rt code) rfl decide_toInt_le
    · exact trapRR_outcomes (i := .tgeu rs rt code) rfl decide_toNat_le
    · exact trapRR_outcomes (i := .tlt rs rt code) rfl fun _ _ => rfl
    · exact trapRR_outcomes (i := .tltu rs rt code) rfl fun _ _ => rfl
    · exact trapRR_outcomes (i := .teq rs rt code) rfl fun a b => (beq_eq_decide a b).symm
    · exact trapRR_outcomes (i := .tne rs rt code) rfl decide_ne_eq_bne
  · simp only [List.mem_cons, List.not_mem_nil, or_false] at hrow
    rcases hrow with rfl | rfl | rfl | rfl | rfl | rfl
    · exact trapRI_outcomes (i := .tgei rs imm) rfl decide_toInt_le
    · exact trapRI_outcomes (i := .tgeiu rs imm) rfl decide_toNat_le
    · exact trapRI_outcomes (i := .tlti rs imm) rfl fun _ _ => rfl
    · exact trapRI_outcomes (i := .tltiu rs imm) rfl fun _ _ => rfl
    · exact trapRI_outcomes (i := .teqi rs imm) rfl fun a b => (beq_eq_decide a b).symm
    · exact trapRI_outcomes (i := .tnei rs imm) rfl decide_ne_eq_bne

/-! ### Accesses that stop at their address -/

/-- An exception of the translation of `va` for an access of `n` bytes ends `x` at `s`: nothing before it stops or changes
anything. -/
def StopsAt (x : Op Unit) (s : State) (va : DWord) (k : Access) (n : Nat) : Prop :=
  ∀ e, translate va k n s = .error (.exc e s) → ∃ m, x s = .error (.exc e (s.skip m))

theorem translate_stops_skip {va : DWord} {k : Access} {n : Nat} {s : State} {e : Exc}
    (h : translate va k n s = .error (.exc e s)) (m : Nat) : translate va k n (s.skip m) = .error (.exc e (s.skip m)) := by
  rw [skips_translate va k n s m, h]
  rfl

theorem loadAt_translation {va : DWord} {n : Nat} {s : State} {e : Exc} (h : translate va .load n s = .error (.exc e s))
    (m : Nat) : loadAt va n (s.skip m) = .error (.exc e (s.skip m)) := bind_error (translate_stops_skip h m)

theorem storeAt_translation {va : DWord} {n : Nat} {s : State} {e : Exc} (v : DWord)
    (h : translate va .store n s = .error (.exc e s)) (m : Nat) : storeAt va n v (s.skip m) = .error (.exc e (s.skip m)) :=
  bind_error (translate_stops_skip h m)

section Stops
variable {x : Op Unit} {s : State} {base rt : RegNum} {off : BitVec 16} {n : Nat}

/-- The address of a load or store with a settled base. -/
def State.addrOf (s : State) (base : RegNum) (off : BitVec 16) : DWord := s.normVa (s.gprVal base + off.signExtend 64)

theorem stopsAt_of_eq {y : Op Unit} {va : DWord} {k : Access} (hx : x s = y s) (h : StopsAt y s va k n) :
    StopsAt x s va k n := fun e he => by
  rw [hx]
  exact h e he

theorem loadField_stopsAt {α : Type} {f : DWord → DWord} {k : DWord → Op α} (hb : s.Settled base) (e : Exc)
    (h : translate (s.addrOf base off) .load n s = .error (.exc e s)) :
    (loadField base off n f >>= k) s = .error (.exc e s) :=
  bind_error ((bind_ok (effAddr_settled off hb)).trans (bind_error (loadAt_translation h 0)))

theorem loadField_bind_stopsAt {f : DWord → DWord} {k : DWord → Op Unit} (hb : s.Settled base) :
    StopsAt (loadField base off n f >>= k) s (s.addrOf base off) .load n := fun e h => ⟨0, loadField_stopsAt hb e h⟩

theorem storeField_stopsAt (hb : s.Settled base) {v : DWord} {y : Op DWord} {j : Nat} (hy : y s = .ok (v, s.skip j)) :
    StopsAt (y >>= storeField base off n) s (s.addrOf base off) .store n := fun e h => by
  obtain ⟨b, w, m, rb, -, hst⟩ := storeField_eq base off n v (s.skip j)
  have hbase : b = s.gprVal base := rb hb
  subst hbase
  rw [State.skip_skip] at hst
  exact ⟨j + m, (bind_ok hy).trans (hst.trans (storeAt_translation w h _))⟩

theorem loadLinked_stopsAt {f : DWord → DWord} (hb : s.Settled base) :
    StopsAt (Machine.loadLinked base rt off n f) s (s.addrOf base off) .load n := fun _ h =>
  ⟨0, (bind_ok (effAddr_settled off hb)).trans (bind_error h)⟩

theorem storeConditional_stopsAt (hb : s.Settled base) (ht : s.Settled rt) :
    StopsAt (Machine.storeConditional base rt off n) s (s.addrOf base off) .store n := fun _ h =>
  ⟨0, (bind_ok (readGpr_settled ht)).trans ((bind_ok (effAddr_settled off hb)).trans (bind_error h))⟩

theorem storeReg_stopsAt (hb : s.Settled base) (ht : s.Settled rt) :
    StopsAt (storeReg base rt off n) s (s.addrOf base off) .store n :=
  storeField_stopsAt (j := 0) hb (readGpr_settled ht)

/-- What an instruction takes whose access stops at its address: in the R4650's kuseg the bounds come first. -/
theorem traps_of_stopsAt {i : Instr} {va : DWord} {k : Access} {m : Mode} (hi : exec i s = runSeq x s)
    (h : StopsAt x s va k n) (hm : s.mode? = some m) (hu : s.boundsUnsettled va = false) :
    (va.toNat % n ≠ 0 → s.outOfBounds va k = false → Traps i s (.addressError va k.isStore)) ∧
      (s.outOfBounds va k = true → Traps i s (.bounds va k.isStore)) := by
  refine ⟨fun hn hb => ?_, fun hb => ?_⟩
  · obtain ⟨j, hj⟩ := h _ (translate_misaligned hm hu hb hn)
    exact traps_skip hi hj
  · obtain ⟨j, hj⟩ := h _ (translate_outOfBounds hm hu hb)
    exact traps_skip hi hj

end Stops

/-- A word a store takes from coprocessor 1 is read without another change, with or without an FPA. -/
theorem readFgrWord_skips (r : RegNum) (s : State) : ∃ v j, readFgrWord r s = .ok (v, s.skip j) := by
  unfold readFgrWord
  split
  · exact ⟨_, 1, rfl⟩
  · exact ⟨_, 0, rfl⟩

theorem readFgrDouble_skips (r : RegNum) (s : State) : ∃ v j, readFgrDouble r s = .ok (v, s.skip j) := by
  unfold readFgrDouble
  split
  · exact ⟨_, 1, rfl⟩
  · exact ⟨_, 0, rfl⟩

section Gates
variable {s : State} {z : BitVec 2} {l : Isa}

theorem gateCop {x : Op Unit} (h : s.CopUsable z) : (do requireCop z; x) s = x s := bind_ok (requireCop_ok h)
theorem gateIsa {x : Op Unit} (h : s.HasIsa l) : (do requireIsa l; x) s = x s := bind_ok (requireIsa_ok h)
theorem gateIsaCop {x : Op Unit} (h : s.HasIsa l ∧ s.CopUsable z) : (do requireIsa l; requireCop z; x) s = x s :=
  (bind_ok (requireIsa_ok h.1)).trans (bind_ok (requireCop_ok h.2))

end Gates

/-! ### Indexed accesses -/

theorem normVa_of_mips4 {s : State} (h : s.HasIsa .mips4) (a : DWord) : s.normVa a = a := by
  unfold State.HasIsa at h
  refine if_pos ?_
  cases hc : s.par.cpu <;> simp_all [Cpu.isa, Isa.rank, Cpu.isOrionTlb]

/-- No MIPS IV member has bounds. -/
theorem boundsMapped_of_mips4 {s : State} (h : s.HasIsa .mips4) (a : DWord) : s.boundsMapped a = false := by
  unfold State.HasIsa at h
  unfold State.boundsMapped
  cases hc : s.par.cpu <;> simp_all [Cpu.isa, Isa.rank, Cpu.is4650]

section Indexed
variable {s : State} {base index : RegNum}

theorem indexedAddr_settled (hb : s.Settled base) (hx : s.Settled index) (h : s.HasIsa .mips4)
    (hreg : (s.gprVal base + s.gprVal index).extractLsb' 62 2 = (s.gprVal base).extractLsb' 62 2) :
    indexedAddr base index s = .ok ((s.gprVal base + s.gprVal index, false), s) := by
  refine (bind_ok (readGpr_settled hb)).trans ((bind_ok (readGpr_settled hx)).trans ?_)
  rw [look_apply, normVa_of_mips4 h, hreg, bne_self_eq_false]

theorem indexedLoad_stopsAt {k : DWord → Op Unit} {n : Nat} (hb : s.Settled base) (hx : s.Settled index)
    (h : s.HasIsa .mips4) (hc : s.CopUsable 1#2)
    (hreg : (s.gprVal base + s.gprVal index).extractLsb' 62 2 = (s.gprVal base).extractLsb' 62 2) :
    StopsAt (indexedLoad base index n >>= k) s (s.gprVal base + s.gprVal index) .load n := fun _ he =>
  ⟨0, bind_error ((bind_ok (requireIsa_ok h)).trans ((bind_ok (requireCop_ok hc)).trans
    ((bind_ok (indexedAddr_settled hb hx h hreg)).trans (loadAt_translation he 0))))⟩

theorem indexedStore_stopsAt {n : Nat} (hb : s.Settled base) (hx : s.Settled index) (h : s.HasIsa .mips4)
    (hc : s.CopUsable 1#2)
    (hreg : (s.gprVal base + s.gprVal index).extractLsb' 62 2 = (s.gprVal base).extractLsb' 62 2) {y : Op DWord}
    (hy : ∃ v j, y s = .ok (v, s.skip j)) :
    StopsAt (indexedStore base index n y) s (s.gprVal base + s.gprVal index) .store n := fun _ he => by
  obtain ⟨v, j, hv⟩ := hy
  exact ⟨j, (bind_ok (requireIsa_ok h)).trans ((bind_ok (requireCop_ok hc)).trans
    ((bind_ok (indexedAddr_settled hb hx h hreg)).trans ((bind_ok (refuseIf_ok _ _ rfl)).trans
      ((bind_ok hv).trans (storeAt_translation v he j)))))⟩

end Indexed

/-- Settles O34. -/
theorem misalignedAccessTraps : Obligations.MisalignedAccessTraps := by
  refine ⟨?_, ?_⟩
  · intro s base rt off m hb ht hm n store may mk hrow va k hmay hu
    suffices hstop : ∃ x, exec (mk base rt off) s = runSeq x s ∧ StopsAt x s va k n by
      obtain ⟨x, hi, hx⟩ := hstop
      have htraps := traps_of_stopsAt hi hx hm hu
      cases store
      · exact htraps
      · exact htraps
    simp only [List.mem_cons, List.not_mem_nil, or_false, Prod.mk.injEq] at hrow
    rcases hrow with ⟨rfl, rfl, rfl, rfl⟩ | ⟨rfl, rfl, rfl, rfl⟩ | ⟨rfl, rfl, rfl, rfl⟩ | ⟨rfl, rfl, rfl, rfl⟩ |
      ⟨rfl, rfl, rfl, rfl⟩ | ⟨rfl, rfl, rfl, rfl⟩ | ⟨rfl, rfl, rfl, rfl⟩ | ⟨rfl, rfl, rfl, rfl⟩ | ⟨rfl, rfl, rfl, rfl⟩ |
      ⟨rfl, rfl, rfl, rfl⟩ | ⟨rfl, rfl, rfl, rfl⟩ | ⟨rfl, rfl, rfl, rfl⟩ | ⟨rfl, rfl, rfl, rfl⟩ | ⟨rfl, rfl, rfl, rfl⟩ |
      ⟨rfl, rfl, rfl, rfl⟩ | ⟨rfl, rfl, rfl, rfl⟩ | ⟨rfl, rfl, rfl, rfl⟩ | ⟨rfl, rfl, rfl, rfl⟩ | ⟨rfl, rfl, rfl, rfl⟩ |
      ⟨rfl, rfl, rfl, rfl⟩ | ⟨rfl, rfl, rfl, rfl⟩ | ⟨rfl, rfl, rfl, rfl⟩
    -- LH, LHU, LW, SH, SW
    · exact ⟨_, rfl, loadField_bind_stopsAt hb⟩
    · exact ⟨_, rfl, loadField_bind_stopsAt hb⟩
    · exact ⟨_, rfl, loadField_bind_stopsAt hb⟩
    · exact ⟨_, rfl, storeReg_stopsAt hb ht⟩
    · exact ⟨_, rfl, storeReg_stopsAt hb ht⟩
    -- LWU, LD, SD
    · exact ⟨_, rfl, stopsAt_of_eq (load64_eq hmay) (loadField_bind_stopsAt hb)⟩
    · exact ⟨_, rfl, stopsAt_of_eq (load64_eq hmay) (loadField_bind_stopsAt hb)⟩
    · exact ⟨_, rfl, stopsAt_of_eq (load64_eq hmay) (storeReg_stopsAt hb ht)⟩
    -- LL, SC, LLD, SCD
    · exact ⟨_, rfl, stopsAt_of_eq (gateIsa hmay) (loadLinked_stopsAt hb)⟩
    · exact ⟨_, rfl, stopsAt_of_eq (gateIsa hmay) (storeConditional_stopsAt hb ht)⟩
    · exact ⟨_, rfl, stopsAt_of_eq (load64_eq hmay) (loadLinked_stopsAt hb)⟩
    · exact ⟨_, rfl, stopsAt_of_eq (load64_eq hmay) (storeConditional_stopsAt hb ht)⟩
    -- LWC1, SWC1, LDC1, SDC1
    · exact ⟨_, rfl, stopsAt_of_eq (gateCop hmay) (loadField_bind_stopsAt hb)⟩
    · obtain ⟨v, j, hv⟩ := readFgrWord_skips rt s
      exact ⟨_, rfl, stopsAt_of_eq (gateCop hmay) (storeField_stopsAt hb hv)⟩
    · exact ⟨_, rfl, stopsAt_of_eq (gateIsaCop hmay) (loadField_bind_stopsAt hb)⟩
    · obtain ⟨v, j, hv⟩ := readFgrDouble_skips rt s
      exact ⟨_, rfl, stopsAt_of_eq (gateIsaCop hmay) (storeField_stopsAt hb hv)⟩
    -- LWC2, SWC2, LWC3, SWC3, LDC2, SDC2
    · exact ⟨_, rfl, stopsAt_of_eq (gateCop hmay) (loadField_bind_stopsAt hb)⟩
    · exact ⟨_, rfl, stopsAt_of_eq (gateCop hmay) (storeField_stopsAt (y := fresh) (j := 1) hb rfl)⟩
    · exact ⟨_, rfl, stopsAt_of_eq (gateCop hmay) (loadField_bind_stopsAt hb)⟩
    · exact ⟨_, rfl, stopsAt_of_eq (gateCop hmay) (storeField_stopsAt (y := fresh) (j := 1) hb rfl)⟩
    · exact ⟨_, rfl, stopsAt_of_eq (gateIsaCop hmay) (loadField_bind_stopsAt hb)⟩
    · exact ⟨_, rfl, stopsAt_of_eq (gateIsaCop hmay) (storeField_stopsAt (y := fresh) (j := 1) hb rfl)⟩
  · intro s base index r m hb hx hm h4 hc row hrow va hreg hn
    have hmapped := boundsMapped_of_mips4 h4
    have hu : s.boundsUnsettled va = false := by simp [State.boundsUnsettled, hmapped]
    have hout : ∀ k, s.outOfBounds va k = false := fun k => by simp [State.outOfBounds, hmapped]
    simp only [List.mem_cons, List.not_mem_nil, or_false] at hrow
    rcases hrow with rfl | rfl | rfl | rfl
    · exact (traps_of_stopsAt rfl (indexedLoad_stopsAt hb hx h4 hc hreg) hm hu).1 hn (hout .load)
    · exact (traps_of_stopsAt rfl (indexedLoad_stopsAt hb hx h4 hc hreg) hm hu).1 hn (hout .load)
    · exact (traps_of_stopsAt rfl (indexedStore_stopsAt hb hx h4 hc hreg (readFgrWord_skips r s)) hm hu).1 hn (hout .store)
    · exact (traps_of_stopsAt rfl (indexedStore_stopsAt hb hx h4 hc hreg (readFgrDouble_skips r s)) hm hu).1 hn
        (hout .store)

end Sys2Proof.Machine
end

section
/-! PROOFS. Reset, and the small statements: words of the examples, register 0. -/

namespace Sys2Proof.Machine

/-- Settles O2. -/
theorem specWordsDecode : Obligations.SpecWordsDecode := by
  unfold Obligations.SpecWordsDecode
  decide

/-- Settles O9. -/
theorem registerZero : Obligations.RegisterZero := fun s _ _ v =>
  ⟨gprVal_zero s, if_pos rfl, fun hr => setGpr_self s v hr, fun hq => setGpr_ne s v hq⟩

/-! ### The invariant right after reset -/

theorem resetOf_inv (p : Params) : (State.resetOf p).Inv where
  mem := rfl
  caches := ⟨rfl, rfl, rfl, rfl⟩
  sr := resetSr_within p
  cause := BitVec.zero_and
  fcr31 := BitVec.zero_and
  random := by
    show match p.mmu with
      | .tlb64 => 8 ≤ (Cp0.reset p).random.toNat
      | .tlb48 => (Cp0.reset p).wired.toNat ≤ 47 →
        (Cp0.reset p).wired.toNat ≤ (Cp0.reset p).random.toNat ∧ (Cp0.reset p).random.toNat ≤ 47
      | _ => True
    unfold Params.mmu Cp0.reset
    cases p.cpu <;> cases p.eVersion <;> simp [Cpu.isOrionTlb, Cpu.is4650, Cpu.hasEVersion, Cpu.is30xx]
  tlb48 e he := by
    obtain ⟨-, rfl⟩ := Vector.mem_replicate.1 (Vector.mem_toList_iff.1 he)
    exact ⟨by decide, by decide⟩
  timer hc := by
    have h41 : (p.cpu == .r3041) = true := beq_iff_eq.2 hc
    show (0#32).toNat < 0x1000000 ∧ (Cp0.reset p).compare.toNat < 0x1000000
    exact ⟨by decide, by simp [Cp0.reset, h41]⟩
  halted h := Bool.noConfusion h

/-- Settles O4. -/
theorem resetMeetsInvariant : Obligations.ResetMeetsInvariant := ⟨resetOf_inv _, resetOf_inv⟩

/-! ### What a reset gives -/

/-- The bits of SR that every reset gives (R109, R118, R1101, R1102). -/
structure GivenSr (p : Params) (sr : Word) : Prop where
  bev : bit sr 22 = true
  mode : p.cpu.is30xx = true → bit sr 1 = false ∧ bit sr 0 = false
  ts : p.cpu.is30xx = true → bit sr 21 = (p.mmu != .tlb64)
  erl : p.cpu.is30xx = false → bit sr 2 = true
  softReset : p.cpu.is30xx = false → bit sr 20 = false
  locks : p.cpu.is4650 = true → sr.extractLsb' 23 2 = 0#2

/-- What a reset writes to SR. -/
theorem givenSr_merge (p : Params) (old : Word) :
    GivenSr p (merge (if p.cpu.is30xx then 0x00600003#32 else if p.cpu.is4650 then 0x01D00004#32 else 0x00500004#32)
      old (resetSr p)) := by
  cases h30 : p.cpu.is30xx with
  | true =>
    have h4650 : p.cpu.is4650 = false := by
      revert h30
      cases p.cpu <;> simp [Cpu.is30xx, Cpu.is4650]
    have no {q : Prop} (h : p.cpu.is30xx = false) : q := Bool.noConfusion (h30.symm.trans h)
    have hreset : resetSr p = if p.mmu == .tlb64 then 0x00400000#32 else 0x00600000#32 := if_pos h30
    rw [if_pos rfl, hreset]
    refine ⟨?_, fun _ => ⟨?_, ?_⟩, fun _ => ?_, fun h => no h, fun h => no h,
      fun h => Bool.noConfusion (h4650.symm.trans h)⟩
    all_goals
      rw [bit_merge, if_pos (by decide)]
      cases p.mmu <;> rfl
  | false =>
    have no {q : Prop} (h : p.cpu.is30xx = true) : q := Bool.noConfusion (h30.symm.trans h)
    have hreset : resetSr p = 0x00400004#32 := if_neg (by simp [h30])
    rw [if_neg (by simp), hreset]
    have hbit : ∀ i : Nat, i = 2 ∨ i = 20 ∨ i = 22 →
        bit (merge (if p.cpu.is4650 then 0x01D00004#32 else 0x00500004#32) old 0x00400004#32) i = bit 0x00400004#32 i := by
      intro i hi
      rw [bit_merge, if_pos]
      rcases hi with rfl | rfl | rfl <;> cases p.cpu.is4650 <;> rfl
    refine ⟨hbit 22 (by decide), fun h => no h, fun h => no h, fun _ => hbit 2 (by decide), fun _ => hbit 20 (by decide),
      fun h => ?_⟩
    · rw [h, if_pos rfl]
      refine BitVec.eq_of_getLsbD_eq fun i hi => ?_
      rw [BitVec.getLsbD_extractLsb', decide_eq_true hi, Bool.true_and]
      refine (bit_merge 0x01D00004#32 old 0x00400004#32 (23 + i)).trans ?_
      obtain rfl | rfl : i = 0 ∨ i = 1 := by omega
      · rfl
      · rfl

/-- With the registers besides SR, that is what the spec gives after reset. -/
theorem givenAfterReset_of {s : State} (h : GivenSr s.par s.cp0.sr)
    (h64 : s.par.mmu = .tlb64 → s.cp0.random = 63#6)
    (horion : s.par.cpu.isOrionTlb = true → s.cp0.random = 47#6 ∧ s.cp0.wired = 0)
    (h4650 : s.par.cpu.is4650 = true → s.cp0.cAlg = 0x22233333#32 ∧ bit s.cp0.iWatch 0 = false ∧
      s.cp0.dWatch.extractLsb' 1 2 = 0#2)
    (h3071 : s.par.cpu.is3071 = true → s.cp0.config.extractLsb' 26 3 = 3#3 ∧ bit s.cp0.config 31 = false)
    (h3041 : s.par.cpu = .r3041 → s.cp0.compare = 0x00FFFFFF#32) : s.GivenAfterReset := by
  refine ⟨h.bev, ?_, ?_, fun h30 => ⟨h.ts h30, h64⟩, fun h30 => ⟨h.erl h30, h.softReset h30⟩, horion, fun hc => ?_, h3071, h3041⟩
  · unfold State.mode?
    cases h30 : s.par.cpu.is30xx with
    | true => rw [if_pos rfl, (h.mode h30).1]; rfl
    | false =>
      have herl : s.erl = true := h.erl h30
      rw [if_neg (by simp), if_pos (by simp [herl])]
  · unfold State.interruptReady
    cases h30 : s.par.cpu.is30xx with
    | true => simp [(h.mode h30).2]
    | false =>
      have herl : s.erl = true := h.erl h30
      simp [herl]
  · obtain ⟨hcalg, hiw, hdw⟩ := h4650 hc
    exact ⟨hcalg, hiw, hdw, h.locks hc⟩

theorem merge_self {n : Nat} (m x : BitVec n) : merge m x x = x := by
  refine eq_of_bits fun i _ => ?_
  rw [bit_merge, ite_self]

theorem resetOf_given (p : Params) : (State.resetOf p).GivenAfterReset := by
  have hsr := givenSr_merge p (resetSr p)
  rw [merge_self] at hsr
  refine givenAfterReset_of hsr (fun h => ?_) (fun h => ?_) 
    (fun _ => ⟨rfl, show bit (0#32) 0 = false from rfl, show (0#32).extractLsb' 1 2 = 0#2 by decide⟩) (fun h => ?_) (fun h => ?_)
  all_goals
    simp only [State.resetOf, Cp0.reset, Params.mmu] at h ⊢
    cases hc : p.cpu <;>
      simp_all [Cpu.isOrionTlb, Cpu.is4650, Cpu.hasEVersion, Cpu.is30xx, Cpu.is3071, resetConfig, bit] <;>
      (try cases p.dbRefill <;> simp)

theorem coldReset_srEq (s : State) : (coldReset s).cp0.sr =
    merge (if s.par.cpu.is30xx then 0x00600003#32 else if s.par.cpu.is4650 then 0x01D00004#32 else 0x00500004#32)
      s.cp0.sr (resetSr s.par) := by
  unfold coldReset
  cases s.par.cpu <;> rfl

theorem coldReset_given (s : State) : (coldReset s).GivenAfterReset := by
  have hsr : GivenSr (coldReset s).par (coldReset s).cp0.sr := by
    rw [coldReset_srEq]
    exact givenSr_merge s.par s.cp0.sr
  have hpar : (coldReset s).par = s.par := rfl
  refine givenAfterReset_of hsr (fun h => ?_) (fun h => ?_) (fun h => ?_) (fun h => ?_) (fun h => ?_)
  all_goals
    rw [hpar] at h
    unfold coldReset
    cases hc : s.par.cpu <;>
      simp_all [Params.mmu, Cpu.isOrionTlb, Cpu.is4650, Cpu.hasEVersion, Cpu.is30xx, Cpu.is3071, resetConfig, State.gotoWith,
        Cp0.reset, bit_setBit, extractLsb'_setField_same] <;>
      (try cases s.par.dbRefill <;> simp [bit])

/-- Where the address goes that a reset of a running machine met. -/
theorem coldReset_address (s : State) : (s.par.cpu.is30xx = true → (coldReset s).cp0.epc = s.pc) ∧
    (s.par.cpu.is30xx = false → (coldReset s).cp0.errorEpc = if s.inDelay then s.pcNorm (s.pc - 4) else s.pc) := by
  unfold coldReset
  cases s.par.cpu <;> exact ⟨fun h => by simp_all [Cpu.is30xx, State.gotoWith], fun h => by
    simp_all [Cpu.is30xx, Cpu.is4650, State.gotoWith, State.restartPc]⟩

theorem softReset_sr (s : State) : (softReset s).cp0.sr = s.cp0.sr ||| 0x00500004#32 := rfl

theorem bit_or_mask (w m : Word) (i : Nat) : bit (w ||| m) i = (bit w i || bit m i) := BitVec.getLsbD_or

theorem request_coldReset {s : State} (h : s.inp.coldReset = true) : s.request = some (coldReset s) := if_pos h

theorem step_of_request {s t : State} (h : s.request = some t) : step s = .next t.tickTime := by
  have hbefore : s.beforeFetch = some (.next t.tickTime) := by
    unfold State.beforeFetch
    rw [h]
  unfold step
  rw [hbefore]

/-- Settles O3. -/
theorem resetState : Obligations.ResetState := by
  refine ⟨fun p => ⟨rfl, rfl, resetOf_given p⟩, fun s => ?_, fun s => ?_,
    fun s => ⟨fun h => ?_, fun hcold h30 => ⟨fun h => ?_, fun h hn => ?_⟩⟩⟩
  · obtain ⟨hepc, herror⟩ := coldReset_address s
    exact ⟨rfl, rfl, rfl, coldReset_given s, hepc, herror, rfl, rfl, rfl, rfl, rfl, rfl, rfl, rfl, rfl, rfl⟩
  · have hbit : ∀ i : Nat, bit (softReset s).cp0.sr i = (bit s.cp0.sr i || bit 0x00500004#32 i) := bit_or_mask _ _
    have hset : ∀ i : Nat, bit 0x00500004#32 i = true → bit (softReset s).cp0.sr i = true := fun i hi => by
      rw [hbit, hi, Bool.or_true]
    refine ⟨rfl, rfl, rfl, hset 2 rfl, hset 22 rfl, hset 20 rfl, fun i hi => ?_, rfl, rfl,
      frame_cp0 (s := s) (t := softReset s) rfl rfl rfl rfl rfl rfl rfl rfl rfl rfl rfl rfl rfl rfl⟩
    have hclear : bit 0x00500004#32 i = false := by
      by_cases hlt : i < 32
      · exact (by decide : ∀ j < 32, j ∉ [2, 20, 22] → bit 0x00500004#32 j = false) i hlt hi
      · exact BitVec.getLsbD_of_ge _ _ (by omega)
    rw [hbit, hclear, Bool.or_false]
  · exact step_of_request (request_coldReset h)
  · refine step_of_request ?_
    unfold State.request
    rw [if_neg (by simp [hcold]), if_neg (by simp [h30]), if_pos h]
  · refine step_of_request ?_
    unfold State.request
    rw [if_neg (by simp [hcold]), if_neg (by simp [h30]), if_neg (by simp [h]), if_pos hn]

end Sys2Proof.Machine
end

section
/-! PROOFS. One step: what time does, and the fetch and run of the instruction at pc. -/

namespace Sys2Proof.Machine

/-! ### Ticks of Count -/

/-- The state with another Count and timer request: all that ticks of Count change. -/
def State.withCount (s : State) (c : Word) (irq : Bool) : State :=
  { s with cp0 := { s.cp0 with count := c }, timerIrq := irq }

/-- The state with another Random: all that the rest of time changes. -/
def State.withRandom (s : State) (r : BitVec 6) (k : Nat) : State :=
  { s with cp0 := { s.cp0 with random := r }, freeCtr := k }

theorem tickCount_eq (s : State) : s.tickCount = s.withCount s.tickCount.cp0.count s.tickCount.timerIrq := by
  unfold State.tickCount
  split
  · split <;> rfl
  · split <;> rfl

theorem tickCounts_eq (n : Nat) (s : State) :
    s.tickCounts n = s.withCount (s.tickCounts n).cp0.count (s.tickCounts n).timerIrq := by
  induction n generalizing s with
  | zero => rfl
  | succ n ih =>
    refine (ih s.tickCount).trans ?_
    conv_lhs => rw [tickCount_eq s]
    conv_rhs => rw [State.tickCounts, tickCount_eq s]
    rfl

theorem tickCount_withRandom (s : State) (r : BitVec 6) (k : Nat) :
    (s.withRandom r k).tickCount = s.tickCount.withRandom r k := by
  unfold State.tickCount
  show (if s.par.cpu == .r3041 then if s.cp0.count = s.cp0.compare then _ else _ else
    if s.par.cpu.is30xx then _ else _) = _
  split
  · split <;> rfl
  · split <;> rfl

theorem tickCounts_withRandom (n : Nat) (s : State) (r : BitVec 6) (k : Nat) :
    (s.withRandom r k).tickCounts n = (s.tickCounts n).withRandom r k := by
  induction n generalizing s with
  | zero => rfl
  | succ n ih =>
    rw [State.tickCounts, tickCount_withRandom, ih]
    rfl

theorem tickRandom_eq (s : State) : s.tickRandom = s.withRandom s.tickRandom.cp0.random s.tickRandom.freeCtr := by
  unfold State.tickRandom
  split
  · split
    · rfl
    · split <;> rfl
  · rfl
  · rfl

/-- Time is the ticks of Count, and Random. -/
theorem tick_eq (s : State) : s.tick = s.tickTime.withRandom s.tickRandom.cp0.random s.tickRandom.freeCtr := by
  unfold State.tick State.tickTime
  conv_lhs => rw [tickRandom_eq]
  exact tickCounts_withRandom _ _ _ _

theorem tick_count (s : State) : s.tick.cp0.count = s.tickTime.cp0.count ∧ s.tick.timerIrq = s.tickTime.timerIrq ∧
    s.tick.cp0.random = s.tickRandom.cp0.random := by
  rw [tick_eq]
  exact ⟨rfl, rfl, rfl⟩

/-! ### Count -/

theorem tickCount_r4xxx {s : State} (h : s.par.cpu.is30xx = false) :
    s.tickCount = s.withCount (s.cp0.count + 1) (s.timerIrq || s.cp0.count + 1 == s.cp0.compare) := by
  have h41 : (s.par.cpu == .r3041) = false := by
    cases hc : s.par.cpu <;> simp_all [Cpu.is30xx]
  unfold State.tickCount
  rw [if_neg (by simp [h41]), if_neg (by simp [h])]
  rfl

theorem tickCounts_r4xxx (n : Nat) {s : State} (h : s.par.cpu.is30xx = false) :
    (s.tickCounts n).cp0.count = s.cp0.count + BitVec.ofNat 32 n ∧
      ((s.tickCounts n).timerIrq = true ↔
        s.timerIrq = true ∨ ∃ j, 1 ≤ j ∧ j ≤ n ∧ s.cp0.count + BitVec.ofNat 32 j = s.cp0.compare) := by
  induction n generalizing s with
  | zero => exact ⟨by simp [State.tickCounts], ⟨Or.inl, fun hor => hor.resolve_right fun ⟨j, h1, h0, _⟩ => by omega⟩⟩
  | succ n ih =>
    obtain ⟨hcount, hirq⟩ := ih (s := s.tickCount) (by rw [tickCount_r4xxx h]; exact h)
    have hstep : ∀ j, s.cp0.count + 1 + BitVec.ofNat 32 j = s.cp0.count + BitVec.ofNat 32 (j + 1) := fun j => by
      rw [BitVec.ofNat_add, BitVec.add_assoc, BitVec.add_comm (BitVec.ofNat 32 j)]
      rfl
    have hc : s.tickCount.cp0.count = s.cp0.count + 1 := by rw [tickCount_r4xxx h]; rfl
    have hcmp : s.tickCount.cp0.compare = s.cp0.compare := by rw [tickCount_r4xxx h]; rfl
    have ht : s.tickCount.timerIrq = (s.timerIrq || s.cp0.count + 1 == s.cp0.compare) := by rw [tickCount_r4xxx h]; rfl
    rw [hc, hstep] at hcount
    refine ⟨hcount, hirq.trans ?_⟩
    rw [ht, hc, hcmp, Bool.or_eq_true, beq_iff_eq, or_assoc]
    refine or_congr_right ⟨?_, ?_⟩
    · rintro (h1 | ⟨j, h1, hn, hj⟩)
      · exact ⟨1, by omega, by omega, h1⟩
      · exact ⟨j + 1, by omega, by omega, (hstep j).symm.trans hj⟩
    · rintro ⟨j, h1, hn, hj⟩
      obtain rfl | hlt := Nat.eq_or_lt_of_le h1
      · exact Or.inl hj
      · refine Or.inr ⟨j - 1, by omega, by omega, (hstep (j - 1)).trans ?_⟩
        rwa [Nat.sub_add_cancel h1]

theorem tickCounts_iterate (n : Nat) (s : State) : s.tickCounts n = State.tickCount^[n] s := by
  induction n generalizing s with
  | zero => rfl
  | succ n ih => exact ih s.tickCount

theorem tickCounts_none (n : Nat) {s : State} (h30 : s.par.cpu.is30xx = true) (h41 : s.par.cpu ≠ .r3041) :
    s.tickCounts n = s := by
  induction n with
  | zero => rfl
  | succ n ih =>
    have hone : s.tickCount = s := by
      unfold State.tickCount
      rw [if_neg (by simpa using h41), if_pos h30]
    rw [State.tickCounts, hone, ih]

theorem tickCount_r3041 {s : State} (h : s.par.cpu = .r3041) :
    (s.cp0.count = s.cp0.compare → s.tickCount.cp0.count = 0 ∧ s.tickCount.timerIrq = true) ∧
    (s.cp0.count ≠ s.cp0.compare → s.tickCount.cp0.count = (s.cp0.count + 1) &&& 0x00FFFFFF#32 ∧
      s.tickCount.timerIrq = (s.timerIrq && bit s.cp0.busCtrl 12)) := by
  unfold State.tickCount
  rw [if_pos (beq_iff_eq.2 h)]
  refine ⟨fun heq => ?_, fun hne => ?_⟩
  · rw [if_pos heq]; exact ⟨rfl, rfl⟩
  · rw [if_neg hne]; exact ⟨rfl, rfl⟩

/-! ### Random -/

theorem tickRandom_tlb48 {s : State} (h : s.par.mmu = .tlb48) :
    (s.haz.uncounted = true → s.tickRandom.cp0.random = s.cp0.random) ∧
    (s.haz.uncounted = false → s.cp0.wired.toNat ≤ s.cp0.random.toNat → s.cp0.random.toNat ≤ 47 →
      s.tickRandom.cp0.random = if s.cp0.random = s.cp0.wired then 47#6 else s.cp0.random - 1) := by
  unfold State.tickRandom
  rw [h]
  refine ⟨fun hu => ?_, fun hu hlo hhi => ?_⟩
  · dsimp only
    rw [if_pos hu]
  · dsimp only
    rw [if_neg (by simp [hu]), if_neg (by omega)]
    have hiff : (s.cp0.random.toNat ≤ s.cp0.wired.toNat ∨ 47 < s.cp0.random.toNat) ↔ s.cp0.random = s.cp0.wired :=
      ⟨fun hor => BitVec.eq_of_toNat_eq (by omega), fun heq => Or.inl (by rw [heq])⟩
    exact if_congr hiff rfl rfl

theorem tickRandom_tlb64 {s : State} (h : s.par.mmu = .tlb64) : 8 ≤ s.tickRandom.cp0.random.toNat := by
  unfold State.tickRandom
  rw [h]
  dsimp only
  rw [BitVec.toNat_ofNat, Nat.mod_eq_of_lt (by omega)]
  omega

theorem tickRandom_none {s : State} (h48 : s.par.mmu ≠ .tlb48) (h64 : s.par.mmu ≠ .tlb64) : s.tickRandom = s := by
  unfold State.tickRandom
  split
  · rename_i h; exact absurd h h48
  · rename_i h; exact absurd h h64
  · rfl

/-! ### The fetch -/

/-- What a cache parity error that is noted, and the end of a standstill, leave alone. -/
theorem ready_kept (s : State) : s.ready.pc = s.pc ∧ s.ready.par = s.par ∧ s.ready.mem = s.mem ∧
    s.ready.inp.busError = s.inp.busError ∧ s.ready.cp0.iWatch = s.cp0.iWatch := by
  unfold State.ready State.noteCacheError
  split
  · exact ⟨rfl, rfl, rfl, rfl, rfl⟩
  · split
    · exact ⟨rfl, rfl, rfl, rfl, rfl⟩
    · split <;> exact ⟨rfl, rfl, rfl, rfl, rfl⟩

/-- The word of a fetch that translates, that nothing watches, and that the board answers. -/
theorem fetchWord_ok {s : State} {pa : Nat} {cca : BitVec 3} (ht : translate s.pc .fetch 4 s = .ok ((pa, cca), s))
    (hw : s.iWatchHit s.pc = false) (hc : s.cacheErrorDue false = none)
    (hb : s.busErrorAt (byteAddrs id pa 4) = false) :
    fetchWord s = .ok (lo32 (ofBytes s.par.bigEndianMem (memReadList s.mem (byteAddrs id pa 4))), s) := by
  obtain ⟨seg, hloc, hres⟩ := translate_split ht
  have hwatch : watchFetch s.pc s = .ok ((), s) := if_neg (by simp [hw])
  exact (look_bind _ _ _).trans ((bind_ok hloc).trans ((bind_ok hwatch).trans ((look_bind _ _ _).trans
    ((bind_ok (cacheCheck_ok _ _ hc)).trans ((bind_ok hres).trans ((look_bind _ _ _).trans
      (bind_ok (raiseIf_ok _ _ hb))))))))

theorem runNext_of_fetch {s t : State} {w : Word} {i : Instr} (hf : fetchWord s = .ok (w, t))
    (hd : decode s.par.cpu.isa w = .ok i) : runNext s = exec i t := by
  have hfetch : s.fetch = .ok (.ok i, t) := by
    unfold State.fetch
    rw [hf]
    dsimp only
    rw [hd]
  unfold runNext
  rw [hfetch]

theorem step_of_beforeFetch_none {s : State} (h : s.beforeFetch = none) : step s = afterTick (runNext s.ready) := by
  unfold step
  rw [h]

/-- Settles O6. -/
theorem stepRunsDecodedInstruction : Obligations.StepRunsDecodedInstruction := by
  refine ⟨fun s => ?_, fun s pa cca i hbefore htrans hwatch hcache hbus hdecode => ?_⟩
  · obtain ⟨hcount, hirq, hrandom⟩ := tick_count s
    refine ⟨?_, ?_, fun _ => rfl, fun h => ?_, fun h => ?_, fun h30 h41 => ?_, fun h => ?_, fun h => ?_, fun h48 h64 => ?_⟩
    · rw [hcount, hirq, hrandom, tick_eq]
      conv_lhs => rw [State.tickTime, tickCounts_eq]
      rfl
    · rw [hcount, hirq]
      exact tickCounts_eq _ s
    · rw [hcount, hirq]
      exact tickCounts_r4xxx _ h
    · obtain ⟨hwrap, hup⟩ := tickCount_r3041 h
      exact ⟨tickCounts_iterate _ s, hwrap, hup⟩
    · rw [hcount, hirq, State.tickTime, tickCounts_none _ h30 h41]
      exact ⟨rfl, rfl⟩
    · rw [hrandom]
      exact tickRandom_tlb48 h
    · rw [hrandom]
      exact tickRandom_tlb64 h
    · rw [hrandom, tickRandom_none h48 h64]
  · obtain ⟨hpc, hpar, hmem, hberr, hiw⟩ := ready_kept s
    have hw : s.ready.iWatchHit s.ready.pc = false := by
      unfold State.iWatchHit
      rw [hpc, hpar, hiw]
      exact hwatch
    have hb : s.ready.busErrorAt (byteAddrs id pa 4) = false := by
      unfold State.busErrorAt
      rw [hberr]
      exact hbus
    have hf := fetchWord_ok (s := s.ready) (by rw [hpc]; exact htrans) hw hcache hb
    rw [step_of_beforeFetch_none hbefore, runNext_of_fetch hf]
    rw [hpar, hmem]
    exact hdecode

end Sys2Proof.Machine
end

section
/-! PROOFS. The words the tables call reserved. -/

namespace Sys2Proof.Machine

/-- The word decodes to no instruction, or to one that the member lacks. -/
theorem runWord_reserved {s : State} {w : Word} (h : decode s.par.cpu.isa w = .bad .reserved) :
    runWord s w = .next (takeException .reservedInstruction s) := by
  unfold runWord
  rw [h]
  rfl

theorem runWord_ok {s : State} {w : Word} {i : Instr} {r : Result} (h : decode s.par.cpu.isa w = .ok i)
    (hi : exec i s = r) : runWord s w = r := by
  unfold runWord
  rw [h]
  exact hi

section Fields
variable {w : Word} {k : Nat}

theorem fOp_of_toNat (h : (w.extractLsb' 26 6).toNat = k) : fOp w = BitVec.ofNat 6 k := by
  rw [← h, BitVec.ofNat_toNat, BitVec.setWidth_eq]
  rfl

theorem fFn_of_toNat (h : (w.extractLsb' 0 6).toNat = k) : fFn w = BitVec.ofNat 6 k := by
  rw [← h, BitVec.ofNat_toNat, BitVec.setWidth_eq]
  rfl

theorem fRt_of_toNat (h : (w.extractLsb' 16 5).toNat = k) : fRt w = BitVec.ofNat 5 k := by
  rw [← h, BitVec.ofNat_toNat, BitVec.setWidth_eq]
  rfl

end Fields

section Reserved
variable {s : State} {w : Word}

/-- Functions of SPECIAL2 but for those of the R4650 are reserved, and those are on every other member. -/
theorem runWord_special2 (hop : fOp w = 0x1c#6)
    (h : s.par.cpu.is4650 = false ∨ (w.extractLsb' 0 6).toNat ∉ [0, 1, 2]) :
    runWord s w = .next (takeException .reservedInstruction s) := by
  have hd := decode_special2 s.par.cpu.isa hop
  unfold decodeSpecial2 at hd
  have lacks (hn : (w.extractLsb' 0 6).toNat ∈ [0, 1, 2]) : require4650 s = .error (.exc .reservedInstruction s) :=
    require4650_error (h.resolve_right (not_not_intro hn))
  have hfn {k : Nat} (hk : k < 64) (e : fFn w = BitVec.ofNat 6 k) : (w.extractLsb' 0 6).toNat = k := by
    rw [show w.extractLsb' 0 6 = BitVec.ofNat 6 k from e, BitVec.toNat_ofNat, Nat.mod_eq_of_lt hk]
  split at hd
  · rename_i e
    exact runWord_ok hd (runSeq_exc (bind_error (lacks (by rw [hfn (k := 0) (by decide) e]; decide))))
  · rename_i e
    exact runWord_ok hd (runSeq_exc (bind_error (lacks (by rw [hfn (k := 1) (by decide) e]; decide))))
  · rename_i e
    exact runWord_ok hd (runSeq_exc (bind_error (lacks (by rw [hfn (k := 2) (by decide) e]; decide))))
  · exact runWord_reserved hd

theorem runWord_special_star (hop : fOp w = 0#6)
    (h : (w.extractLsb' 0 6).toNat ∈ [0x05, 0x0E, 0x15, 0x28, 0x29, 0x35, 0x37, 0x39, 0x3D]) :
    runWord s w = .next (takeException .reservedInstruction s) := by
  refine runWord_reserved ((decode_special _ hop).trans ?_)
  unfold decodeSpecial
  simp only [List.mem_cons, List.not_mem_nil, or_false] at h
  rcases h with h | h | h | h | h | h | h | h | h <;> rw [fFn_of_toNat h] <;> rfl

theorem runWord_regimm_star (hop : fOp w = 1#6)
    (h : (w.extractLsb' 16 5).toNat ∈ [4, 5, 6, 7, 13, 15, 20, 21, 22, 23, 24, 25, 26, 27, 28, 29, 30, 31]) :
    runWord s w = .next (takeException .reservedInstruction s) := by
  refine runWord_reserved ((decode_regimm _ hop).trans ?_)
  unfold decodeRegimm
  simp only [List.mem_cons, List.not_mem_nil, or_false] at h
  rcases h with h | h | h | h | h | h | h | h | h | h | h | h | h | h | h | h | h | h <;> rw [fRt_of_toNat h] <;> rfl

/-- Branch-likely by opcode: of MIPS II. -/
theorem runWord_op_likely (hl : ¬s.HasIsa .mips2) (h : (w.extractLsb' 26 6).toNat ∈ [0x14, 0x15, 0x16, 0x17]) :
    runWord s w = .next (takeException .reservedInstruction s) := by
  simp only [List.mem_cons, List.not_mem_nil, or_false] at h
  rcases h with h | h | h | h
  all_goals
    refine runWord_ok (by unfold decode; rw [fOp_of_toNat h]; exact rfl) ?_
    exact runOp_exc (bind_error (requireIsa_error hl))

/-- The other opcodes of MIPS II: linked and conditional, doublewords of coprocessors. -/
theorem runWord_op_mips2 (hl : ¬s.HasIsa .mips2) (h : (w.extractLsb' 26 6).toNat ∈ [0x30, 0x35, 0x36, 0x38, 0x3D, 0x3E]) :
    runWord s w = .next (takeException .reservedInstruction s) := by
  simp only [List.mem_cons, List.not_mem_nil, or_false] at h
  rcases h with h | h | h | h | h | h
  all_goals
    refine runWord_ok (by unfold decode; rw [fOp_of_toNat h]; exact rfl) ?_
    exact runSeq_exc (bind_error (requireIsa_error hl))

/-- SYNC and the traps of two registers. -/
theorem runWord_special_mips2 (hop : fOp w = 0#6) (hl : ¬s.HasIsa .mips2)
    (h : (w.extractLsb' 0 6).toNat ∈ [0x0F, 0x30, 0x31, 0x32, 0x33, 0x34, 0x36]) :
    runWord s w = .next (takeException .reservedInstruction s) := by
  have hd := decode_special s.par.cpu.isa hop
  unfold decodeSpecial at hd
  simp only [List.mem_cons, List.not_mem_nil, or_false] at h
  rcases h with h | h
  · rw [fFn_of_toNat h] at hd
    exact runWord_ok hd (runSeq_exc (requireIsa_error hl))
  · rcases h with h | h | h | h | h | h
    all_goals
      rw [fFn_of_toNat h] at hd
      exact runWord_ok hd (runSeq_exc (bind_error (requireIsa_error hl)))

/-- The branch-likely forms of REGIMM, and the traps of an immediate. -/
theorem runWord_regimm_mips2 (hop : fOp w = 1#6) (hl : ¬s.HasIsa .mips2)
    (h : (w.extractLsb' 16 5).toNat ∈ [2, 3, 8, 9, 10, 11, 12, 14, 18, 19]) :
    runWord s w = .next (takeException .reservedInstruction s) := by
  have hd := decode_regimm s.par.cpu.isa hop
  unfold decodeRegimm at hd
  have hgroup : (w.extractLsb' 16 5).toNat ∈ [2, 3, 18, 19] ∨ (w.extractLsb' 16 5).toNat ∈ [8, 9, 10, 11, 12, 14] := by
    simp only [List.mem_cons, List.not_mem_nil, or_false] at h ⊢
    omega
  simp only [List.mem_cons, List.not_mem_nil, or_false] at hgroup
  rcases hgroup with h | h
  · rcases h with h | h | h | h
    all_goals
      rw [fRt_of_toNat h] at hd
      exact runWord_ok hd (runOp_exc (bind_error (requireIsa_error hl)))
  · rcases h with h | h | h | h | h | h
    all_goals
      rw [fRt_of_toNat h] at hd
      exact runWord_ok hd (runSeq_exc (bind_error (requireIsa_error hl)))

/-- The doubleword instructions by opcode, and CACHE. -/
theorem runWord_op_mips3 (hl : ¬s.HasIsa .mips3)
    (h : (w.extractLsb' 26 6).toNat ∈ [0x18, 0x19, 0x1A, 0x1B, 0x27, 0x2C, 0x2D, 0x2F, 0x34, 0x37, 0x3C, 0x3F]) :
    runWord s w = .next (takeException .reservedInstruction s) := by
  have hgroup : (w.extractLsb' 26 6).toNat = 0x2F ∨
      (w.extractLsb' 26 6).toNat ∈ [0x18, 0x19, 0x1A, 0x1B, 0x27, 0x2C, 0x2D, 0x34, 0x37, 0x3C, 0x3F] := by
    simp only [List.mem_cons, List.not_mem_nil, or_false] at h ⊢
    omega
  simp only [List.mem_cons, List.not_mem_nil, or_false] at hgroup
  rcases hgroup with h | h
  · refine runWord_ok (by unfold decode; rw [fOp_of_toNat h]; exact rfl) ?_
    exact runSeq_exc (bind_error (requireIsa_error hl))
  · rcases h with h | h | h | h | h | h | h | h | h | h | h
    all_goals
      refine runWord_ok (by unfold decode; rw [fOp_of_toNat h]; exact rfl) ?_
      exact runSeq_exc (bind_error (require64_error (Or.inl hl)))

/-- The doubleword functions of SPECIAL. -/
theorem runWord_special_mips3 (hop : fOp w = 0#6) (hl : ¬s.HasIsa .mips3)
    (h : (w.extractLsb' 0 6).toNat ∈ [0x14, 0x16, 0x17, 0x1C, 0x1D, 0x1E, 0x1F, 0x2C, 0x2D, 0x2E, 0x2F, 0x38, 0x3A, 0x3B,
      0x3C, 0x3E, 0x3F]) : runWord s w = .next (takeException .reservedInstruction s) := by
  have hd := decode_special s.par.cpu.isa hop
  unfold decodeSpecial at hd
  simp only [List.mem_cons, List.not_mem_nil, or_false] at h
  rcases h with h | h | h | h | h | h | h | h | h | h | h | h | h | h | h | h | h
  all_goals
    rw [fFn_of_toNat h] at hd
    exact runWord_ok hd (runSeq_exc (bind_error (require64_error (Or.inl hl))))

/-- The conditional moves of SPECIAL. -/
theorem runWord_special_mips4 (hop : fOp w = 0#6) (hl : ¬s.HasIsa .mips4)
    (h : (w.extractLsb' 0 6).toNat ∈ [0x01, 0x0A, 0x0B]) :
    runWord s w = .next (takeException .reservedInstruction s) := by
  have hd := decode_special s.par.cpu.isa hop
  unfold decodeSpecial at hd
  have stops := requireIsa_error hl
  simp only [List.mem_cons, List.not_mem_nil, or_false] at h
  rcases h with h | h | h
  · rw [fFn_of_toNat h] at hd
    have hmovc : decode s.par.cpu.isa w =
        if fTf w = 1#1 then .ok (.movt (fRs w) (fCc w) (fRd w)) else .ok (.movf (fRs w) (fCc w) (fRd w)) := hd
    by_cases hf : fTf w = 1#1
    · exact runWord_ok (hmovc.trans (if_pos hf)) (runSeq_exc (bind_error stops))
    · exact runWord_ok (hmovc.trans (if_neg hf)) (runSeq_exc (bind_error stops))
  · rw [fFn_of_toNat h] at hd
    exact runWord_ok hd (runSeq_exc (bind_error stops))
  · rw [fFn_of_toNat h] at hd
    exact runWord_ok hd (runSeq_exc (bind_error stops))

/-- The opcodes of coprocessor 3 from MIPS III on. -/
theorem runWord_cop3_mips3 (hl : s.par.cpu.isa.rank = 3) (h : (w.extractLsb' 26 6).toNat ∈ [0x13, 0x33]) :
    runWord s w = .next (takeException .reservedInstruction s) := by
  have hisa : s.par.cpu.isa = .mips3 := by
    revert hl
    cases s.par.cpu.isa <;> simp [Isa.rank]
  simp only [List.mem_cons, List.not_mem_nil, or_false] at h
  rcases h with h | h
  all_goals exact runWord_reserved (by rw [hisa]; unfold decode; rw [fOp_of_toNat h]; rfl)

theorem runWord_swc3 (hl : 3 ≤ s.par.cpu.isa.rank) (h : (w.extractLsb' 26 6).toNat = 0x3B) :
    runWord s w = .next (takeException .reservedInstruction s) := by
  have hgone : requireCop 3#2 s = .error (.exc .reservedInstruction s) :=
    (look_bind _ _ _).trans (bind_error (raiseIf_error _ _ (by simp [hl])))
  refine runWord_ok (by unfold decode; rw [fOp_of_toNat h]; exact rfl) ?_
  exact runSeq_exc (bind_error hgone)

end Reserved

/-- Settles O7. -/
theorem reservedWordTraps : Obligations.ReservedWordTraps := by
  intro s w op fn rt lvl h
  have lacks {l : Isa} (hl : lvl < l.rank) : ¬s.HasIsa l := Nat.not_le.2 hl
  rcases h with h | ⟨hop, h⟩ | ⟨hop, h⟩ | ⟨hop, h⟩ | ⟨hl, h⟩ | ⟨hl, h⟩ | ⟨hl, hop, h⟩ | ⟨hl, h⟩ | ⟨hl, h⟩
  · simp only [List.mem_cons, List.not_mem_nil, or_false] at h
    rcases h with h | h | h
    all_goals exact runWord_reserved (by unfold decode; rw [fOp_of_toNat h]; rfl)
  · exact runWord_special2 (fOp_of_toNat hop) h
  · exact runWord_special_star (fOp_of_toNat hop) h
  · exact runWord_regimm_star (fOp_of_toNat hop) h
  · have h2 : ¬s.HasIsa .mips2 := lacks hl
    rcases h with h | ⟨hop, h⟩ | ⟨hop, h⟩
    · rcases List.mem_append.1 (show op ∈ [0x14, 0x15, 0x16, 0x17] ++ [0x30, 0x35, 0x36, 0x38, 0x3D, 0x3E] from h) with h | h
      · exact runWord_op_likely h2 h
      · exact runWord_op_mips2 h2 h
    · exact runWord_special_mips2 (fOp_of_toNat hop) h2 h
    · exact runWord_regimm_mips2 (fOp_of_toNat hop) h2 h
  · have h3 : ¬s.HasIsa .mips3 := lacks hl
    rcases h with h | ⟨hop, h⟩
    · exact runWord_op_mips3 h3 h
    · exact runWord_special_mips3 (fOp_of_toNat hop) h3 h
  · exact runWord_special_mips4 (fOp_of_toNat hop) (lacks hl) h
  · exact runWord_cop3_mips3 hl h
  · exact runWord_swc3 hl h

end Sys2Proof.Machine
end

section
/-! PROOFS. The registers of coprocessor 0: their numbers, what a read shows, what a write leaves. -/

namespace Sys2Proof.Machine

/-! ### What a write leaves -/

theorem takes_merge {n : Nat} (mask old v : BitVec n) : Takes mask old v (merge mask old v) := fun i => bit_merge mask old v i

/-- The mask of Config stops the R3071 and the R3081 where Halt is writable and written. -/
theorem halted_setCp0_config (s : State) (v : DWord) :
    (s.setCp0 .config v).halted = (s.par.cpu.is3071 && !bit s.cp0.config 31 && bit (lo32 v) 25) := by
  show (s.par.cpu.is3071 && bit (merge s.configMask 0#32 (lo32 v)) 25) = _
  rw [bit_merge, Bool.and_assoc]
  unfold State.configMask
  cases s.par.cpu
  case r3071 => cases bit s.cp0.config 31 <;> rfl
  case r3081 => cases bit s.cp0.config 31 <;> rfl
  all_goals exact (Bool.false_and _).trans (Bool.false_and _).symm

theorem extractLsb'_lo32_low (v : DWord) : (lo32 v).extractLsb' 0 6 = v.extractLsb' 0 6 := by
  refine BitVec.eq_of_getLsbD_eq fun i hi => ?_
  simp [lo32, hi]
  omega

theorem setCp0_count_irq (s : State) (v : DWord) :
    (s.setCp0 .count v).timerIrq = (s.timerIrq || (!s.par.cpu.is30xx && lo32 v == s.cp0.compare)) := rfl

/-- Settles O37. -/
theorem cp0WriteRules : Obligations.Cp0WriteRules := by
  intro s v c w cpu
  refine ⟨⟨rfl, rfl, rfl, rfl⟩, ⟨merge (srMask s.par) c.sr w, takes_merge _ _ _, rfl⟩, takes_merge _ _ _, ?_,
    takes_merge _ _ _, takes_merge _ _ _, takes_merge _ _ _, takes_merge _ _ _, takes_merge _ _ _, takes_merge _ _ _,
    takes_merge _ _ _, takes_merge _ _ _, ⟨rfl, rfl, rfl, rfl, rfl, rfl, rfl, rfl⟩,
    ⟨halted_setCp0_config s v, takes_merge _ _ _⟩, ⟨rfl, rfl, rfl, rfl, rfl, rfl⟩, ⟨rfl, extractLsb'_lo32_low v⟩,
    ⟨rfl, fun h => ?_, fun h => ?_, fun h => ⟨?_, ?_⟩, fun h30 heq => ?_, fun h => ?_⟩, rfl, rfl⟩
  · have hmask : s.configMask = match s.par.cpu with
      | .r3041 => if bit c.config 31 then 0#32 else 0xA0080000#32
      | .r3071 => if bit c.config 31 then 0#32 else 0xE3800000#32
      | .r3081 => if bit c.config 31 then 0#32 else 0xFF800000#32
      | .r4600 | .r4700 | .r5000 => 7#32
      | .r3051 | .r3052 | .r36100 | .r4650 | .r4640 => 0#32 := by
      unfold State.configMask
      cases s.par.cpu <;> rfl
    show Takes _ c.config w (merge s.configMask c.config w)
    rw [hmask]
    exact takes_merge _ _ _
  · exact if_neg (by simpa using h)
  · exact if_neg (by simpa using h)
  · exact if_pos (by simpa using h)
  · exact if_pos (by simpa using h)
  · rw [setCp0_count_irq, show s.par.cpu.is30xx = false from h30, show lo32 v = s.cp0.compare from heq]
    simp
  · rw [setCp0_count_irq]
    rcases h with h | h
    · rw [show s.par.cpu.is30xx = true from h]
      simp
    · rw [beq_false_of_ne (show lo32 v ≠ s.cp0.compare from h)]
      simp

/-! ### Which number names which register -/

theorem lookup_eq_some_iff {l : List (RegNum × Cp0Name)} (h : (l.map Prod.fst).Nodup) (n : RegNum) (r : Cp0Name) :
    l.lookup n = some r ↔ (n, r) ∈ l := by
  induction l with
  | nil => simp
  | cons c l ih =>
    obtain ⟨m, q⟩ := c
    rw [List.map_cons, List.nodup_cons] at h
    rw [List.lookup_cons, List.mem_cons, Prod.mk.injEq]
    by_cases hn : n = m
    · subst hn
      have hout : (n, r) ∉ l := fun hm => h.1 (List.mem_map.2 ⟨_, hm, rfl⟩)
      simp [hout, eq_comm]
    · rw [beq_false_of_ne hn]
      simp [hn, ih h.2]

/-- The number of a register depends on the member and on whether it is an E version. -/
def namingParams (c : Cpu) (e : Bool) : Params := { Params.default with cpu := c, eVersion := e }

theorem cp0NameOf_lookup (c : Cpu) (e : Bool) (n : RegNum) :
    cp0NameOf (namingParams c e) n = (cp0Table (namingParams c e)).lookup n := by
  revert n
  cases c <;> cases e <;> decide

theorem cp0Table_nodup (c : Cpu) (e : Bool) : ((cp0Table (namingParams c e)).map Prod.fst).Nodup := by
  cases c <;> cases e <;> decide

theorem cp0NameOf_iff (p : Params) (n : RegNum) (r : Cp0Name) : cp0NameOf p n = some r ↔ (n, r) ∈ cp0Table p := by
  have hname : cp0NameOf p n = cp0NameOf (namingParams p.cpu p.eVersion) n := rfl
  have htable : cp0Table p = cp0Table (namingParams p.cpu p.eVersion) := rfl
  rw [hname, htable, cp0NameOf_lookup]
  exact lookup_eq_some_iff (cp0Table_nodup _ _) n r

/-! ### What a read shows -/

theorem cp0Reserved_eq (p : Params) (r : Cp0Name) : cp0Reserved p r = match r with
    | .prId => if p.cpu = .r3041 then 0#32 else 0xFFFF0000#32
    | .index => if p.cpu.is30xx then 0x7FFFC0FF#32 else 0#32
    | .random => if p.cpu.is30xx then 0xFFFFC0FF#32 else 0#32
    | .config => if p.cpu = .r3071 then 0x1C7FFFFF#32 else if p.cpu = .r3081 then 0x007FFFFF#32 else 0#32
    | .iWatch => 2#32
    | .dWatch => 1#32
    | _ => 0#32 := by
  unfold cp0Reserved
  cases r
  case prId => cases p.cpu <;> rfl
  case config => cases p.cpu <;> rfl
  all_goals rfl

/-- The live request lines: the pins, but for the line of the R3081's FPA and the timer's line of the R4xxx and R5000. -/
theorem bit_intLines (s : State) (j : Nat) (hj : j < 6) : bit s.intLines j =
    if s.par.cpu = .r3081 ∧ (s.cp0.config.extractLsb' 26 3).toNat = j then fpaRequest s.fpu.fcr31
    else bit s.inp.int j || (s.par.cpu.is30xx == false && j == 5 && s.timerIrq) := by
  unfold State.intLines
  cases hc : s.par.cpu
  case r3081 =>
    simp only [Cpu.is30xx, true_and]
    by_cases hn : (s.cp0.config.extractLsb' 26 3).toNat < 6
    · rw [if_pos hn, bit_setBit]
      by_cases he : (s.cp0.config.extractLsb' 26 3).toNat = j
      · rw [if_pos ⟨hj, he.symm⟩, if_pos he]
      · rw [if_neg (fun h => he h.2.symm), if_neg he]
        simp
    · rw [if_neg hn, if_neg (by omega)]
      simp
  case r3041 | r3051 | r3052 | r3071 | r36100 => simp [Cpu.is30xx]
  case r4600 | r4700 | r4650 | r4640 | r5000 =>
    simp only [Cpu.is30xx, bit_setBit, reduceCtorEq, false_and, if_false]
    by_cases h5 : j = 5
    · subst h5
      simp
    · simp [h5]

theorem bit_cause_read (s : State) (i : Nat) : bit (lo32 (s.cp0Val .cause)) i =
    if 10 ≤ i ∧ i < 16 then
      if s.par.cpu = .r3081 ∧ (s.cp0.config.extractLsb' 26 3).toNat = i - 10 then
        bit s.fpu.fcr31 17 || s.fpu.fcr31.extractLsb' 12 5 &&& s.fpu.fcr31.extractLsb' 7 5 != 0#5
      else bit s.inp.int (i - 10) || (s.par.cpu.is30xx == false && i == 15 && s.timerIrq)
    else bit s.cp0.cause i := by
  show bit (lo32 (sext s.causeVal)) i = _
  rw [lo32_sext, State.causeVal, bit_setField]
  by_cases hi : 10 ≤ i ∧ i < 16
  · have hline := bit_intLines s (i - 10) (by omega)
    have h15 : (i - 10 == 5) = (i == 15) := by
      rw [Bool.eq_iff_iff, beq_iff_eq, beq_iff_eq]
      omega
    rw [h15] at hline
    rw [if_pos (by omega), if_pos hi]
    exact hline
  · rw [if_neg (by omega), if_neg hi]

theorem prId_fields (a b : BitVec 8) : (((a ++ b).setWidth 64 : DWord)).extractLsb' 8 8 = a ∧
    ((a ++ b).setWidth 64 : DWord).extractLsb' 0 8 = b ∧ ((a ++ b).setWidth 64 : DWord).extractLsb' 16 48 = 0 := by
  have hbit : ∀ i, ((a ++ b).setWidth 64 : DWord).getLsbD i = if i < 8 then b.getLsbD i else a.getLsbD (i - 8) := by
    intro i
    rw [BitVec.getLsbD_setWidth, BitVec.getLsbD_append]
    by_cases h : i < 64
    · simp [h]
    · rw [if_neg (by omega), BitVec.getLsbD_of_ge a _ (by omega)]
      simp [h]
  refine ⟨?_, ?_, ?_⟩
  · refine BitVec.eq_of_getLsbD_eq fun i hi => ?_
    rw [BitVec.getLsbD_extractLsb', hbit, if_neg (by omega)]
    simp [hi]
  · refine BitVec.eq_of_getLsbD_eq fun i hi => ?_
    rw [BitVec.getLsbD_extractLsb', hbit, if_pos (by omega)]
    simp [hi]
  · refine BitVec.eq_of_getLsbD_eq fun i hi => ?_
    rw [BitVec.getLsbD_extractLsb', hbit, if_neg (by omega), BitVec.getLsbD_of_ge a _ (by omega)]
    simp

theorem random_field_30xx (r : BitVec 6) : (zext (r.setWidth 32 <<< 8)).extractLsb' 8 6 = r := by
  refine BitVec.eq_of_getLsbD_eq fun i hi => ?_
  rw [BitVec.getLsbD_extractLsb', zext, BitVec.getLsbD_setWidth, BitVec.getLsbD_shiftLeft, BitVec.getLsbD_setWidth]
  simp [hi, show 8 + i < 64 by omega, show 8 + i < 32 by omega, show i < 32 by omega]

/-! ### The moves -/

/-- The moves from coprocessor 0 write their register as a late move does. -/
theorem writeGprFromCp0_run (rt : RegNum) (x : DWord) (s : State) :
    ∃ l, writeGprFromCp0 rt x s = .ok ((), (s.putGpr rt x).delayGpr l true rt) := ⟨_, look_bind _ _ _⟩

/-- An instruction that reads, and writes a register with a delay. -/
theorem completes_moved {i : Instr} {x : Op Unit} {s : State} {r : RegNum} {v : DWord} {n : Nat} {l : Isa}
    (hi : exec i s = runSeq x s) (h : x s = .ok ((), ((s.skip n).putGpr r v).delayGpr l true r)) :
    Completes i s fun t => (r ≠ 0#5 → t.gprVal r = s.narrow v) ∧ Frame { gpr := [r] } s t ∧ Sequential s t := by
  refine ⟨_, hi.trans (runSeq_ok h), fun hr => ?_, ?_, sequential_advance (by simp)⟩
  · rw [gprVal_congr (t := (((s.skip n).putGpr r v).delayGpr l true r).advance) (s := (s.skip n).putGpr r v)
      (by simp) (by simp), putGpr_self _ _ hr]
    rfl
  · exact ((same_skip s n).frame _).trans ((frame_putGpr _ r v (by simp)).trans
      (((same_delayGpr _ _ _ _).trans (same_advance _)).frame _))

theorem readCp0Word_ok (s : State) (n : RegNum) : ∃ v, readCp0Word n s = .ok (v, s.skip 1) ∧
    ∀ r, cp0NameOf s.par n = some r → ∃ x, v = (merge (cp0Reserved s.par r) (lo32 (s.cp0Val r)) x).signExtend 64 := by
  unfold readCp0Word
  cases h : cp0NameOf s.par n with
  | none => exact ⟨_, rfl, nofun⟩
  | some r =>
    refine ⟨_, rfl, fun q hq => ?_⟩
    cases hq
    exact ⟨lo32 s.free, rfl⟩

theorem readCp0Dword_ok (s : State) (n : RegNum) : ∃ v j, readCp0Dword n s = .ok (v, s.skip j) ∧
    ∀ r, cp0NameOf s.par n = some r → cp0Wide s.par r = true → v = s.cp0Val r := by
  unfold readCp0Dword
  cases h : cp0NameOf s.par n with
  | none => exact ⟨_, 1, rfl, nofun⟩
  | some r =>
    by_cases hw : cp0Wide s.par r = true
    · refine ⟨s.cp0Val r, 0, if_pos hw, fun q hq _ => ?_⟩
      cases hq
      rfl
    · refine ⟨s.free, 1, if_neg hw, fun q hq hwq => ?_⟩
      cases hq
      exact absurd hwq hw

theorem mfc0_completes (s : State) (rt rd : RegNum) (hc : s.CopUsable 0#2) :
    Completes (.mfc0 rt rd) s fun t =>
      (rt ≠ 0#5 → ∀ r, cp0NameOf s.par rd = some r →
        ∃ x, t.gprVal rt = (merge (cp0Reserved s.par r) (lo32 (s.cp0Val r)) x).signExtend 64) ∧
        Frame { gpr := [rt] } s t ∧ Sequential s t := by
  obtain ⟨v, hv, hval⟩ := readCp0Word_ok s rd
  obtain ⟨l, hmove⟩ := writeGprFromCp0_run rt v (s.skip 1)
  refine (completes_moved (i := .mfc0 rt rd) rfl
    ((bind_ok (requireCop_ok hc)).trans ((bind_ok hv).trans hmove))).mono fun t ⟨hgpr, hframe, hseq⟩ =>
    ⟨fun hrt r hr => ?_, hframe, hseq⟩
  obtain ⟨x, rfl⟩ := hval r hr
  exact ⟨x, (hgpr hrt).trans (s.narrow_sext _)⟩

theorem dmfc0_completes (s : State) (rt rd : RegNum) (hc : s.CopUsable 0#2) (h64 : s.Has64) :
    Completes (.dmfc0 rt rd) s fun t =>
      (rt ≠ 0#5 → ∀ r, cp0NameOf s.par rd = some r → cp0Wide s.par r = true → t.gprVal rt = s.cp0Val r) ∧
        Frame { gpr := [rt] } s t ∧ Sequential s t := by
  obtain ⟨v, j, hv, hval⟩ := readCp0Dword_ok s rd
  obtain ⟨l, hmove⟩ := writeGprFromCp0_run rt v (s.skip j)
  refine (completes_moved (i := .dmfc0 rt rd) rfl ((bind_ok (requireCop_ok hc)).trans ((bind_ok (require64_ok h64)).trans
    ((bind_ok hv).trans hmove)))).mono fun t ⟨hgpr, hframe, hseq⟩ =>
    ⟨fun hrt r hr hw => ?_, hframe, hseq⟩
  rw [hgpr hrt, hval r hr hw, State.narrow_of_mips3 h64.1]

/-! ### Writes by MTC0 and DMTC0 -/

/-- A write leaves the TLBs, and all but coprocessor 0. -/
theorem frame_setCp0 (s : State) (r : Cp0Name) (v : DWord) : Frame { cp0 := true } s (s.setCp0 r v) :=
  frame_cp0 (by simp) (by simp) (by simp) (by simp) (by simp) (by simp) (by simp) (by simp) (by simp) (by simp) (by simp)
    (by simp) (by cases r <;> rfl) rfl

/-- A write of a 64-bit register meets none of the three refusals: they are of other members or registers. -/
theorem wide_unrefused {s : State} {r : Cp0Name} (h : cp0Wide s.par r = true) (v : DWord) :
    s.cAlgActive r v = false ∧ s.boundsActive r v = false ∧ s.configOutside r = false := by
  obtain ⟨horion, hname⟩ := Bool.and_eq_true_iff.1 h
  have hcpu : s.par.cpu.is4650 = false ∧ s.par.cpu.is30xx = false := by
    revert horion
    cases s.par.cpu <;> simp [Cpu.isOrionTlb, Cpu.is4650, Cpu.is30xx]
  refine ⟨?_, by simp [State.boundsActive, State.boundsMapped, hcpu.1], by simp [State.configOutside, hcpu.2]⟩
  have hne : (r == .cAlg) = false := by
    revert hname
    cases r <;> simp
  simp [State.cAlgActive, hne]

/-- The timer's request and Halt depend on the low word written. -/
theorem setCp0_timer_halted (s : State) (r : Cp0Name) {v w : DWord} (h : lo32 v = lo32 w) :
    (s.setCp0 r v).timerIrq = (s.setCp0 r w).timerIrq ∧ (s.setCp0 r v).halted = (s.setCp0 r w).halted := by
  unfold State.setCp0
  dsimp only
  rw [h]
  cases r <;> exact ⟨rfl, rfl⟩

/-- A write of a 64-bit register leaves the timer and Halt. -/
theorem setCp0_wide {s : State} {r : Cp0Name} (h : cp0Wide s.par r = true) (v : DWord) :
    (s.setCp0 r v).timerIrq = s.timerIrq ∧ (s.setCp0 r v).halted = s.halted := by
  have hname := (Bool.and_eq_true_iff.1 h).2
  cases r <;> simp_all [State.setCp0, cp0Wide]

/-- A write that is noted for the hazards, after free values were used up, leaves what it leaves without them. -/
theorem setCp0_noted (s : State) (r : Cp0Name) (v : DWord) (n : Nat) :
    (((s.skip n).noteCp0Write r v).setCp0 r v).cp0 = (s.setCp0 r v).cp0 ∧
      (((s.skip n).noteCp0Write r v).setCp0 r v).timerIrq = (s.setCp0 r v).timerIrq ∧
      (((s.skip n).noteCp0Write r v).setCp0 r v).halted = (s.setCp0 r v).halted := by
  cases r <;> exact ⟨rfl, rfl, rfl⟩

theorem boundsActive_skip (s : State) (r : Cp0Name) (v : DWord) (n : Nat) :
    (s.skip n).boundsActive r v = s.boundsActive r v := by
  have hchange : (s.skip n).boundsChange r v = s.boundsChange r v := by
    unfold State.boundsChange
    cases r <;> rfl
  unfold State.boundsActive
  rw [hchange]
  rfl

/-- How an instruction ends that writes register `r` with `v`: the write, or one of the three refusals. -/
theorem writeCp0_outcomes {i : Instr} {x : Op Unit} {s : State} {r : Cp0Name} {v : DWord} {n : Nat}
    (hi : exec i s = runSeq x s) (h : x s = writeCp0 r v (s.skip n)) :
    (s.cAlgActive r v = false → s.boundsActive r v = false → s.configOutside r = false → Completes i s fun t =>
      t.cp0 = (s.setCp0 r v).cp0 ∧ t.timerIrq = (s.setCp0 r v).timerIrq ∧ t.halted = (s.setCp0 r v).halted ∧
        t.tlb48 = s.tlb48 ∧ t.tlb64 = s.tlb64 ∧ Frame { cp0 := true } s t ∧ Sequential s t) ∧
    (s.cAlgActive r v = true → exec i s = .refused .cAlgActiveSpace) ∧
    (s.cAlgActive r v = false → s.boundsActive r v = true → exec i s = .refused .boundsInMappedSpace) ∧
    (s.cAlgActive r v = false → s.boundsActive r v = false → s.configOutside r = true →
      exec i s = .refused .configOutsideKseg1) := by
  have h : x s = if s.cAlgActive r v then .error (.refused .cAlgActiveSpace)
      else if s.boundsActive r v then .error (.refused .boundsInMappedSpace)
      else if s.configOutside r then .error (.refused .configOutsideKseg1)
      else .ok ((), ((s.skip n).noteCp0Write r v).setCp0 r v) := by
    rw [h, writeCp0, boundsActive_skip]
    rfl
  have refuses {e : Refusal} (hx : x s = .error (.refused e)) : exec i s = .refused e :=
    hi.trans (runOp_refused (bind_error hx))
  have no {b : Bool} (hb : b = false) : ¬b = true := by simp [hb]
  refine ⟨fun ha hb hc => ?_, fun ha => refuses (h.trans (if_pos ha)),
    fun ha hb => refuses (h.trans ((if_neg (no ha)).trans (if_pos hb))),
    fun ha hb hc => refuses (h.trans ((if_neg (no ha)).trans ((if_neg (no hb)).trans (if_pos hc))))⟩
  have hrun := h.trans ((if_neg (no ha)).trans ((if_neg (no hb)).trans (if_neg (no hc))))
  obtain ⟨hcp0, htimer, hhalted⟩ := setCp0_noted s r v n
  refine ⟨_, hi.trans (runSeq_ok hrun), hcp0, htimer, hhalted, ?_, ?_, ?_, sequential_advance (by simp)⟩
  · show ((s.skip n).noteCp0Write r v |>.setCp0 r v).tlb48 = s.tlb48
    simp
  · show ((s.skip n).noteCp0Write r v |>.setCp0 r v).tlb64 = s.tlb64
    simp
  · exact (((same_skip s n).trans (same_noteCp0Write _ r v)).frame _).trans ((frame_setCp0 _ r v).trans
      ((same_advance _).frame _))

theorem mtc0_outcomes (s : State) (rt rd : RegNum) (hc : s.CopUsable 0#2) : ∃ a, s.Reads rt a ∧
    (cp0NameOf s.par rd = none → Completes (.mtc0 rt rd) s fun t => Frame {} s t ∧ Sequential s t) ∧
    ∀ r, cp0NameOf s.par rd = some r →
      (s.cAlgActive r (sextLo a) = false → s.boundsActive r (sextLo a) = false → s.configOutside r = false →
        Completes (.mtc0 rt rd) s fun t =>
          (∃ u : Word, t.cp0 = (s.setCp0 r (if cp0Wide s.par r then u ++ lo32 a else sextLo a)).cp0) ∧
            t.timerIrq = (s.setCp0 r a).timerIrq ∧ t.halted = (s.setCp0 r a).halted ∧ t.tlb48 = s.tlb48 ∧
            t.tlb64 = s.tlb64 ∧ Frame { cp0 := true } s t ∧ Sequential s t) ∧
      (s.cAlgActive r (sextLo a) = true → exec (.mtc0 rt rd) s = .refused .cAlgActiveSpace) ∧
      (s.cAlgActive r (sextLo a) = false → s.boundsActive r (sextLo a) = true →
        exec (.mtc0 rt rd) s = .refused .boundsInMappedSpace) ∧
      (s.cAlgActive r (sextLo a) = false → s.boundsActive r (sextLo a) = false → s.configOutside r = true →
        exec (.mtc0 rt rd) s = .refused .configOutsideKseg1) := by
  obtain ⟨a, m, ha, ra, -⟩ := readGpr_reads rt s
  have hrun := (bind_ok (f := fun _ => readGpr rt >>= writeCp0Word rd) (requireCop_ok hc)).trans (bind_ok ha)
  refine ⟨a, ra, fun hnone => ?_, fun r hr => ?_⟩
  · refine completes_skip (i := .mtc0 rt rd) (n := m) rfl (hrun.trans ?_)
    unfold writeCp0Word
    rw [State.skip_par, hnone]
  · cases hw : cp0Wide s.par r with
    | true =>
      obtain ⟨hcalg, hbounds, hconfig⟩ := wide_unrefused hw (sextLo a)
      have hx : writeCp0Word rd a (s.skip m) =
          writeCp0 r ((s.skip m).free.extractLsb' 32 32 ++ lo32 a) (s.skip (m + 1)) := by
        unfold writeCp0Word
        rw [State.skip_par, hr]
        exact if_pos hw
      refine ⟨fun _ _ _ => ?_, fun h => ?_, fun _ h => ?_, fun _ _ h => ?_⟩
      · obtain ⟨hcalg', hbounds', -⟩ := wide_unrefused hw ((s.skip m).free.extractLsb' 32 32 ++ lo32 a)
        refine ((writeCp0_outcomes (i := .mtc0 rt rd) rfl (hrun.trans hx)).1 hcalg' hbounds' hconfig).mono ?_
        rintro t ⟨hcp0, htimer, hhalted, h48, h64, hframe, hseq⟩
        obtain ⟨ht, hh⟩ := setCp0_wide hw ((s.skip m).free.extractLsb' 32 32 ++ lo32 a)
        obtain ⟨ht', hh'⟩ := setCp0_wide hw a
        exact ⟨⟨_, hcp0⟩, htimer.trans (ht.trans ht'.symm), hhalted.trans (hh.trans hh'.symm), h48, h64, hframe, hseq⟩
      · exact Bool.noConfusion (hcalg.symm.trans h)
      · exact Bool.noConfusion (hbounds.symm.trans h)
      · exact Bool.noConfusion (hconfig.symm.trans h)
    | false =>
      have hx : writeCp0Word rd a (s.skip m) = writeCp0 r (sextLo a) (s.skip m) := by
        unfold writeCp0Word
        rw [State.skip_par, hr]
        exact if_neg (by simp [hw])
      obtain ⟨hwrite, hcalg, hbounds, hconfig⟩ := writeCp0_outcomes (i := .mtc0 rt rd) rfl (hrun.trans hx)
      refine ⟨fun h1 h2 h3 => (hwrite h1 h2 h3).mono ?_, hcalg, hbounds, hconfig⟩
      rintro t ⟨hcp0, htimer, hhalted, h48, h64, hframe, hseq⟩
      obtain ⟨ht, hh⟩ := setCp0_timer_halted s r (lo32_sextLo a)
      exact ⟨⟨0, hcp0⟩, htimer.trans ht, hhalted.trans hh, h48, h64, hframe, hseq⟩

theorem dmtc0_outcomes (s : State) (rt rd : RegNum) (hc : s.CopUsable 0#2) (h64 : s.Has64) : ∃ a, s.Reads rt a ∧
    (cp0NameOf s.par rd = none → Completes (.dmtc0 rt rd) s fun t => Frame {} s t ∧ Sequential s t) ∧
    ∀ r, cp0NameOf s.par rd = some r →
      (cp0Wide s.par r = true → Completes (.dmtc0 rt rd) s fun t =>
        t.cp0 = (s.setCp0 r a).cp0 ∧ t.timerIrq = s.timerIrq ∧ t.halted = s.halted ∧ t.tlb48 = s.tlb48 ∧
          t.tlb64 = s.tlb64 ∧ Frame { cp0 := true } s t ∧ Sequential s t) ∧
      (cp0Wide s.par r = false → ∃ u : DWord, isWord u = true ∧
        (s.cAlgActive r u = false → s.boundsActive r u = false → Completes (.dmtc0 rt rd) s fun t =>
          t.cp0 = (s.setCp0 r u).cp0 ∧ t.timerIrq = (s.setCp0 r u).timerIrq ∧ t.halted = (s.setCp0 r u).halted ∧
            t.tlb48 = s.tlb48 ∧ t.tlb64 = s.tlb64 ∧ Frame { cp0 := true } s t ∧ Sequential s t) ∧
        (s.cAlgActive r u = true → exec (.dmtc0 rt rd) s = .refused .cAlgActiveSpace) ∧
        (s.cAlgActive r u = false → s.boundsActive r u = true →
          exec (.dmtc0 rt rd) s = .refused .boundsInMappedSpace)) := by
  obtain ⟨a, m, ha, ra, -⟩ := readGpr_reads rt s
  have hrun := (bind_ok (f := fun _ => do require64; let v ← readGpr rt; writeCp0Dword rd v) (requireCop_ok hc)).trans
    ((bind_ok (require64_ok h64)).trans (bind_ok ha))
  refine ⟨a, ra, fun hnone => ?_, fun r hr => ⟨fun hw => ?_, fun hw => ⟨sextLo (s.skip m).free, isWord_sext _, ?_⟩⟩⟩
  · refine completes_skip (i := .dmtc0 rt rd) (n := m) rfl (hrun.trans ?_)
    unfold writeCp0Dword
    rw [State.skip_par, hnone]
  · have hx : writeCp0Dword rd a (s.skip m) = writeCp0 r a (s.skip m) := by
      unfold writeCp0Dword
      rw [State.skip_par, hr]
      exact if_pos hw
    obtain ⟨hcalg, hbounds, hconfig⟩ := wide_unrefused hw a
    refine ((writeCp0_outcomes (i := .dmtc0 rt rd) rfl (hrun.trans hx)).1 hcalg hbounds hconfig).mono ?_
    rintro t ⟨hcp0, htimer, hhalted, hrest⟩
    obtain ⟨ht, hh⟩ := setCp0_wide hw a
    exact ⟨hcp0, htimer.trans ht, hhalted.trans hh, hrest⟩
  · have hx : writeCp0Dword rd a (s.skip m) = writeCp0 r (sextLo (s.skip m).free) (s.skip (m + 1)) := by
      unfold writeCp0Dword
      rw [State.skip_par, hr]
      exact if_neg (by simp [hw])
    have hconfig : s.configOutside r = false := by
      have h30 : s.par.cpu.is30xx = false := by
        have h3 := h64.1
        unfold State.HasIsa at h3
        revert h3
        cases s.par.cpu <;> simp [Cpu.isa, Isa.rank, Cpu.is30xx]
      simp [State.configOutside, h30]
    obtain ⟨hwrite, hcalg, hbounds, -⟩ := writeCp0_outcomes (i := .dmtc0 rt rd) rfl (hrun.trans hx)
    exact ⟨fun h1 h2 => hwrite h1 h2 hconfig, hcalg, hbounds⟩

/-- Settles O36. -/
theorem cp0Moves : Obligations.Cp0Moves := by
  refine ⟨cp0NameOf_iff, cp0Reserved_eq, fun s => ⟨fun row hrow => ?_, fun row hrow => ?_,
    ⟨rfl, fun h => if_neg (by simp [h]), fun h => ?_⟩, ⟨?_, ?_, ?_, fun row hrow hcpu => ?_, fun h => ?_, fun h => ?_⟩,
    bit_cause_read s⟩, fun s rt rd hc => ⟨mfc0_completes s rt rd hc, dmfc0_completes s rt rd hc⟩,
    fun s rt rd hc => ⟨mtc0_outcomes s rt rd hc, dmtc0_outcomes s rt rd hc⟩⟩
  · simp only [List.mem_cons, List.not_mem_nil, or_false] at hrow
    rcases hrow with rfl | rfl | rfl | rfl | rfl | rfl | rfl | rfl | rfl | rfl | rfl | rfl | rfl | rfl | rfl | rfl | rfl |
      rfl | rfl | rfl | rfl | rfl
    all_goals rfl
  · simp only [List.mem_cons, List.not_mem_nil, or_false] at hrow
    rcases hrow with rfl | rfl | rfl | rfl | rfl | rfl | rfl | rfl | rfl
    all_goals rfl
  · have hval : s.cp0Val .random = zext (s.cp0.random.setWidth 32 <<< 8) := if_pos h
    rw [hval]
    exact random_field_30xx _
  · exact (prId_fields s.par.imp s.par.rev).1
  · exact (prId_fields s.par.imp s.par.rev).2.1
  · exact (prId_fields s.par.imp s.par.rev).2.2
  · simp only [List.mem_cons, List.not_mem_nil, or_false] at hrow
    unfold Params.imp
    rcases hrow with rfl | rfl | rfl | rfl | rfl | rfl | rfl | rfl | rfl
    all_goals rw [hcpu]
  · unfold Params.rev
    rw [h]
    rfl
  · unfold Params.rev
    rw [h]
    rfl

end Sys2Proof.Machine
end

section
/-! PROOFS. Instructions of a coprocessor that the program may not use. -/

namespace Sys2Proof.Machine

section Unusable
variable {s : State} {z : BitVec 2}

theorem fpGate_unusable {l : Isa} (h : s.CopUnusable 1#2) : fpGate l s = .error (.exc (.coprocessorUnusable 1#2) s) :=
  bind_error (requireCop_error h)

theorem unusable_cop0 (h : s.CopUnusable 0#2) (q r : RegNum) (off : BitVec 16) :
    ∀ i ∈ [Instr.mfc0 q r, .mtc0 q r, .dmfc0 q r, .dmtc0 q r, .tlbr, .tlbwi, .tlbwr, .tlbp, .rfe, .eret, .wait, .bc0f off,
      .bc0t off, .bc0fl off, .bc0tl off], exec i s = .next (takeException (.coprocessorUnusable 0#2) s) := by
  have stop := requireCop_error h
  have gate : require4xxx s = .error (.exc (.coprocessorUnusable 0#2) s) := bind_error stop
  simp only [List.forall_mem_cons, List.not_mem_nil, IsEmpty.forall_iff, implies_true, and_true]
  exact ⟨runSeq_exc (bind_error stop), runSeq_exc (bind_error stop), runSeq_exc (bind_error stop),
    runSeq_exc (bind_error stop), runSeq_exc (bind_error stop), runSeq_exc (bind_error stop), runSeq_exc (bind_error stop),
    runSeq_exc (bind_error stop), runSeq_exc (bind_error stop), runOp_exc (bind_error gate), runSeq_exc gate,
    runOp_exc (bind_error stop), runOp_exc (bind_error stop), runOp_exc (bind_error stop), runOp_exc (bind_error stop)⟩

theorem unusable_cop1_moves (h : s.CopUnusable 1#2) (q r t : RegNum) (off : BitVec 16) (cc : BitVec 3) :
    ∀ i ∈ [Instr.mfc1 q r, .mtc1 q r, .cfc1 q r, .ctc1 q r, .dmfc1 q r, .dmtc1 q r, .lwc1 q r off, .swc1 q r off,
      .bc1f cc off, .bc1t cc off, .bc1fl cc off, .bc1tl cc off, .movS q r, .movD q r, .movfS cc q r, .movfD cc q r,
      .movtS cc q r, .movtD cc q r, .movnS t q r, .movnD t q r, .movzS t q r, .movzD t q r],
      exec i s = .next (takeException (.coprocessorUnusable 1#2) s) := by
  have stop := requireCop_error h
  have gate (l : Isa) := fpGate_unusable (l := l) h
  have moves : ∀ i ∈ [Instr.mfc1 q r, .mtc1 q r, .cfc1 q r, .ctc1 q r, .dmfc1 q r, .dmtc1 q r, .lwc1 q r off, .swc1 q r off],
      exec i s = .next (takeException (.coprocessorUnusable 1#2) s) := by
    intro i hi
    simp only [List.mem_cons, List.not_mem_nil, or_false] at hi
    rcases hi with rfl | rfl | rfl | rfl | rfl | rfl | rfl | rfl
    all_goals exact runSeq_exc (bind_error stop)
  have branches : ∀ i ∈ [Instr.bc1f cc off, .bc1t cc off, .bc1fl cc off, .bc1tl cc off],
      exec i s = .next (takeException (.coprocessorUnusable 1#2) s) := by
    intro i hi
    simp only [List.mem_cons, List.not_mem_nil, or_false] at hi
    rcases hi with rfl | rfl | rfl | rfl
    all_goals exact runOp_exc (bind_error stop)
  have formatted : ∀ i ∈ [Instr.movS q r, .movD q r, .movfS cc q r, .movfD cc q r, .movtS cc q r, .movtD cc q r,
      .movnS t q r, .movnD t q r, .movzS t q r, .movzD t q r],
      exec i s = .next (takeException (.coprocessorUnusable 1#2) s) := by
    intro i hi
    simp only [List.mem_cons, List.not_mem_nil, or_false] at hi
    rcases hi with rfl | rfl | rfl | rfl | rfl | rfl | rfl | rfl | rfl | rfl
    all_goals exact runSeq_exc (bind_error (gate _))
  intro i hi
  rcases List.mem_append.1 (show i ∈ [Instr.mfc1 q r, .mtc1 q r, .cfc1 q r, .ctc1 q r, .dmfc1 q r, .dmtc1 q r,
    .lwc1 q r off, .swc1 q r off] ++ ([Instr.bc1f cc off, .bc1t cc off, .bc1fl cc off, .bc1tl cc off] ++
    [Instr.movS q r, .movD q r, .movfS cc q r, .movfD cc q r, .movtS cc q r, .movtD cc q r, .movnS t q r, .movnD t q r,
      .movzS t q r, .movzD t q r]) from hi) with hi | hi
  · exact moves i hi
  · rcases List.mem_append.1 hi with hi | hi
    · exact branches i hi
    · exact formatted i hi

theorem unusable_cop1_arith (h : s.CopUnusable 1#2) (q r t : RegNum) :
    (∀ i ∈ [Instr.addS q r t, .addD q r t, .subS q r t, .subD q r t, .mulS q r t, .mulD q r t, .divS q r t, .divD q r t,
        .sqrtS q r, .sqrtD q r, .absS q r, .absD q r, .negS q r, .negD q r, .recipS q r, .recipD q r, .rsqrtS q r,
        .rsqrtD q r], exec i s = .next (takeException (.coprocessorUnusable 1#2) s)) ∧
    ∀ i ∈ [Instr.cvtSD q r, .cvtDS q r, .cvtSW q r, .cvtDW q r, .cvtSL q r, .cvtDL q r, .cvtWS q r, .cvtWD q r, .cvtLS q r,
        .cvtLD q r, .roundWS q r, .roundWD q r, .truncWS q r, .truncWD q r, .ceilWS q r, .ceilWD q r, .floorWS q r,
        .floorWD q r, .roundLS q r, .roundLD q r, .truncLS q r, .truncLD q r, .ceilLS q r, .ceilLD q r, .floorLS q r,
        .floorLD q r], exec i s = .next (takeException (.coprocessorUnusable 1#2) s) := by
  have gate (l : Isa) := fpGate_unusable (l := l) h
  refine ⟨fun i hi => ?_, fun i hi => ?_⟩
  · simp only [List.mem_cons, List.not_mem_nil, or_false] at hi
    rcases hi with rfl | rfl | rfl | rfl | rfl | rfl | rfl | rfl | rfl | rfl | rfl | rfl | rfl | rfl | rfl | rfl | rfl | rfl
    all_goals exact runSeq_exc (bind_error (gate _))
  · simp only [List.mem_cons, List.not_mem_nil, or_false] at hi
    rcases hi with rfl | rfl | rfl | rfl | rfl | rfl | rfl | rfl | rfl | rfl | rfl | rfl | rfl | rfl | rfl | rfl | rfl |
      rfl | rfl | rfl | rfl | rfl | rfl | rfl | rfl | rfl
    all_goals exact runSeq_exc (bind_error (gate _))

theorem unusable_cop1_compare (h : s.CopUnusable 1#2) (q r : RegNum) (cc : BitVec 3) :
    ∀ mk ∈ [Instr.cFS, Instr.cUnS, Instr.cEqS, Instr.cUeqS, Instr.cOltS, Instr.cUltS, Instr.cOleS, Instr.cUleS,
        Instr.cSfS, Instr.cNgleS, Instr.cSeqS, Instr.cNglS, Instr.cLtS, Instr.cNgeS, Instr.cLeS, Instr.cNgtS, Instr.cFD,
        Instr.cUnD, Instr.cEqD, Instr.cUeqD, Instr.cOltD, Instr.cUltD, Instr.cOleD, Instr.cUleD, Instr.cSfD, Instr.cNgleD,
        Instr.cSeqD, Instr.cNglD, Instr.cLtD, Instr.cNgeD, Instr.cLeD, Instr.cNgtD],
      exec (mk q r cc) s = .next (takeException (.coprocessorUnusable 1#2) s) := by
  have gate := fpGate_unusable (l := .mips1) h
  intro mk hmk
  simp only [List.mem_cons, List.not_mem_nil, or_false] at hmk
  rcases hmk with rfl | rfl | rfl | rfl | rfl | rfl | rfl | rfl | rfl | rfl | rfl | rfl | rfl | rfl | rfl | rfl | rfl | rfl |
    rfl | rfl | rfl | rfl | rfl | rfl | rfl | rfl | rfl | rfl | rfl | rfl | rfl | rfl
  all_goals exact runSeq_exc (bind_error gate)

theorem unusable_cop1_mips4 (h : s.CopUnusable 1#2) (h4 : s.HasIsa .mips4) (q r t u : RegNum) (sa : BitVec 5)
    (cc : BitVec 3) :
    ∀ i ∈ [Instr.movf q cc r, .movt q cc r, .lwxc1 q r t, .ldxc1 q r t, .swxc1 q r t, .sdxc1 q r t,
        .prefx q r sa, .maddS q r t u, .maddD q r t u, .msubS q r t u, .msubD q r t u, .nmaddS q r t u, .nmaddD q r t u,
        .nmsubS q r t u, .nmsubD q r t u], exec i s = .next (takeException (.coprocessorUnusable 1#2) s) := by
  have stop := requireCop_error h
  have isa := requireIsa_ok h4
  have loads (n : Nat) : indexedLoad q r n s = .error (.exc (.coprocessorUnusable 1#2) s) :=
    (bind_ok isa).trans (bind_error stop)
  intro i hi
  simp only [List.mem_cons, List.not_mem_nil, or_false] at hi
  rcases hi with rfl | rfl | rfl | rfl | rfl | rfl | rfl | rfl | rfl | rfl | rfl | rfl | rfl | rfl | rfl
  case inr.inr.inl => exact runSeq_exc (bind_error (loads 4))
  case inr.inr.inr.inl => exact runSeq_exc (bind_error (loads 8))
  case inr.inr.inr.inr.inr.inr.inl => exact runSeq_exc ((bind_ok isa).trans stop)
  all_goals exact runSeq_exc ((bind_ok isa).trans (bind_error stop))

/-! The instructions of the absent coprocessors 2 and 3. -/

theorem unusable_cop2 (h : s.CopUnusable 2#2) (q r : RegNum) (off : BitVec 16) (fn : BitVec 25) :
    ∀ i ∈ [Instr.mfc2 q r, .mtc2 q r, .cfc2 q r, .ctc2 q r, .cop2 fn, .lwc2 q r off, .swc2 q r off, .bc2f off, .bc2t off,
        .bc2fl off, .bc2tl off], exec i s = .next (takeException (.coprocessorUnusable 2#2) s) := by
  have stop := requireCop_error h
  simp only [List.forall_mem_cons, List.not_mem_nil, IsEmpty.forall_iff, implies_true, and_true]
  exact ⟨runSeq_exc (bind_error stop), runSeq_exc stop, runSeq_exc (bind_error stop), runSeq_exc stop, runSeq_exc stop,
    runSeq_exc (bind_error stop), runSeq_exc (bind_error stop), runOp_exc (bind_error stop), runOp_exc (bind_error stop),
    runOp_exc (bind_error stop), runOp_exc (bind_error stop)⟩

theorem unusable_cop3 (h : s.CopUnusable 3#2) (q r : RegNum) (off : BitVec 16) (fn : BitVec 25) :
    ∀ i ∈ [Instr.mfc3 q r, .mtc3 q r, .cfc3 q r, .ctc3 q r, .cop3 fn, .lwc3 q r off, .swc3 q r off,
      .bc3f off, .bc3t off, .bc3fl off, .bc3tl off], exec i s = .next (takeException (.coprocessorUnusable 3#2) s) := by
  have stop := requireCop_error h
  simp only [List.forall_mem_cons, List.not_mem_nil, IsEmpty.forall_iff, implies_true, and_true]
  exact ⟨runSeq_exc (bind_error stop), runSeq_exc stop, runSeq_exc (bind_error stop), runSeq_exc stop, runSeq_exc stop,
    runSeq_exc (bind_error stop), runSeq_exc (bind_error stop), runOp_exc (bind_error stop), runOp_exc (bind_error stop),
    runOp_exc (bind_error stop), runOp_exc (bind_error stop)⟩

end Unusable

/-- Settles O38. -/
theorem coprocessorUnusable : Obligations.CoprocessorUnusable := by
  intro s q r t u sa off cc fn unusable
  refine ⟨fun h => ⟨unusable_cop0 h q r off, fun h3 => ?_⟩, fun h => ⟨unusable_cop1_moves h q r t off cc,
    (unusable_cop1_arith h q r t).1, (unusable_cop1_arith h q r t).2, unusable_cop1_compare h q r cc,
    fun h2 => ⟨?_, ?_⟩, fun h4 => unusable_cop1_mips4 h h4 q r t u sa cc⟩,
    fun h => ⟨unusable_cop2 h q r off fn, fun h2 => ⟨?_, ?_⟩⟩, fun h => unusable_cop3 h q r off fn⟩
  · exact runSeq_exc ((bind_ok (requireIsa_ok h3)).trans (bind_error (requireCop_error h)))
  · exact runSeq_exc ((bind_ok (requireIsa_ok h2)).trans (bind_error (requireCop_error h)))
  · exact runSeq_exc ((bind_ok (requireIsa_ok h2)).trans (bind_error (requireCop_error h)))
  · exact runSeq_exc ((bind_ok (requireIsa_ok h2)).trans (bind_error (requireCop_error h)))
  · exact runSeq_exc ((bind_ok (requireIsa_ok h2)).trans (bind_error (requireCop_error h)))

end Sys2Proof.Machine
end

section
/-! PROOFS. The returns from exceptions, the TLB instructions and CACHE. -/

namespace Sys2Proof.Machine

/-! ### Returns from exceptions -/

theorem rfe_completes {s : State} (hc : s.CopUsable 0#2) (h : s.par.cpu.is30xx = true) :
    exec .rfe s = .next s.popMode.advance :=
  runSeq_ok ((bind_ok (requireCop_ok hc)).trans ((look_bind _ _ _).trans ((bind_ok (raiseIf_ok _ _ (by simp [h]))).trans
    rfl)))

theorem rfe_reserved {s : State} (hc : s.CopUsable 0#2) (h : s.par.cpu.is30xx = false) : Traps .rfe s .reservedInstruction :=
  traps_of_runSeq rfl ((bind_ok (requireCop_ok hc)).trans ((look_bind _ _ _).trans (bind_error (raiseIf_error _ _
    (by simp [h])))))

theorem popMode_cp0 (s : State) :
    s.popMode.cp0 = { s.cp0 with sr := setField s.cp0.sr 0 (s.cp0.sr.extractLsb' 2 4) } := by
  simp [State.popMode, State.setSr]

theorem frame_popMode (s : State) : Frame { cp0 := true, hilo := s.haz.hiloBroken } s s.popMode :=
  (frame_returnHilo s id).trans ((frame_setSr _ _).mono (fun _ => id) (fun _ => id) (fun _ => rfl) id id id)

/-- ERET ends the level of its exception: ERL where it is set, else EXL. -/
theorem exceptionReturn_eq (s : State) : s.exceptionReturn =
    { s.returnHilo.setSr (setBit s.cp0.sr (if s.erl then 2 else 1) false) with llBit := false }.gotoWith
      (if s.erl then s.cp0.errorEpc else s.cp0.epc) s.returnHilo.returnHaz := by
  have herl : s.returnHilo.erl = s.erl := by unfold State.erl; rw [State.returnHilo_cp0]
  unfold State.exceptionReturn
  dsimp only
  rw [herl, State.returnHilo_cp0]
  cases s.erl <;> rfl

theorem exceptionReturn_cp0 (s : State) :
    s.exceptionReturn.cp0 = { s.cp0 with sr := setBit s.cp0.sr (if s.erl then 2 else 1) false } := by
  simp [exceptionReturn_eq, State.gotoWith, State.setSr]

theorem frame_exceptionReturn (s : State) :
    Frame { cp0 := true, link := true, hilo := s.haz.hiloBroken } s s.exceptionReturn := by
  rw [exceptionReturn_eq]
  refine (frame_returnHilo s id).trans ?_
  exact { gpr := fun q _ => gprVal_congr rfl rfl q, mem := fun _ _ => rfl, hilo := fun _ => ⟨rfl, rfl⟩
          cp0 := fun e => absurd e (by simp), fpu := fun _ => rfl, link := fun e => absurd e (by simp)
          rest := ⟨rfl, rfl, rfl, rfl, rfl, rfl⟩ }

theorem eret_completes {s : State} (hc : s.CopUsable 0#2) (h : s.par.cpu.is30xx = false) (hd : s.inDelay = false) :
    exec .eret s = .next s.exceptionReturn :=
  runOp_ok ((bind_ok (require4xxx_ok hc h)).trans ((bind_ok (refuseInDelaySlot_ok hd)).trans rfl))

theorem require4xxx_reserved {s : State} (hc : s.CopUsable 0#2) (h : s.par.cpu.is30xx = true) :
    require4xxx s = .error (.exc .reservedInstruction s) :=
  (bind_ok (requireCop_ok hc)).trans ((look_bind _ _ _).trans (raiseIf_error _ _ h))

/-- Settles O39. -/
theorem returnFromException : Obligations.ReturnFromException := by
  refine ⟨fun s hc => ⟨fun h => ⟨_, rfe_completes hc h, ?_⟩, rfe_reserved hc⟩,
    fun s hc => ⟨fun h hd => ⟨_, eret_completes hc h hd, ?_⟩, fun h => ⟨_, runOp_exc (bind_error (require4xxx_reserved hc h))⟩⟩⟩
  · have hcp0 : s.popMode.advance.cp0 = _ := popMode_cp0 s
    refine ⟨?_, fun i hi => ?_, ?_, State.popMode_tlb64 s, State.popMode_tlb48 s,
      (frame_popMode s).trans ((same_advance _).frame _), sequential_advance (State.popMode_nextPc s)⟩
    · rw [hcp0]
      exact extractLsb'_setField_same _ _ _ (by omega)
    · rw [hcp0]
      exact (bit_setField _ _ _ _).trans (if_neg (by omega))
    · rw [hcp0]
  · have hcp0 := exceptionReturn_cp0 s
    have hbit : ∀ i, bit s.exceptionReturn.cp0.sr i = if i = (if s.erl then 2 else 1) then false else bit s.cp0.sr i := by
      intro i
      rw [hcp0, bit_setBit]
      cases s.erl <;> simp <;> grind
    refine ⟨?_, ?_, ?_, ?_, ?_, ?_, ?_, fun i h1 h2 => ?_, ?_, frame_exceptionReturn s⟩
    · rw [exceptionReturn_eq]; rfl
    · rw [exceptionReturn_eq]; rfl
    · rw [exceptionReturn_eq]; rfl
    · rw [exceptionReturn_eq]; rfl
    · rw [exceptionReturn_eq]; exact State.returnHilo_link s
    · unfold State.erl
      rw [hbit]
      unfold State.erl
      cases h : bit s.cp0.sr 2 <;> simp
    · unfold State.exl
      rw [hbit]
      cases s.erl <;> simp
    · rw [hbit, if_neg (by split <;> assumption)]
    · rw [hcp0]

/-! ### The images of TLB entries -/

/-- EntryHi and EntryLo of an entry of the R30xx TLB describe it. -/
theorem tlb64FromRegs_words (e : Tlb64Entry) : tlb64FromRegs e.hiWord e.loWord = e := by
  obtain ⟨vpn, asid, pfn, n, d, v, g⟩ := e
  simp only [tlb64FromRegs, Tlb64Entry.hiWord, Tlb64Entry.loWord, Tlb64Entry.mk.injEq, bit]
  refine ⟨BitVec.eq_of_getLsbD_eq fun i hi => ?_, BitVec.eq_of_getLsbD_eq fun i hi => ?_,
    BitVec.eq_of_getLsbD_eq fun i hi => ?_, ?_, ?_, ?_, ?_⟩
  all_goals
    simp only [BitVec.getLsbD_extractLsb', BitVec.getLsbD_append]
    grind [BitVec.getLsbD_ofBool]

theorem tlbPageFromReg_loDword (p : TlbPage) (g : Bool) : tlbPageFromReg (p.loDword g) = p := by
  obtain ⟨pfn, c, d, v⟩ := p
  simp only [tlbPageFromReg, TlbPage.loDword, TlbPage.mk.injEq, bit]
  refine ⟨BitVec.eq_of_getLsbD_eq fun i hi => ?_, BitVec.eq_of_getLsbD_eq fun i hi => ?_, ?_, ?_⟩
  all_goals
    simp only [BitVec.getLsbD_extractLsb', BitVec.getLsbD_setWidth, BitVec.getLsbD_append]
    grind [BitVec.getLsbD_ofBool]

theorem loDword_g (p : TlbPage) (g : Bool) : bit (p.loDword g) 0 = g := by
  simp only [TlbPage.loDword, bit, BitVec.getLsbD_setWidth, BitVec.getLsbD_append]
  grind [BitVec.getLsbD_ofBool]

/-- The fields of EntryHi of an entry of the Orion TLB. -/
theorem hiDword_fields (e : Tlb48Entry) : e.hiDword.extractLsb' 62 2 = e.r ∧
    e.hiDword.extractLsb' 13 27 = e.vpn2 &&& ~~~(e.mask.setWidth 27) ∧ e.hiDword.extractLsb' 0 8 = e.asid := by
  unfold Tlb48Entry.hiDword
  generalize e.vpn2 &&& ~~~(e.mask.setWidth 27) = vpn2
  refine ⟨BitVec.eq_of_getLsbD_eq fun i hi => ?_, BitVec.eq_of_getLsbD_eq fun i hi => ?_,
    BitVec.eq_of_getLsbD_eq fun i hi => ?_⟩
  all_goals
    simp only [BitVec.getLsbD_extractLsb', BitVec.getLsbD_append]
    grind

theorem pageMask_field (m : BitVec 12) : ((m ++ 0#13).setWidth 32).extractLsb' 13 12 = m := by
  refine BitVec.eq_of_getLsbD_eq fun i hi => ?_
  simp only [BitVec.getLsbD_extractLsb', BitVec.getLsbD_setWidth, BitVec.getLsbD_append]
  grind

/-- The registers an entry of the Orion TLB is read into describe it, the masked bits of VPN2 clear. -/
theorem tlb48FromRegs_loadTlb48 (s : State) (e : Tlb48Entry) :
    tlb48FromRegs (s.loadTlb48 e).cp0.pageMask (s.loadTlb48 e).cp0.entryHi (s.loadTlb48 e).cp0.entryLo0
      (s.loadTlb48 e).cp0.entryLo1 = { e with vpn2 := e.vpn2 &&& ~~~(e.mask.setWidth 27) } := by
  obtain ⟨hr, hvpn2, hasid⟩ := hiDword_fields e
  simp only [State.loadTlb48, tlb48FromRegs, pageMask_field, hr, hvpn2, hasid, tlbPageFromReg_loDword, loDword_g,
    Bool.and_self, BitVec.and_assoc, BitVec.and_self]

/-! ### The TLB instructions -/

section Tlb
variable {s : State} {old new : Op Unit}

theorem tlbOp_old (hc : s.CopUsable 0#2) (hm : s.par.mmu = .tlb64) : tlbOp old new s = old s :=
  (bind_ok (requireCop_ok hc)).trans ((look_bind _ _ _).trans (by rw [hm]))

theorem tlbOp_new (hc : s.CopUsable 0#2) (hm : s.par.mmu = .tlb48) : tlbOp old new s = new s :=
  (bind_ok (requireCop_ok hc)).trans ((look_bind _ _ _).trans (by rw [hm]))

theorem tlbOp_none (hc : s.CopUsable 0#2) (h64 : s.par.mmu ≠ .tlb64) (h48 : s.par.mmu ≠ .tlb48) :
    tlbOp old new s = .ok ((), s) := by
  refine (bind_ok (requireCop_ok hc)).trans ((look_bind _ _ _).trans ?_)
  cases hm : s.par.mmu with
  | tlb64 => exact absurd hm h64
  | tlb48 => exact absurd hm h48
  | fixed => rfl
  | basebounds => rfl

end Tlb

/-- What a TLB instruction leaves alone: it changes registers of coprocessor 0, the TLB and the counter of free values. -/
theorem tlb_frame (s : State) (c : Cp0) (a : Vector Tlb64Entry 64) (b : Vector Tlb48Entry 48) (n : Nat) :
    let t := { s with cp0 := c, tlb64 := a, tlb48 := b, freeCtr := n }.advance
    Frame { cp0 := true } s t ∧ Sequential s t :=
  ⟨⟨fun _ _ => rfl, fun _ _ => rfl, fun _ => ⟨rfl, rfl⟩, nofun, fun _ => rfl, fun _ => ⟨rfl, rfl⟩, rfl, rfl, rfl, rfl,
    rfl, rfl⟩, sequential_advance rfl⟩

theorem two_le_length_cases {α : Type} {l : List α} (h : 2 ≤ l.length) : ∃ a b k, l = a :: b :: k := by
  match l, h with
  | a :: b :: k, _ => exact ⟨a, b, k, rfl⟩

section
variable {s : State}

theorem probe64_hit {e : Tlb64Entry} {n : Nat}
    (h : s.tlb64Hits (s.cp0.entryHi.extractLsb' 12 20) (s.cp0.entryHi.extractLsb' 6 6) = [(e, n)]) :
    probe64 s = .ok ((), { s with cp0 := { s.cp0 with
      index := setBit (setField s.cp0.index 8 (BitVec.ofNat 6 n)) 31 false } }) := by
  unfold probe64
  rw [h]

theorem probe64_miss (h : s.tlb64Hits (s.cp0.entryHi.extractLsb' 12 20) (s.cp0.entryHi.extractLsb' 6 6) = []) :
    probe64 s = .ok ((), { s.useFree with cp0 := { s.cp0 with index := setBit (lo32 s.free) 31 true } }) := by
  unfold probe64
  rw [h]

theorem probe64_several
    (h : 2 ≤ (s.tlb64Hits (s.cp0.entryHi.extractLsb' 12 20) (s.cp0.entryHi.extractLsb' 6 6)).length) :
    probe64 s = .error (.exc .tlbShutdown s) := by
  obtain ⟨a, b, k, hk⟩ := two_le_length_cases h
  unfold probe64
  rw [hk]

theorem probe48_hit {e : Tlb48Entry} {n : Nat}
    (h : s.tlb48Hits (s.cp0.entryHi.extractLsb' 62 2) (s.cp0.entryHi.extractLsb' 13 27)
      (s.cp0.entryHi.extractLsb' 0 8) = [(e, n)]) :
    probe48 s = .ok ((), { s with cp0 := { s.cp0 with index := BitVec.ofNat 32 n } }) := by
  unfold probe48
  rw [h]

theorem probe48_miss (h : s.tlb48Hits (s.cp0.entryHi.extractLsb' 62 2) (s.cp0.entryHi.extractLsb' 13 27)
      (s.cp0.entryHi.extractLsb' 0 8) = []) :
    probe48 s = .ok ((), { s with cp0 := { s.cp0 with index := 0x80000000#32 } }) := by
  unfold probe48
  rw [h]

theorem probe48_several (h : 2 ≤ (s.tlb48Hits (s.cp0.entryHi.extractLsb' 62 2) (s.cp0.entryHi.extractLsb' 13 27)
      (s.cp0.entryHi.extractLsb' 0 8)).length) : probe48 s = .error (.refused .tlbMultipleMatch) := by
  obtain ⟨a, b, k, hk⟩ := two_le_length_cases h
  unfold probe48
  rw [hk]

theorem writeTlb48_ok {i : Nat} (h : i < 48) (hm : pageMaskLegal (s.cp0.pageMask.extractLsb' 13 12) = true) :
    writeTlb48 i s = .ok ((), s.setTlb48 i h) :=
  (dif_pos h).trans (if_pos hm)

theorem readTlb48_ok {i : Nat} (h : i < 48) : readTlb48 i s = .ok ((), s.loadTlb48 s.tlb48[i]) := dif_pos h

end

/-- Settles O40. -/
theorem tlbInstructions : Obligations.TlbInstructions := by
  refine ⟨fun s hc h64 h48 i hi => ?_, fun s hc hm => ⟨?_, ?_, ?_, fun e n hh => ?_, fun hh => ?_, fun hh => ?_⟩,
    fun s hc hm => ⟨fun h => ⟨fun hl => ?_, ?_⟩, fun h hl => ?_, fun e n hh => ?_, fun hh => ?_, fun hh => ?_⟩⟩
  · simp only [List.mem_cons, List.not_mem_nil, or_false] at hi
    rcases hi with rfl | rfl | rfl | rfl
    all_goals exact completes_skip (n := 0) rfl (tlbOp_none hc h64 h48)
  · exact ⟨_, runSeq_ok (tlbOp_old hc hm), rfl, rfl, rfl, tlb_frame s _ _ _ _⟩
  · exact ⟨_, runSeq_ok (tlbOp_old hc hm), rfl, rfl, rfl, tlb_frame s _ _ _ _⟩
  · refine ⟨_, runSeq_ok (tlbOp_old hc hm), ?_, rfl, rfl, tlb_frame s _ _ _ _⟩
    show tlb64FromRegs (lo32 (sext _)) (lo32 (sext _)) = _
    rw [lo32_sext, lo32_sext, tlb64FromRegs_words]
  · refine ⟨_, runSeq_ok ((tlbOp_old hc hm).trans (probe64_hit hh)), ?_, ?_, rfl, rfl, tlb_frame s _ _ _ _⟩
    · exact (bit_setBit _ _ _ _).trans (if_pos ⟨by omega, rfl⟩)
    · exact (extractLsb'_setBit_other _ _ _ _ _ (by omega)).trans (extractLsb'_setField_same _ _ _ (by omega))
  · refine ⟨_, runSeq_ok ((tlbOp_old hc hm).trans (probe64_miss hh)), ?_, rfl, rfl, tlb_frame s _ _ _ _⟩
    exact (bit_setBit _ _ _ _).trans (if_pos ⟨by omega, rfl⟩)
  · exact runSeq_exc ((tlbOp_old hc hm).trans (probe64_several hh))
  · exact ⟨_, runSeq_ok ((tlbOp_new hc hm).trans ((look_bind _ _ _).trans (writeTlb48_ok h hl))), rfl, rfl,
      tlb_frame s _ _ _ _⟩
  · refine ⟨_, runSeq_ok ((tlbOp_new hc hm).trans ((look_bind _ _ _).trans (readTlb48_ok h))), ?_, loDword_g _ _,
      loDword_g _ _, rfl, rfl, tlb_frame s _ _ _ _⟩
    exact tlb48FromRegs_loadTlb48 s _
  · exact ⟨_, runSeq_ok ((tlbOp_new hc hm).trans ((look_bind _ _ _).trans (writeTlb48_ok h hl))), rfl, rfl,
      tlb_frame s _ _ _ _⟩
  · exact ⟨_, runSeq_ok ((tlbOp_new hc hm).trans (probe48_hit hh)), rfl, rfl, tlb_frame s _ _ _ _⟩
  · exact ⟨_, runSeq_ok ((tlbOp_new hc hm).trans (probe48_miss hh)), show bit 0x80000000#32 31 = true by decide, rfl,
      rfl, tlb_frame s _ _ _ _⟩
  · exact runOp_refused (bind_error ((tlbOp_new hc hm).trans (probe48_several hh)))

/-! ### CACHE -/

/-- The bytes of an aligned doubleword are those of its eight addresses, in some order (R222). -/
theorem byteLane_div (s : State) (x : Nat) : s.byteLane x / 8 = x / 8 := by
  unfold State.byteLane
  split
  · have hlow : s.par.cpu.elemBytes - 1 < 8 := by cases s.par.cpu <;> decide
    exact (Nat.xor_div_two_pow (n := 3)).trans (by simp [hlow])
  · rfl

theorem lanes_in_block (s : State) {pa a x : Nat} (ha : a ∈ blockWords pa) (hx : x ∈ s.lanes a 8) : x / 32 = pa / 32 := by
  obtain ⟨i, hi, rfl⟩ := List.mem_map.1 ha
  obtain ⟨j, hj, rfl⟩ := mem_byteAddrs.1 hx
  have hi := List.mem_range.1 hi
  have hlane := byteLane_div s (pa / 32 * 32 + 8 * i + j)
  omega

theorem mem_block {pa x : Nat} : x ∈ (List.range 32).map (pa / 32 * 32 + ·) ↔ x / 32 = pa / 32 := by
  simp only [List.mem_map, List.mem_range]
  constructor
  · rintro ⟨i, hi, rfl⟩
    omega
  · exact fun h => ⟨x % 32, by omega, by omega⟩

theorem frame_freeDoubles (as : List Nat) (s : State) {w : Touch} (hw : ∀ u : State, ∀ a ∈ as, ∀ x ∈ u.lanes a 8, x ∈ w.mem) :
    Frame w s (as.foldl State.freeDouble s) ∧ (as.foldl State.freeDouble s).nextPc = s.nextPc := by
  induction as generalizing s with
  | nil => exact ⟨(same_refl s).frame w, rfl⟩
  | cons a as ih =>
    obtain ⟨hframe, hnpc⟩ := ih (s.freeDouble a) fun u b hb => hw u b (List.mem_cons_of_mem a hb)
    exact ⟨((same_useFree s).frame w).trans ((frame_setMem s.useFree a 8 s.free
      (hw s.useFree a List.mem_cons_self)).trans hframe), hnpc⟩

/-- What CACHE does to `s` at a physical address. -/
structure CacheOutcome (op : BitVec 5) (pa : Nat) (cca : BitVec 3) (s t : State) : Prop where
  cp0 : t.cp0 = { s.cp0 with tagLo := t.cp0.tagLo, ecc := t.cp0.ecc }
  kept : op ∉ [4#5, 5#5, 7#5] → t.cp0 = s.cp0
  tlb48 : t.tlb48 = s.tlb48
  mem : ∀ a, a / 32 ≠ pa / 32 ∨ op ≠ 0x0D#5 ∨ cca = 2#3 → memRead t.mem a = memRead s.mem a
  frame : Frame { cp0 := true, mem := (List.range 32).map (pa / 32 * 32 + ·) } s t
  nextPc : t.nextPc = s.nextPc

theorem cacheEffect_outcome (op : BitVec 5) (pa : Nat) (cca : BitVec 3) (s : State) :
    ∃ t, cacheEffect op pa cca s = .ok ((), t) ∧ CacheOutcome op pa cca s t := by
  unfold cacheEffect
  rw [change_apply]
  cases hload : isLoadTag s.par.cpu op with
  | true =>
    have hop : op ∈ [4#5, 5#5, 7#5] := by
      simp only [isLoadTag, Bool.or_eq_true, Bool.and_eq_true, beq_iff_eq] at hload
      simp only [List.mem_cons, List.not_mem_nil, or_false]
      tauto
    exact ⟨_, rfl, rfl, fun h => absurd hop h, rfl, fun _ _ => rfl,
      ⟨fun _ _ => rfl, fun _ _ => rfl, fun _ => ⟨rfl, rfl⟩, nofun, fun _ => rfl, fun _ => ⟨rfl, rfl⟩, rfl, rfl, rfl, rfl,
        rfl, rfl⟩, rfl⟩
  | false =>
    cases hdirty : isCreateDirty op && cca != 2#3 with
    | true =>
      obtain ⟨hop, hcca⟩ := (Bool.and_eq_true _ _).mp hdirty
      obtain ⟨hframe, hnpc⟩ := frame_freeDoubles (blockWords pa) s
        (w := { mem := (List.range 32).map (pa / 32 * 32 + ·) }) fun u a ha x hx => mem_block.2 (lanes_in_block u ha hx)
      obtain ⟨hcp0, -, htlb, -⟩ := hframe.cp0 rfl
      refine ⟨(blockWords pa).foldl State.freeDouble s, rfl, by rw [hcp0], fun _ => hcp0,
        htlb, fun a ha => hframe.mem a fun hmem => ?_, hframe.mono (fun _ => id) (fun _ => id) id (fun _ => rfl) id id, hnpc⟩
      rcases ha with ha | ha | ha
      · exact ha (mem_block.1 hmem)
      · exact ha (by simpa [isCreateDirty] using hop)
      · simp [ha] at hcca
    | false =>
      exact ⟨s, rfl, rfl, fun _ => rfl, rfl, fun _ _ => rfl, (same_refl s).frame _, rfl⟩

/-- Settles O41. -/
theorem cacheInstruction : Obligations.CacheInstruction := by
  intro s base op off h3 hc
  obtain ⟨b, m, hb, rb⟩ := effAddr_reads base off s
  refine ⟨b, rb, fun pa cca ht => ?_⟩
  obtain ⟨t, heff, hcp0, hkept, htlb, hmem, hframe, hnpc⟩ := cacheEffect_outcome op pa cca (s.skip m)
  exact ⟨_, runSeq_ok ((bind_ok (requireIsa_ok h3)).trans ((bind_ok (requireCop_ok hc)).trans ((bind_ok hb).trans
    ((bind_ok (translate_skip ht m)).trans heff)))), hcp0, hkept, htlb, hmem, ((same_skip s m).frame _).trans
    (hframe.trans ((same_advance t).frame _)), sequential_advance hnpc⟩

end Sys2Proof.Machine
end

section
/-! PROOFS. Taking an exception on an R4xxx or R5000 (R1041), and the Cache Error exception (R1034). -/

namespace Sys2Proof.Machine

/-! ### The common entry -/

section R4xxx
variable {s : State} (h : s.par.cpu.is30xx = false)
include h

theorem cp0After_epc_4xxx (e : Exc) :
    (s.cp0After e).epc = if s.exl then s.cp0.epc else if s.inDelay then s.pcNorm (s.pc - 4) else s.pc := by
  simp only [State.cp0After, State.restartPc, h, Bool.not_false, Bool.true_and]

theorem causeAfter_bd_4xxx (e : Exc) :
    bit (s.causeAfter e) 31 = if s.exl then bit s.cp0.cause 31 else s.inDelay := by
  rw [causeAfter_bd, h, Bool.not_false, Bool.true_and]

theorem badVAddrAfter_4xxx (e : Exc) : s.badVAddrAfter e = match e.badVa with
    | some va => if s.exl then s.cp0.badVAddr else va
    | none => s.cp0.badVAddr := if_neg (by simp [h])

theorem badVAddrAfter_kept (he : s.exl = true) (e : Exc) : s.badVAddrAfter e = s.cp0.badVAddr := by
  rw [badVAddrAfter_4xxx h]
  cases e.badVa with
  | none => rfl
  | some va => exact if_pos he

theorem contextAfter_4xxx (va : DWord) : s.contextAfter va =
    if s.exl && !s.par.contextUnderExl then s.cp0.context else setField s.cp0.context 4 (va.extractLsb' 13 19) :=
  if_neg (by simp [h])

theorem xContextAfter_4xxx (va : DWord) :
    s.xContextAfter va = setField (setField s.cp0.xContext 4 (va.extractLsb' 13 27)) 31 (va.extractLsb' 62 2) :=
  if_neg (by simp [h])

theorem entryHiAfter_4xxx (va : DWord) :
    s.entryHiAfter va = setField (setField s.cp0.entryHi 13 (va.extractLsb' 13 27)) 62 (va.extractLsb' 62 2) :=
  if_neg (by simp [h])

/-- Kernel mode is entered, with interrupts disabled: EXL is set. -/
theorem takeException_exl {e : Exc} (he : e.common = true) : (takeException e s).exl = true := by
  unfold State.exl
  rw [takeException_cp0 he]
  exact (bit_srAfter_4xxx h 1).trans (if_pos rfl)

theorem takeException_mode_4xxx {e : Exc} (he : e.common = true) : (takeException e s).mode? = some .kernel := by
  unfold State.mode?
  rw [takeException_par he, h, takeException_exl h he]
  rfl

theorem takeException_unready {e : Exc} (he : e.common = true) : (takeException e s).interruptReady = false := by
  unfold State.interruptReady
  rw [takeException_par he, h, takeException_exl h he]
  simp

/-- The vector of everything but a TLB refill and an interrupt. -/
theorem vector_4xxx_general {e : Exc} (hr : ∀ va st, e ≠ .tlbRefill va st) (hi : e ≠ .interrupt) :
    s.vector e = if s.bev then 0xFFFFFFFFBFC00380#64 else 0xFFFFFFFF80000180#64 := by
  unfold State.vector
  rw [if_neg (by simp [h])]
  cases e with
  | tlbRefill va st => exact absurd rfl (hr va st)
  | interrupt => exact absurd rfl hi
  | _ => rfl

theorem vector_4xxx_refill (va : DWord) (st : Bool) : s.vector (.tlbRefill va st) =
    if s.exl then (if s.bev then 0xFFFFFFFFBFC00380#64 else 0xFFFFFFFF80000180#64)
    else if s.refillExtended va then (if s.bev then 0xFFFFFFFFBFC00280#64 else 0xFFFFFFFF80000080#64)
    else (if s.bev then 0xFFFFFFFFBFC00200#64 else 0xFFFFFFFF80000000#64) := if_neg (by simp [h])

theorem vector_4xxx_interrupt : s.vector .interrupt =
    if s.par.cpu.is4650 && bit s.cp0.cause 23 then (if s.bev then 0xFFFFFFFFBFC00400#64 else 0xFFFFFFFF80000200#64)
    else (if s.bev then 0xFFFFFFFFBFC00380#64 else 0xFFFFFFFF80000180#64) := if_neg (by simp [h])

end R4xxx

/-- An exception that is not one of the TLB keeps XContext, one that is writes it. -/
theorem cp0After_xContext (s : State) (e : Exc) : (s.cp0After e).xContext = match e.tlbVa with
    | some va => s.xContextAfter va
    | none => s.cp0.xContext := by
  unfold State.cp0After
  cases e.tlbVa <;> rfl

theorem toNat_extractLsb'_top (va : DWord) : (va.extractLsb' 62 2).toNat = va.toNat / 2 ^ 62 := by
  rw [BitVec.extractLsb'_toNat, Nat.shiftRight_eq_div_pow]
  omega

/-- The segment of an address that chooses among UX, SX and KX (R314). -/
theorem refillExtended_eq (s : State) (va : DWord) : s.refillExtended va =
    if va.toNat < 2 ^ 62 then bit s.cp0.sr 5
    else if va.toNat < 2 ^ 63 ∨ (0xFFFFFFFFC0000000 ≤ va.toNat ∧ va.toNat < 0xFFFFFFFFE0000000) then bit s.cp0.sr 6
    else bit s.cp0.sr 7 := by
  have htop := toNat_extractLsb'_top va
  have huser : va.extractLsb' 62 2 = 0#2 ↔ va.toNat < 2 ^ 62 := by
    rw [← BitVec.toNat_inj, htop, BitVec.toNat_ofNat]
    omega
  have hsuper : va.extractLsb' 62 2 = 1#2 ↔ 2 ^ 62 ≤ va.toNat ∧ va.toNat < 2 ^ 63 := by
    rw [← BitVec.toNat_inj, htop, BitVec.toNat_ofNat]
    omega
  have hsseg : va.extractLsb' 29 35 = 0x7FFFFFFFE#35 ↔ 0xFFFFFFFFC0000000 ≤ va.toNat ∧ va.toNat < 0xFFFFFFFFE0000000 := by
    rw [← BitVec.toNat_inj, BitVec.extractLsb'_toNat, Nat.shiftRight_eq_div_pow, BitVec.toNat_ofNat]
    omega
  unfold State.refillExtended
  simp only [huser, hsuper, hsseg]
  by_cases h1 : va.toNat < 2 ^ 62
  · rw [if_pos h1, if_pos h1]
  · rw [if_neg h1, if_neg h1]
    simp only [Nat.le_of_not_lt h1, true_and]

/-- IW and DW of a Watch exception on an R4650 or R4640. -/
theorem causeAfter_watch {s : State} (h : s.par.cpu.is4650 = true) (iw dw : Bool) :
    bit (s.causeAfter (.watch iw dw)) 24 = iw ∧ bit (s.causeAfter (.watch iw dw)) 25 = dw := by
  unfold State.causeAfter
  dsimp only
  rw [if_pos h, bit_setBit, bit_setBit, bit_setBit]
  exact ⟨(if_neg (by omega)).trans (if_pos (by omega)), if_pos (by omega)⟩

theorem takeException_tlb48 {e : Exc} (he : e.common = true) (s : State) : (takeException e s).tlb48 = s.tlb48 := by
  rw [takeException_eq he]
  rfl

/-! ### Cache Error -/

/-- A field that a mask lets through. -/
theorem extractLsb'_and_mask {n : Nat} (x m : BitVec n) {k u : Nat} (hm : ∀ i : Fin u, bit m (k + i) = true) :
    (x &&& m).extractLsb' k u = x.extractLsb' k u := by
  refine BitVec.eq_of_getLsbD_eq fun i hi => ?_
  rw [BitVec.getLsbD_extractLsb', BitVec.getLsbD_extractLsb', BitVec.getLsbD_and,
    show m.getLsbD (k + i) = true from hm ⟨i, hi⟩, Bool.and_true]

/-- A field that a mask clears. -/
theorem extractLsb'_and_clear {n : Nat} (x m : BitVec n) {k u : Nat} (hm : ∀ i : Fin u, bit m (k + i) = false) :
    (x &&& m).extractLsb' k u = 0#u := by
  refine BitVec.eq_of_getLsbD_eq fun i hi => ?_
  rw [BitVec.getLsbD_extractLsb', BitVec.getLsbD_and, show m.getLsbD (k + i) = false from hm ⟨i, hi⟩, Bool.and_false,
    Bool.and_false, BitVec.getLsbD_zero]

/-- What CacheErr shows of the image of an access. -/
theorem cacheErr_shown (info : Word) (va : DWord) (pa : Nat) :
    let c := cacheErrImage info va pa &&& 0xFE3FFFFB#32
    c.extractLsb' 25 7 = info.extractLsb' 25 7 ∧ c.extractLsb' 22 3 = 0#3 ∧ bit c 2 = false ∧
      (bit info 27 = false → c.extractLsb' 3 19 = (BitVec.ofNat 32 pa).extractLsb' 3 19 ∧
        c.extractLsb' 0 2 = va.extractLsb' 12 2) ∧
      (bit info 27 = true → c.extractLsb' 3 19 = info.extractLsb' 3 19 ∧ c.extractLsb' 0 2 = info.extractLsb' 0 2) := by
  intro c
  have field : ∀ k u, (∀ i : Fin u, bit (0xFE3FFFFB#32 : Word) (k + i) = true) →
      c.extractLsb' k u = (cacheErrImage info va pa).extractLsb' k u := fun k u hm => extractLsb'_and_mask _ _ hm
  have hbit : ∀ i, (cacheErrImage info va pa).getLsbD i = _ := bit_cacheErrImage info va pa
  refine ⟨?_, extractLsb'_and_clear _ _ (by decide), ?_, fun hint => ⟨?_, ?_⟩, fun hext => ?_⟩
  · rw [field 25 7 (by decide)]
    refine BitVec.eq_of_getLsbD_eq fun i hi => ?_
    rw [BitVec.getLsbD_extractLsb', BitVec.getLsbD_extractLsb', hbit, if_neg (by omega)]
    rfl
  · exact BitVec.getLsbD_and.trans (Bool.and_false _)
  · rw [field 3 19 (by decide)]
    refine BitVec.eq_of_getLsbD_eq fun i hi => ?_
    rw [BitVec.getLsbD_extractLsb', BitVec.getLsbD_extractLsb', hbit, if_pos ⟨hint, by omega⟩, if_pos (by omega),
      BitVec.getLsbD_ofNat, decide_eq_true (show 3 + i < 32 by omega), Bool.true_and]
  · rw [field 0 2 (by decide)]
    refine BitVec.eq_of_getLsbD_eq fun i hi => ?_
    rw [BitVec.getLsbD_extractLsb', BitVec.getLsbD_extractLsb', hbit, if_pos ⟨hint, by omega⟩, if_neg (by omega),
      decide_eq_true (show 0 + i < 2 by omega), Bool.true_and, Nat.zero_add]
    rfl
  · have himage : cacheErrImage info va pa = info := if_pos hext
    rw [field 3 19 (by decide), field 0 2 (by decide), himage]
    exact ⟨rfl, rfl⟩

/-! ### The statement -/

/-- Settles O43: the common entry puts `cp0After` in coprocessor 0 and the vector in the program counter, and each field
is what the rule of its register says; Cache Error has its own entry. -/
theorem exceptionEntry4xxx : Obligations.ExceptionEntry4xxx := by
  refine ⟨fun s e h he => ?_, fun _ => cacheErr_shown, fun s info => ?_⟩
  · intro t
    have hcp0 : t.cp0 = s.cp0After e := takeException_cp0 he s
    have hpc : t.pc = s.vector e := takeException_pc he s
    rw [hcp0]
    refine ⟨fun hexl => ⟨?_, ?_, fun va hva => ?_⟩, fun hexl => ⟨?_, ?_, badVAddrAfter_kept h hexl e⟩,
      causeAfter_code s e, ?ce, takeException_exl h he, takeException_mode_4xxx h he, takeException_unready h he,
      fun i hi => (bit_srAfter_4xxx h i).trans (if_neg hi), fun hr hi => hpc.trans ?general, ?refillExl, ?refill,
      ?interrupt, ?watch, ?tlb, fun hva => ?_, takeException_nextPc he s, takeException_inDelay he s,
      takeException_tlb48 he s, frame_takeException e s rfl⟩
    · exact (cp0After_epc_4xxx h e).trans (by simp [hexl])
    · exact (causeAfter_bd_4xxx h e).trans (by simp [hexl])
    · exact (badVAddrAfter_4xxx h e).trans (by simp [hva, hexl])
    · exact (cp0After_epc_4xxx h e).trans (if_pos hexl)
    · exact (causeAfter_bd_4xxx h e).trans (if_pos hexl)
    case ce =>
      rintro z rfl
      exact causeAfter_ce s z
    case general =>
      by_cases hint : e = .interrupt
      · subst hint
        rw [vector_4xxx_interrupt h, hi.resolve_right fun hn => hn rfl]
        rfl
      · exact vector_4xxx_general h hr hint
    case refillExl =>
      rintro va st rfl hexl
      exact hpc.trans ((vector_4xxx_refill h va st).trans (if_pos hexl))
    case refill =>
      rintro va st rfl hexl
      intro wide
      rw [hpc, vector_4xxx_refill h, hexl, refillExtended_eq]
      rfl
    case interrupt =>
      rintro h46 rfl
      rw [hpc, vector_4xxx_interrupt h, h46, Bool.true_and]
    case watch =>
      rintro iw dw rfl h46
      exact causeAfter_watch h46 iw dw
    case tlb =>
      intro va hva
      obtain ⟨hcontext, hentryHi⟩ := cp0After_tlb hva s
      have hx : (s.cp0After e).xContext = s.xContextAfter va := by rw [cp0After_xContext, hva]
      rw [hcontext, hentryHi, hx, contextAfter_4xxx h, entryHiAfter_4xxx h, xContextAfter_4xxx h]
      refine ⟨fun hw => ?_, fun hexl hpar => if_pos (by simp [hexl, hpar]), ?_, ?_, ?_, ?_, ?_, ?_, ?_, ?_⟩
      · rw [if_neg (by rcases hw with hw | hw <;> simp [hw])]
        exact extractLsb'_setField_same _ _ _ (by omega)
      · split
        · rfl
        · exact extractLsb'_setField_other _ _ _ _ _ (by omega)
      · split
        · rfl
        · exact extractLsb'_setField_other _ _ _ _ _ (by omega)
      · exact (extractLsb'_setField_other _ _ _ _ _ (by omega)).trans (extractLsb'_setField_same _ _ _ (by omega))
      · exact extractLsb'_setField_same _ _ _ (by omega)
      · exact (extractLsb'_setField_other _ _ _ _ _ (by omega)).trans (extractLsb'_setField_other _ _ _ _ _ (by omega))
      · exact (extractLsb'_setField_other _ _ _ _ _ (by omega)).trans (extractLsb'_setField_same _ _ _ (by omega))
      · exact extractLsb'_setField_same _ _ _ (by omega)
      · exact (extractLsb'_setField_other _ _ _ _ _ (by omega)).trans (extractLsb'_setField_other _ _ _ _ _ (by omega))
    · obtain ⟨hcontext, hentryHi⟩ := cp0After_not_tlb hva s
      exact ⟨hcontext, by rw [cp0After_xContext, hva], hentryHi⟩
  · have hsr : ∀ i, bit (takeException (.cacheError info) s).cp0.sr i = if i < 32 ∧ i = 2 then true else bit s.cp0.sr i :=
      fun i => bit_setBit _ _ _ _
    exact ⟨rfl, (hsr 2).trans (if_pos (by omega)), fun i hi => (hsr i).trans (if_neg (by omega)), rfl, rfl, rfl, rfl,
      frame_takeException _ s rfl⟩

end Sys2Proof.Machine
end

section
/-! PROOFS. What comes before an instruction: interrupts, watches, a standstill, cache errors and the fetch's own
exceptions. -/

namespace Sys2Proof.Machine

/-! ### Members -/

theorem not_3071_of_4xxx (c : Cpu) : c.is30xx = false → c.is3071 = false := by cases c <;> decide
theorem not_orion_of_4650 (c : Cpu) : c.is4650 = true → c.isOrionTlb = false := by cases c <;> decide
theorem not_3071_of_4650 (c : Cpu) : c.is4650 = true → c.is3071 = false := by cases c <;> decide

section
variable {s : State}

/-! ### Before the fetch -/

theorem noteCacheError_none (h : s.inp.cacheError = none) : s.noteCacheError = s := by
  unfold State.noteCacheError
  rw [h]
  rfl

/-- Where no request, shutdown or standstill comes first, a postponed watch is taken, else an interrupt. -/
theorem beforeFetch_quiet (hr : s.request = none) (hn : s.noteCacheError = s) (hd : s.isShutDown = false)
    (hs : s.standsStill = false) : s.beforeFetch =
      if s.watchDue then some (.next s.takeWatch.tickTime)
      else if s.interruptReady then some (.next (takeException .interrupt s.ready).tickTime)
      else none := by
  unfold State.beforeFetch
  rw [hr]
  dsimp only
  rw [hn, hd, hs]
  rfl

theorem step_of_beforeFetch {r : Result} (h : s.beforeFetch = some r) : step s = r := by
  unfold step
  rw [h]

theorem watchDue_iff : s.watchDue = true ↔ (s.watchI = true ∨ s.watchD = true) ∧ s.exl = false ∧ s.erl = false := by
  simp [State.watchDue, and_assoc]

theorem interruptReady_iff : s.interruptReady = true ↔
    bit s.cp0.sr 0 = true ∧ (s.par.cpu.is30xx = false → s.exl = false ∧ s.erl = false) ∧
      s.causeVal.extractLsb' 8 8 &&& s.cp0.sr.extractLsb' 8 8 ≠ 0#8 := by
  unfold State.interruptReady
  cases s.par.cpu.is30xx <;> simp [and_assoc]

/-- What comes first at a boundary where the machine runs. -/
theorem step_quiet (hr : s.request = none) (hc : s.inp.cacheError = none) (hd : s.isShutDown = false)
    (hs : s.standsStill = false) :
    (s.watchDue = true → step s =
      .next (takeException (.watch s.watchI s.watchD) { s with watchI := false, watchD := false }).tickTime) ∧
    (s.watchDue = false → s.interruptReady = true → step s = .next (takeException .interrupt s.ready).tickTime) ∧
    (s.watchDue = false → s.interruptReady = false → step s = afterTick (runNext s.ready)) := by
  have hquiet := beforeFetch_quiet hr (noteCacheError_none hc) hd hs
  refine ⟨fun hw => step_of_beforeFetch (hquiet.trans (if_pos hw)), fun hw hi => step_of_beforeFetch ?_,
    fun hw hi => step_of_beforeFetch_none ?_⟩
  · rw [hquiet, hw, hi]
    rfl
  · rw [hquiet, hw, hi]
    rfl

/-! ### Requests and noted cache errors -/

theorem request_eq_none_iff : s.request = none ↔
    s.inp.coldReset = false ∧ (s.par.cpu.is30xx = false → s.inp.softReset = false ∧ s.inp.nmi = false) := by
  unfold State.request
  cases s.inp.coldReset <;> cases s.par.cpu.is30xx <;> cases s.inp.softReset <;> cases s.inp.nmi <;> simp

/-- Noting a cache error changes SR.PE and the request alone. -/
theorem noteCacheError_cases : s.noteCacheError = s ∨ s.noteCacheError = s.dropCacheError ∨
    s.noteCacheError = s.dropCacheError.setSr (setBit s.cp0.sr 20 true) := by
  unfold State.noteCacheError
  split
  · exact .inl rfl
  · split
    · exact .inr (.inr rfl)
    · split
      · exact .inr (.inl rfl)
      · exact .inl rfl

theorem noteCacheError_isShutDown : s.noteCacheError.isShutDown = s.isShutDown := by
  rcases noteCacheError_cases (s := s) with h | h | h
  · rw [h]
  · rw [h]
    rfl
  · rw [h]
    show (s.par.mmu == .tlb64 && bit (setBit s.cp0.sr 20 true) 21) = _
    rw [bit_setBit, if_neg (by omega)]
    rfl

/-- A step depends on a cache error that is noted only through the state it is noted in. -/
theorem step_noted {t : State} (hs : s.request = none) (ht : t.request = none) (h : s.noteCacheError = t)
    (hc : t.inp.cacheError = none) : step s = step t := by
  have hn : t.noteCacheError = s.noteCacheError := (noteCacheError_none hc).trans h.symm
  have hready : t.ready = s.ready := by
    unfold State.ready
    rw [hn]
  unfold step State.beforeFetch
  rw [hs, ht, hn, hready]

theorem step_shutDown (hr : s.request = none) (hm : s.par.mmu = .tlb64) (hts : s.ts = true) :
    step s = .fault .tlbShutdown := by
  refine step_of_beforeFetch ?_
  unfold State.beforeFetch
  rw [hr]
  refine if_pos ?_
  rw [noteCacheError_isShutDown]
  simp [State.isShutDown, hm, hts]

theorem step_standsStill (hr : s.request = none) (hc : s.inp.cacheError = none) (hd : s.isShutDown = false)
    (hs : s.standsStill = true) : step s = .next s.tick := by
  refine step_of_beforeFetch ?_
  unfold State.beforeFetch
  rw [hr]
  dsimp only
  rw [noteCacheError_none hc, hd, hs]
  rfl

/-- A cache error that is noted, or ignored, leaves the step of the state without it. -/
theorem step_cacheError (hr : s.request = none) {info : Word} (hc : s.inp.cacheError = some info) :
    (s.par.cpu.is3071 = true → bit s.cp0.sr 18 = false →
      step s = step (s.dropCacheError.setSr (setBit s.cp0.sr 20 true))) ∧
    ((s.par.cpu.is30xx = true ∧ (s.par.cpu.is3071 = false ∨ bit s.cp0.sr 18 = true)) ∨
      (s.par.cpu.is30xx = false ∧ bit s.cp0.sr 16 = true) → step s = step s.dropCacheError) := by
  have hsome : s.inp.cacheError.isNone = false := by rw [hc]; rfl
  have hnone := request_eq_none_iff.1 hr
  refine ⟨fun h71 hpz => step_noted hr (request_eq_none_iff.2 hnone) ?_ rfl,
    fun h => step_noted hr (request_eq_none_iff.2 hnone) ?_ rfl⟩
  · unfold State.noteCacheError
    rw [hsome, h71, hpz]
    rfl
  · have h71 : (s.par.cpu.is3071 && !bit s.cp0.sr 18) = false := by
      rcases h with ⟨-, h | h⟩ | ⟨h, -⟩
      · rw [h]; rfl
      · rw [h]; exact Bool.and_false _
      · rw [not_3071_of_4xxx _ h, Bool.false_and]
    unfold State.noteCacheError
    rw [hsome, h71]
    rcases h with ⟨h, -⟩ | ⟨-, h⟩ <;> simp [h]

/-! ### A fetch that stops -/

theorem runNext_of_stop {e : Stop} (h : fetchWord s = .error e) : runNext s = stopResult e := by
  unfold runNext State.fetch
  rw [h]

/-- A fetch meets an instruction cache error before its translation. -/
theorem fetchWord_cacheError {seg : Segment} {info : Word} (hl : locate s.pc .fetch 4 s = .ok (seg, s))
    (hw : s.iWatchHit s.pc = false) (hi : s.cacheErrorDue false = some info) :
    (∀ pa, s.fetchPhys s.pc seg = some pa →
      fetchWord s = .error (.exc (.cacheError (cacheErrImage info s.pc pa)) s.dropCacheError)) ∧
    (s.fetchPhys s.pc seg = none → ∃ pa, pa % 4096 = s.pc.toNat % 4096 ∧
      fetchWord s = .error (.exc (.cacheError (cacheErrImage info s.pc pa)) s.dropCacheError.useFree)) := by
  have hwatch : watchFetch s.pc s = .ok ((), s) := if_neg (by simp [hw])
  refine ⟨fun pa hp => ?_, fun hp => ?_⟩
  · refine (look_bind _ _ _).trans ((bind_ok hl).trans ((bind_ok hwatch).trans ((look_bind _ _ _).trans (bind_error ?_))))
    rw [hp]
    exact cacheCheck_hit hi _ _
  · obtain ⟨pa, hpa, hcheck⟩ := cacheCheck_hit_untranslated hi s.pc
    refine ⟨pa, hpa, (look_bind _ _ _).trans ((bind_ok hl).trans ((bind_ok hwatch).trans ((look_bind _ _ _).trans
      (bind_error ?_))))⟩
    rw [hp]
    exact hcheck

theorem fetchWord_busError {pa : Nat} {cca : BitVec 3} (ht : translate s.pc .fetch 4 s = .ok ((pa, cca), s))
    (hw : s.iWatchHit s.pc = false) (hc : s.cacheErrorDue false = none)
    (hb : s.busErrorAt (byteAddrs id pa 4) = true) : fetchWord s = .error (.exc .busErrorFetch s) := by
  obtain ⟨seg, hloc, hres⟩ := translate_split ht
  have hwatch : watchFetch s.pc s = .ok ((), s) := if_neg (by simp [hw])
  exact (look_bind _ _ _).trans ((bind_ok hloc).trans ((bind_ok hwatch).trans ((look_bind _ _ _).trans
    ((bind_ok (cacheCheck_ok _ _ hc)).trans ((bind_ok hres).trans ((look_bind _ _ _).trans
      (bind_error (raiseIf_error _ _ hb))))))))

theorem fetchWord_watch {seg : Segment} (hl : locate s.pc .fetch 4 s = .ok (seg, s)) (hw : s.iWatchHit s.pc = true)
    (hexl : s.exl = false) (herl : s.erl = false) : fetchWord s = .error (.exc (.watch true false) s) := by
  refine (look_bind _ _ _).trans ((bind_ok hl).trans (bind_error ((if_pos hw).trans (if_neg ?_))))
  rw [hexl, herl]
  exact Bool.noConfusion

end

/-- A segment resolves to what it gives, unless the cache algorithm has no meaning there. -/
theorem resolve_ok_iff {s t : State} {va : DWord} {k : Access} {seg : Segment} {r : Nat × BitVec 3} :
    resolve va k seg s = .ok (r, t) ↔
      segmentPhys va k seg s = .ok (r, t) ∧ bit r.2 2 = false ∧ (t.swapped && r.2 == 3#3) = false := by
  unfold resolve
  rw [op_bind]
  cases segmentPhys va k seg s with
  | error e => simp
  | ok q =>
    obtain ⟨q, u⟩ := q
    dsimp only
    rw [op_bind]
    cases hbit : bit q.2 2 with
    | true =>
      rw [show refuseIf true .cacheAlgorithmReserved u = .error (.refused .cacheAlgorithmReserved) from rfl]
      refine ⟨nofun, fun ⟨heq, hno, _⟩ => ?_⟩
      cases heq
      exact absurd hbit (by simp [hno])
    | false =>
      rw [show refuseIf false .cacheAlgorithmReserved u = .ok ((), u) from rfl]
      dsimp only
      rw [look_bind, op_bind]
      cases hswap : u.swapped && q.2 == 3#3 with
      | true =>
        rw [show refuseIf true .cachesSwapped u = .error (.refused .cachesSwapped) from rfl]
        refine ⟨nofun, fun ⟨heq, _, hno⟩ => ?_⟩
        cases heq
        exact absurd hswap (by simp [hno])
      | false =>
        refine ⟨fun heq => ?_, fun ⟨heq, _⟩ => heq⟩
        cases heq
        exact ⟨rfl, hbit, hswap⟩

theorem translateMapped_bounds {s : State} {va : DWord} {k : Access} (hm : s.par.mmu = .basebounds) :
    translateMapped va k s =
      .ok ((s.relocate va k, s.cp0.cAlg.extractLsb' (4 * ((lo32 va).toNat / 0x20000000)) 3), s) := by
  unfold translateMapped
  rw [hm]

/-- Translation by the R4650's unit does not look at postponed watches. -/
theorem resolve_watchI {s : State} {va : DWord} {k : Access} {seg : Segment} {r : Nat × BitVec 3}
    (hm : s.par.mmu = .basebounds) (h : resolve va k seg s = .ok (r, s)) (b : Bool) :
    resolve va k seg { s with watchI := b } = .ok (r, { s with watchI := b }) := by
  obtain ⟨hphys, hbit, hswap⟩ := resolve_ok_iff.1 h
  refine resolve_ok_iff.2 ⟨?_, hbit, hswap⟩
  cases seg with
  | addressError => cases hphys
  | direct pa cca =>
    cases hphys
    rfl
  | mapped =>
    have hr := (translateMapped_bounds hm).symm.trans hphys
    refine (translateMapped_bounds (s := { s with watchI := b }) hm).trans ?_
    cases hr
    rfl

/-- The word of a fetch that IWatch matches while EXL or ERL is set: the watch is postponed. -/
theorem fetchWord_postponed {s : State} {pa : Nat} {cca : BitVec 3} (hm : s.par.mmu = .basebounds)
    (ht : translate s.pc .fetch 4 s = .ok ((pa, cca), s)) (hw : s.iWatchHit s.pc = true) (he : (s.exl || s.erl) = true)
    (hc : s.cacheErrorDue false = none) (hb : s.busErrorAt (byteAddrs id pa 4) = false) :
    fetchWord s = .ok (lo32 (ofBytes s.par.bigEndianMem (memReadList s.mem (byteAddrs id pa 4))),
      { s with watchI := true }) := by
  obtain ⟨seg, hloc, hres⟩ := translate_split ht
  have hwatch : watchFetch s.pc s = .ok ((), { s with watchI := true }) := by
    refine (if_pos hw).trans ((if_pos he).trans ?_)
    rw [Bool.or_true, Bool.or_false]
  have hc' : State.cacheErrorDue { s with watchI := true } false = none := hc
  have hb' : State.busErrorAt { s with watchI := true } (byteAddrs id pa 4) = false := hb
  exact (look_bind _ _ _).trans ((bind_ok hloc).trans ((bind_ok hwatch).trans ((look_bind _ _ _).trans
    ((bind_ok (cacheCheck_ok _ _ hc')).trans ((bind_ok (resolve_watchI hm hres true)).trans ((look_bind _ _ _).trans
      (bind_ok (raiseIf_ok _ _ hb'))))))))

theorem mmu_basebounds {p : Params} (h : p.cpu.is4650 = true) : p.mmu = .basebounds := by
  unfold Params.mmu
  rw [not_orion_of_4650 _ h, h]
  rfl

/-! ### The instruction at pc and what its fetch meets -/

section
variable {s : State}

theorem ready_iWatchHit (s : State) : s.ready.iWatchHit s.ready.pc = s.iWatchHit s.pc := by
  obtain ⟨hpc, hpar, -, -, hiw⟩ := ready_kept s
  unfold State.iWatchHit
  rw [hpc, hpar, hiw]

theorem ready_busErrorAt (s : State) (as : List Nat) : s.ready.busErrorAt as = s.busErrorAt as := by
  obtain ⟨-, -, -, hberr, -⟩ := ready_kept s
  unfold State.busErrorAt
  rw [hberr]

/-- An R4xxx or R5000 keeps a cache error that is an exception until the access that meets it. -/
theorem ready_of_meets {d : Bool} {info : Word} (h : s.MeetsCacheError d info) : s.ready = { s with halted := false } := by
  obtain ⟨herr, -, h30, hde⟩ := h
  have h71 : s.par.cpu.is3071 = false := not_3071_of_4xxx _ h30
  unfold State.ready State.noteCacheError
  rw [herr, h71, h30, hde]
  rfl

/-- The modes of an R4650 are read through the end of a standstill. -/
theorem ready_levels (h : s.par.cpu.is4650 = true) : s.ready.exl = s.exl ∧ s.ready.erl = s.erl := by
  have h71 : s.par.cpu.is3071 = false := not_3071_of_4650 _ h
  unfold State.ready State.noteCacheError
  rw [h71]
  split
  · exact ⟨rfl, rfl⟩
  · split
    · contradiction
    · split <;> exact ⟨rfl, rfl⟩

theorem step_of_stop (hb : s.beforeFetch = none) {e : Exc} {t : State} (h : fetchWord s.ready = .error (.exc e t)) :
    step s = .next (takeException e t).tick := by
  rw [step_of_beforeFetch_none hb, runNext_of_stop h]
  rfl

end

/-- A fetch that meets a cache error takes it, whether or not its address translates. -/
theorem step_fetchCacheError {s : State} {info : Word} {seg : Segment} (hb : s.beforeFetch = none)
    (hl : locate s.pc .fetch 4 s.ready = .ok (seg, s.ready)) (hw : s.iWatchHit s.pc = false)
    (hi : s.MeetsCacheError false info) :
    (∀ pa, s.ready.fetchPhys s.pc seg = some pa →
      step s = .next (takeException (.cacheError (cacheErrImage info s.pc pa)) s.ready.dropCacheError).tick) ∧
    (s.ready.fetchPhys s.pc seg = none → ∃ pa, pa % 4096 = s.pc.toNat % 4096 ∧
      step s = .next (takeException (.cacheError (cacheErrImage info s.pc pa)) s.ready.dropCacheError.useFree).tick) := by
  have hpc := (ready_kept s).1
  have hdue : s.ready.cacheErrorDue false = some info := by
    rw [ready_of_meets hi]
    exact hi.due
  obtain ⟨hsome, hnone⟩ := fetchWord_cacheError (s := s.ready) (by rw [hpc]; exact hl) ((ready_iWatchHit s).trans hw) hdue
  rw [hpc] at hsome hnone
  exact ⟨fun pa hp => step_of_stop hb (hsome pa hp), fun hp => (hnone hp).imp fun pa ⟨hpa, hf⟩ => ⟨hpa, step_of_stop hb hf⟩⟩

/-- Settles O44. -/
theorem interruptIsTaken : Obligations.InterruptIsTaken := by
  refine ⟨fun s hr hc hd hs => ?_, fun s => ⟨?_, rfl, fun i hi => (bit_setBit _ _ _ _).trans (if_neg (by omega))⟩,
    fun s hr => ⟨step_shutDown hr, fun hc hts hh hl => ?_, fun info => step_cacheError hr⟩,
    fun s info seg => step_fetchCacheError, fun s info pa cca hb ht hw hi => ?_, fun s pa cca hb ht hw hc hbus => ?_,
    fun s pa cca i hb ht h46 hen haddr => ?_⟩
  · obtain ⟨hwatch, hint, hrun⟩ := step_quiet hr hc hd hs
    intro due taken
    refine ⟨fun h => hwatch (watchDue_iff.2 h), fun hnd ht => hint ?_ (interruptReady_iff.2 ht), fun hnd hnt => hrun ?_ ?_⟩
    · exact Bool.eq_false_iff.2 fun h => hnd (watchDue_iff.1 h)
    · exact Bool.eq_false_iff.2 fun h => hnd (watchDue_iff.1 h)
    · exact Bool.eq_false_iff.2 fun h => hnt (interruptReady_iff.1 h)
  · exact (bit_setBit _ _ _ _).trans (if_pos (by omega))
  · refine step_standsStill hr hc ?_ ?_
    · cases hsd : s.isShutDown with
      | false => rfl
      | true =>
        obtain ⟨hm, ht⟩ := (Bool.and_eq_true _ _).mp hsd
        exact absurd ht (by simp [hts (by simpa using hm)])
    · rw [State.causeVal, extractLsb'_setField_same _ _ _ (by omega)] at hl
      simp [State.standsStill, hh, hl]
  · obtain ⟨seg, hloc, hres⟩ := translate_split ht
    exact (step_fetchCacheError hb hloc hw hi).1 pa (fetchPhys_eq hres)
  · refine step_of_stop hb (fetchWord_busError (pa := pa) (cca := cca) ?_ ((ready_iWatchHit s).trans hw) hc ?_)
    · rw [(ready_kept s).1]
      exact ht
    · rw [ready_busErrorAt]
      exact hbus
  · obtain ⟨hpc, hpar, hmem, -, -⟩ := ready_kept s
    have hw : s.ready.iWatchHit s.ready.pc = true := by
      rw [ready_iWatchHit]
      simp [State.iWatchHit, h46, hen, haddr]
    have ht' : translate s.ready.pc .fetch 4 s.ready = .ok ((pa, cca), s.ready) := by
      rw [hpc]
      exact ht
    obtain ⟨hexl, herl⟩ := ready_levels h46
    refine ⟨fun h1 h2 => ?_, fun he hc hbus hdecode => ?_⟩
    · obtain ⟨seg, hloc, -⟩ := translate_split ht'
      exact step_of_stop hb (fetchWord_watch hloc hw (hexl.trans h1) (herl.trans h2))
    · have hf := fetchWord_postponed (s := s.ready) (by rw [hpar]; exact mmu_basebounds h46) ht' hw
        (by rw [hexl, herl]; exact Bool.or_eq_true _ _ ▸ he) hc (by rw [ready_busErrorAt]; exact hbus)
      rw [step_of_beforeFetch_none hb, runNext_of_fetch hf]
      rw [hpar, hmem]
      exact hdecode

end Sys2Proof.Machine
end

section
/-! PROOFS. Translation: the fixed windows of kernel mode, and kuseg by each member's unit. -/

namespace Sys2Proof.Machine

/-! ### Fields of an address -/

theorem toNat_lo32 (va : DWord) : (lo32 va).toNat = va.toNat % 2 ^ 32 := BitVec.toNat_setWidth _ _

theorem toNat_field {n : Nat} (x : BitVec n) (lo w : Nat) : (x.extractLsb' lo w).toNat = x.toNat / 2 ^ lo % 2 ^ w := by
  rw [BitVec.extractLsb'_toNat, Nat.shiftRight_eq_div_pow]

theorem bit_toNat {n : Nat} (x : BitVec n) (i : Nat) : bit x i = decide (x.toNat / 2 ^ i % 2 = 1) :=
  Nat.testBit_eq_decide_div_mod_eq

/-- An address of the top two gigabytes is a sign-extended word. -/
theorem isWord_of_top {va : DWord} (h : 0xFFFFFFFF80000000 ≤ va.toNat) : isWord va = true := by
  have hmsb : (va.setWidth 32).msb = true := by
    rw [BitVec.msb_eq_decide, BitVec.toNat_setWidth]
    have := va.isLt
    exact decide_eq_true (by omega)
  unfold isWord sextLo sext lo32
  rw [beq_iff_eq, ← BitVec.toNat_inj, BitVec.toNat_signExtend, hmsb, if_pos rfl, BitVec.toNat_setWidth,
    BitVec.toNat_setWidth]
  have := va.isLt
  omega

/-! ### From the segment to the answer -/

section Segments
variable {s : State} {va : DWord} {k : Access} {n pa : Nat} {cca : BitVec 3} {m : Mode}

theorem swapped_4xxx (h : s.par.cpu.is30xx = false) : s.swapped = false := by
  unfold State.swapped
  rw [h]
  rfl

/-- Base-bounds concerns the R4650's kuseg only. -/
theorem bounds_free (h : s.boundsMapped va = false) : s.boundsUnsettled va = false ∧ s.outOfBounds va k = false := by
  unfold State.boundsUnsettled State.outOfBounds
  rw [h]
  exact ⟨rfl, rfl⟩

/-- An aligned address that the bounds let through is translated by its segment. -/
theorem translate_segment (hm : s.mode? = some m) (hu : s.boundsUnsettled va = false) (hb : s.outOfBounds va k = false)
    (hn : va.toNat % n = 0) {seg : Segment} (hseg : s.segment m va = seg) (hne : seg ≠ .addressError) :
    translate va k n s = resolve va k seg s := by
  subst hseg
  exact bind_ok ((locate_eq hm hu hb hn).trans (if_neg hne))

theorem resolve_refused_swapped {seg : Segment} (h : segmentPhys va k seg s = .ok ((pa, 3#3), s))
    (hs : s.swapped = true) : resolve va k seg s = .error (.refused .cachesSwapped) := by
  have hcca : bit (pa, 3#3).2 2 = false := show bit 3#3 2 = false by decide
  refine (bind_ok h).trans ((bind_ok (refuseIf_ok _ _ hcca)).trans ((look_bind _ _ _).trans (bind_error ?_)))
  rw [hs]
  rfl

/-- An address of an unmapped segment. -/
theorem translate_direct (hm : s.mode? = some m) (hb : s.boundsMapped va = false) (hn : va.toNat % n = 0)
    (hseg : s.segment m va = .direct pa cca) (hc : bit cca 2 = false) (hs : s.swapped = true → cca ≠ 3#3) :
    translate va k n s = .ok ((pa, cca), s) := by
  obtain ⟨hu, ho⟩ := bounds_free (k := k) hb
  refine (translate_segment hm hu ho hn hseg nofun).trans (resolve_ok_iff.2 ⟨rfl, hc, ?_⟩)
  cases hsw : s.swapped with
  | false => rfl
  | true => simpa using hs hsw

/-- A cached access in an unmapped segment while the caches are swapped. -/
theorem translate_direct_swapped (hm : s.mode? = some m) (hb : s.boundsMapped va = false) (hn : va.toNat % n = 0)
    (hseg : s.segment m va = .direct pa 3#3) (hs : s.swapped = true) :
    translate va k n s = .error (.refused .cachesSwapped) := by
  obtain ⟨hu, ho⟩ := bounds_free (k := k) hb
  exact (translate_segment hm hu ho hn hseg nofun).trans (resolve_refused_swapped rfl hs)

/-! ### The segments by member -/

theorem not_30xx_of_4650 {c : Cpu} (h : c.is4650 = true) : c.is30xx = false := by
  cases c with
  | r4650 => rfl
  | r4640 => rfl
  | _ => cases h

theorem not_30xx_of_orion {c : Cpu} (h : c.isOrionTlb = true) : c.is30xx = false ∧ c.is4650 = false := by
  cases c with
  | r4600 => exact ⟨rfl, rfl⟩
  | r4700 => exact ⟨rfl, rfl⟩
  | r5000 => exact ⟨rfl, rfl⟩
  | _ => cases h

theorem not_4650_of_30xx {c : Cpu} (h : c.is30xx = true) : c.is4650 = false := by
  cases h46 : c.is4650 with
  | false => rfl
  | true => exact absurd h (by simp [not_30xx_of_4650 h46])

theorem segment_30xx (h : s.par.cpu.is30xx = true) : s.segment m va = segment30xx (s.par.mmu == .tlb64) m va := if_pos h

theorem segment_4650 (h : s.par.cpu.is4650 = true) : s.segment m va = segment4650 s.cp0.cAlg s.erl m va :=
  (if_neg (by simp [not_30xx_of_4650 h])).trans (if_pos h)

theorem segment_orion (h : s.par.cpu.isOrionTlb = true) : s.segment m va =
    if s.addr64 m then segmentOrion64 (s.cp0.config.extractLsb' 0 3) s.erl m va
    else segmentOrion32 (s.cp0.config.extractLsb' 0 3) s.erl m va := by
  obtain ⟨h30, h46⟩ := not_30xx_of_orion h
  exact (if_neg (by simp [h30])).trans (if_neg (by simp [h46]))

theorem member_cases (p : Params) : p.cpu.is30xx = true ∨ p.cpu.is4650 = true ∨ p.cpu.isOrionTlb = true := by
  cases p.cpu <;> decide

end Segments

/-! ### kseg0 and kseg1 -/

/-- The address at offset `a` of the top four gigabytes, above the first two of them. -/
theorem high_address {a : Nat} {va : DWord} (hva : va.toNat = 0xFFFFFFFF00000000 + a) (h : 0x80000000 ≤ a) :
    (lo32 va).toNat = a ∧ isWord va = true ∧ bit va 31 = true := by
  have hlt := va.isLt
  refine ⟨?_, isWord_of_top (by omega), ?_⟩
  · rw [toNat_lo32]
    omega
  · rw [bit_toNat]
    exact decide_eq_true (by omega)

/-- The compatible segments of kernel mode where 64-bit addresses are enabled. -/
theorem segmentOrion64_top {k0 : BitVec 3} {erl : Bool} {m : Mode} {va : DWord} (h : 0xFFFFFFFF80000000 ≤ va.toNat) :
    segmentOrion64 k0 erl m va = segmentCompat k0 m (lo32 va).toNat := by
  unfold segmentOrion64
  dsimp only
  rw [if_neg (by omega), if_neg (by omega), if_neg (by omega), if_neg (by omega), if_pos h]

theorem segmentOrion32_word {k0 : BitVec 3} {erl : Bool} {m : Mode} {va : DWord} (hw : isWord va = true)
    (h : 0x80000000 ≤ (lo32 va).toNat) : segmentOrion32 k0 erl m va = segmentCompat k0 m (lo32 va).toNat := by
  unfold segmentOrion32
  dsimp only
  rw [hw, if_neg (by simp), if_neg (by omega)]

theorem segment_orion_top {s : State} {m : Mode} {va : DWord} (h : s.par.cpu.isOrionTlb = true)
    (hva : 0xFFFFFFFF80000000 ≤ va.toNat) :
    s.segment m va = segmentCompat (s.cp0.config.extractLsb' 0 3) m (lo32 va).toNat := by
  rw [segment_orion h]
  split
  · exact segmentOrion64_top hva
  · refine segmentOrion32_word (isWord_of_top hva) ?_
    have := va.isLt
    rw [toNat_lo32]
    omega

/-- A cache algorithm is not one of the reserved ones where its high bit is clear. -/
theorem bit_algorithm (x : Word) (lo : Nat) : bit (x.extractLsb' lo 3) 2 = bit x (lo + 2) :=
  (BitVec.getLsbD_extractLsb' ..).trans (Bool.true_and _)

/-- What kernel mode's segment gives an address of kseg0, with the cache algorithm. -/
theorem segment_kseg0 {s : State} {va : DWord} {off : Nat} (hva : va.toNat = 0xFFFFFFFF00000000 + (0x80000000 + off))
    (hoff : off < 0x20000000) (h46 : s.par.cpu.is4650 = true → bit s.cp0.cAlg 18 = false)
    (hor : s.par.cpu.isOrionTlb = true → bit s.cp0.config 2 = false) :
    ∃ cca, s.segment .kernel va = .direct off cca ∧ bit cca 2 = false ∧ (s.par.cpu.is30xx = true → cca = 3#3) := by
  obtain ⟨hlo, -, -⟩ := high_address hva (by omega)
  have hsub : 0x80000000 + off - 0x80000000 = off := by omega
  rcases member_cases s.par with h | h | h
  · refine ⟨3#3, ?_, by decide, fun _ => rfl⟩
    rw [segment_30xx h, segment30xx, hlo, if_neg (by simp), if_neg (by omega), if_pos (by omega), hsub]
  · refine ⟨s.cp0.cAlg.extractLsb' 16 3, ?_, (bit_algorithm _ _).trans (h46 h), fun h30 => ?_⟩
    · rw [segment_4650 h, segment4650, hlo, if_neg (by simp), if_neg (by omega), if_pos (by omega), hsub,
        show 4 * ((0x80000000 + off) / 0x20000000) = 16 by omega]
    · exact absurd h30 (by simp [not_30xx_of_4650 h])
  · refine ⟨s.cp0.config.extractLsb' 0 3, ?_, (bit_algorithm _ _).trans (hor h), fun h30 => ?_⟩
    · rw [segment_orion_top h (by omega), hlo, segmentCompat, if_pos (by omega), hsub]
    · exact absurd h30 (by simp [not_30xx_of_orion h])

/-- The same of kseg1. -/
theorem segment_kseg1 {s : State} {va : DWord} {off : Nat} (hva : va.toNat = 0xFFFFFFFF00000000 + (0xA0000000 + off))
    (hoff : off < 0x20000000) (h46 : s.par.cpu.is4650 = true → bit s.cp0.cAlg 22 = false) :
    ∃ cca, s.segment .kernel va = .direct off cca ∧ bit cca 2 = false ∧ (s.par.cpu.is4650 = false → cca = 2#3) := by
  obtain ⟨hlo, -, -⟩ := high_address hva (by omega)
  have hsub : 0xA0000000 + off - 0xA0000000 = off := by omega
  rcases member_cases s.par with h | h | h
  · refine ⟨2#3, ?_, by decide, fun _ => rfl⟩
    rw [segment_30xx h, segment30xx, hlo, if_neg (by simp), if_neg (by omega), if_neg (by omega), if_pos (by omega), hsub]
  · refine ⟨s.cp0.cAlg.extractLsb' 20 3, ?_, (bit_algorithm _ _).trans (h46 h), fun hno => absurd h (by simp [hno])⟩
    rw [segment_4650 h, segment4650, hlo, if_neg (by simp), if_neg (by omega), if_neg (by omega), if_pos (by omega), hsub,
      show 4 * ((0xA0000000 + off) / 0x20000000) = 20 by omega]
  · refine ⟨2#3, ?_, by decide, fun _ => rfl⟩
    rw [segment_orion_top h (by omega), hlo, segmentCompat, if_neg (by omega), if_pos (by omega), hsub]

theorem boundsMapped_high {s : State} {va : DWord} (h : bit va 31 = true) : s.boundsMapped va = false := by
  unfold State.boundsMapped
  rw [h]
  exact Bool.and_false _

theorem is30xx_of_swapped {s : State} (h : s.swapped = true) : s.par.cpu.is30xx = true := by
  cases h30 : s.par.cpu.is30xx with
  | true => rfl
  | false => exact absurd h (by simp [swapped_4xxx h30])

/-- User mode has no segment above the lower half of the words. -/
theorem segment_user_upper {s : State} {va : DWord} (hw : isWord va = true) (hva : bit va 31 = true)
    (ha : s.addr64 .user = false) : s.segment .user va = .addressError := by
  have hlo : 0x80000000 ≤ (lo32 va).toNat := by
    rw [bit_toNat, decide_eq_true_eq] at hva
    rw [toNat_lo32]
    omega
  rcases member_cases s.par with h | h | h
  · rw [segment_30xx h]
    exact if_pos ⟨rfl, hlo⟩
  · rw [segment_4650 h]
    exact if_pos ⟨rfl, hlo⟩
  · rw [segment_orion h, ha, if_neg (by simp), segmentOrion32_word hw hlo]
    rfl

/-- Settles O45. -/
theorem fixedSegments : Obligations.FixedSegments := by
  refine ⟨fun s off k hm hoff h4 h46 hor => ?_, fun s va k n hm ha hw hva hn => ?_⟩
  · have h0 : (0xFFFFFFFF80000000#64 + BitVec.ofNat 64 off).toNat = 0xFFFFFFFF00000000 + (0x80000000 + off) := by
      rw [BitVec.toNat_add, BitVec.toNat_ofNat, BitVec.toNat_ofNat]
      omega
    have h1 : (0xFFFFFFFFA0000000#64 + BitVec.ofNat 64 off).toNat = 0xFFFFFFFF00000000 + (0xA0000000 + off) := by
      rw [BitVec.toNat_add, BitVec.toNat_ofNat, BitVec.toNat_ofNat]
      omega
    obtain ⟨cca, hseg, hcca, h30⟩ := segment_kseg0 h0 hoff (fun h => (h46 h).1) hor
    obtain ⟨cca', hseg', hcca', hunc⟩ := segment_kseg1 h1 hoff fun h => (h46 h).2
    have hb0 := boundsMapped_high (s := s) (high_address h0 (by omega)).2.2
    have hb1 := boundsMapped_high (s := s) (high_address h1 (by omega)).2.2
    refine ⟨fun hs => ⟨cca, ?_⟩, fun hs => ?_, cca', ?_, hunc⟩
    · exact translate_direct hm hb0 (by omega) hseg hcca fun h => absurd h (by simp [hs])
    · rw [h30 (is30xx_of_swapped hs)] at hseg
      exact translate_direct_swapped hm hb0 (by omega) hseg hs
    · refine translate_direct hm hb1 (by omega) hseg' hcca' fun hs => ?_
      rw [hunc (not_4650_of_30xx (is30xx_of_swapped hs))]
      decide
  · obtain ⟨hu, hb⟩ := bounds_free (s := s) (k := k) (boundsMapped_high hva)
    exact bind_error ((locate_eq hm hu hb hn).trans (if_pos (segment_user_upper hw hva ha)))

/-! ### Members by their translation unit -/

theorem is30xx_of_fixed {p : Params} (h : p.mmu = .fixed) : p.cpu.is30xx = true := by
  unfold Params.mmu at h
  rcases member_cases p with h30 | h46 | hor
  · exact h30
  · rw [h46] at h
    split at h <;> cases h
  · rw [hor] at h
    cases h

theorem is30xx_of_tlb64 {p : Params} (h : p.mmu = .tlb64) : p.cpu.is30xx = true := by
  unfold Params.mmu at h
  rcases member_cases p with h30 | h46 | hor
  · exact h30
  · rw [h46] at h
    split at h <;> cases h
  · rw [hor] at h
    cases h

theorem isOrion_of_tlb48 {p : Params} (h : p.mmu = .tlb48) : p.cpu.isOrionTlb = true := by
  unfold Params.mmu at h
  rcases Bool.eq_false_or_eq_true p.cpu.isOrionTlb with hor | hor
  · exact hor
  · rw [hor, if_neg (by simp)] at h
    split at h
    · cases h
    · split at h <;> cases h

theorem boundsMapped_not_4650 {s : State} (h : s.par.cpu.is4650 = false) (va : DWord) : s.boundsMapped va = false := by
  unfold State.boundsMapped
  rw [h]
  rfl

theorem boundsMapped_erl {s : State} (h : s.erl = true) (va : DWord) : s.boundsMapped va = false := by
  unfold State.boundsMapped
  rw [h, Bool.not_true, Bool.and_false]
  rfl

/-! ### kuseg -/

section Kuseg
variable {s : State} {va : DWord} {k : Access} {n : Nat} {m : Mode}

theorem toNat_lo32_low (h : va.toNat < 0x80000000) : (lo32 va).toNat = va.toNat := by
  rw [toNat_lo32]
  omega

theorem segment_kuseg_30xx (h : s.par.cpu.is30xx = true) (hva : va.toNat < 0x80000000) :
    s.segment m va = if s.par.mmu == .tlb64 then .mapped else .direct (va.toNat + 0x40000000) 3#3 := by
  rw [segment_30xx h, segment30xx, toNat_lo32_low hva, if_neg (by omega), if_pos hva]

theorem segment_kuseg_4650 (h : s.par.cpu.is4650 = true) (hva : va.toNat < 0x80000000) :
    s.segment m va = if s.erl then .direct va.toNat 2#3 else .mapped := by
  rw [segment_4650 h, segment4650, toNat_lo32_low hva, if_neg (by omega), if_pos hva]

theorem segment_kuseg_orion (h : s.par.cpu.isOrionTlb = true) (hva : va.toNat < 0x80000000) :
    s.segment m va = if s.erl then .direct va.toNat 2#3 else .mapped := by
  rw [segment_orion h]
  split
  · unfold segmentOrion64
    dsimp only
    rw [if_pos (by omega)]
    cases s.erl with
    | true => exact if_pos ⟨rfl, hva⟩
    | false => exact if_neg (by simp)
  · unfold segmentOrion32
    dsimp only
    rw [isWord_lt hva, toNat_lo32_low hva, if_neg (by simp), if_pos hva]

/-- A mapped address that stops in the TLB stops the access. -/
theorem translate_mapped_error (hm : s.mode? = some m) (hu : s.boundsUnsettled va = false)
    (hb : s.outOfBounds va k = false) (hn : va.toNat % n = 0) (hseg : s.segment m va = .mapped) {e : Stop}
    (h : translateMapped va k s = .error e) : translate va k n s = .error e :=
  (translate_segment hm hu hb hn hseg nofun).trans (bind_error h)

theorem translate_mapped_ok (hm : s.mode? = some m) (hu : s.boundsUnsettled va = false)
    (hb : s.outOfBounds va k = false) (hn : va.toNat % n = 0) (hseg : s.segment m va = .mapped) {pa : Nat} {cca : BitVec 3}
    (h : translateMapped va k s = .ok ((pa, cca), s)) (hc : bit cca 2 = false) (hs : s.swapped = true → cca ≠ 3#3) :
    translate va k n s = .ok ((pa, cca), s) := by
  refine (translate_segment hm hu hb hn hseg nofun).trans (resolve_ok_iff.2 ⟨h, hc, ?_⟩)
  cases hsw : s.swapped with
  | false => rfl
  | true => simpa using hs hsw

/-! ### The R30xx TLB -/

theorem isStore_of_ne (h : k ≠ .store) : k.isStore = false := by
  cases k with
  | store => exact absurd rfl h
  | _ => rfl

/-- An access that is no store, or a page that may be written, passes the check of D. -/
theorem mayAccess {d : Bool} (h : d = true ∨ k ≠ .store) : (k.isStore && !d) = false := by
  rcases h with h | h
  · rw [h]
    exact Bool.and_false _
  · rw [isStore_of_ne h]
    rfl

theorem translateMapped_tlb64 (hmmu : s.par.mmu = .tlb64) : translateMapped va k s = translate64 va k s := by
  unfold translateMapped
  rw [hmmu]

theorem translate64_none (h : s.tlb64Hits (va.extractLsb' 12 20) (s.cp0.entryHi.extractLsb' 6 6) = []) :
    translate64 va k s = .error (.exc (.tlbRefill va k.isStore) s) := by
  unfold translate64
  rw [h]

theorem translate64_several (h : 2 ≤ (s.tlb64Hits (va.extractLsb' 12 20) (s.cp0.entryHi.extractLsb' 6 6)).length) :
    translate64 va k s = .error (.exc .tlbShutdown s) := by
  obtain ⟨a, b, l, hl⟩ := two_le_length_cases h
  unfold translate64
  rw [hl]

theorem translate64_one {e : Tlb64Entry} {i : Nat}
    (h : s.tlb64Hits (va.extractLsb' 12 20) (s.cp0.entryHi.extractLsb' 6 6) = [(e, i)]) :
    translate64 va k s = if !e.v then .error (.exc (.tlbInvalid va k.isStore) s)
      else if k.isStore && !e.d then .error (.exc (.tlbModified va) s)
      else .ok ((e.pfn.toNat * 4096 + va.toNat % 4096, if e.n then 2#3 else 3#3), s) := by
  unfold translate64
  rw [h]

/-! ### The Orion TLB -/

theorem translateMapped_tlb48 (hmmu : s.par.mmu = .tlb48) : translateMapped va k s = translate48 va k s := by
  unfold translateMapped
  rw [hmmu]

theorem region_kuseg (hva : va.toNat < 0x80000000) : va.extractLsb' 62 2 = 0#2 := by
  rw [← BitVec.toNat_inj, toNat_field, BitVec.toNat_ofNat]
  omega

theorem translate48_none (hva : va.toNat < 0x80000000)
    (h : s.tlb48Hits 0#2 (va.extractLsb' 13 27) (s.cp0.entryHi.extractLsb' 0 8) = []) :
    translate48 va k s = .error (.exc (.tlbRefill va k.isStore) s) := by
  unfold translate48
  rw [region_kuseg hva, h]

theorem translate48_several (hva : va.toNat < 0x80000000)
    (h : 2 ≤ (s.tlb48Hits 0#2 (va.extractLsb' 13 27) (s.cp0.entryHi.extractLsb' 0 8)).length) :
    translate48 va k s = .error (.refused .tlbMultipleMatch) := by
  obtain ⟨a, b, l, hl⟩ := two_le_length_cases h
  unfold translate48
  rw [region_kuseg hva, hl]

theorem translate48_one (hva : va.toNat < 0x80000000) {e : Tlb48Entry} {i : Nat}
    (h : s.tlb48Hits 0#2 (va.extractLsb' 13 27) (s.cp0.entryHi.extractLsb' 0 8) = [(e, i)]) :
    let size := pageBytes e.mask
    let page := if va.toNat / size % 2 = 0 then e.even else e.odd
    translate48 va k s = if !page.v then .error (.exc (.tlbInvalid va k.isStore) s)
      else if k.isStore && !page.d then .error (.exc (.tlbModified va) s)
      else .ok ((page.pfn.toNat * 4096 / size * size + va.toNat % size, page.c), s) := by
  unfold translate48
  rw [region_kuseg hva, h]

/-! ### Base and bounds -/

theorem boundsMapped_kuseg (h46 : s.par.cpu.is4650 = true) (herl : s.erl = false) (hva : va.toNat < 0x80000000) :
    s.boundsMapped va = true := by
  have hbit : bit va 31 = false := by
    rw [bit_toNat]
    exact decide_eq_false (by omega)
  unfold State.boundsMapped
  rw [h46, herl, hbit]
  rfl

theorem outOfBounds_kuseg (h46 : s.par.cpu.is4650 = true) (herl : s.erl = false) (hva : va.toNat < 0x80000000) :
    s.outOfBounds va k = decide (((if k = .fetch then s.cp0.iBound else s.cp0.dBound).extractLsb' 12 19).toNat <
      va.toNat / 4096) := by
  have hpage : (va.extractLsb' 12 19).toNat = va.toNat / 4096 := by
    rw [toNat_field]
    omega
  unfold State.outOfBounds
  rw [boundsMapped_kuseg h46 herl hva, ← hpage]
  exact Bool.true_and _

theorem relocate_eq (s : State) (va : DWord) (k : Access) : s.relocate va k =
    (va.toNat / 4096 + (if k = .fetch then s.cp0.iBase else s.cp0.dBase).toNat / 4096) % 2 ^ 20 * 4096 + va.toNat % 4096 := by
  unfold State.relocate
  dsimp only
  generalize (if k = .fetch then s.cp0.iBase else s.cp0.dBase) = base
  have hbase := base.isLt
  rw [BitVec.toNat_add, toNat_field, toNat_field]
  congr 2
  omega

end Kuseg

/-- Settles O46. -/
theorem mappedTranslation : Obligations.MappedTranslation := by
  refine ⟨fun s va k n hm hmmu hn hs hva => ?_, fun s va k n m hm hva hn => ⟨fun hmmu => ?_, fun hmmu => ?_,
    fun hmmu herl => ?_, fun h46 herl hopen => ?_, fun hmem herl => ?_⟩⟩
  · have h30 := is30xx_of_fixed hmmu
    refine translate_direct hm (boundsMapped_not_4650 (not_4650_of_30xx h30) va) hn ?_ (by decide)
      fun h => absurd h (by simp [hs])
    rw [segment_30xx h30, hmmu, segment30xx, if_neg (by simp), if_neg (by omega), if_neg (by omega), if_neg (by omega)]
    rfl
  · have h30 := is30xx_of_fixed hmmu
    have hb := boundsMapped_not_4650 (not_4650_of_30xx h30) va
    have hseg : s.segment m va = .direct (va.toNat + 0x40000000) 3#3 := by
      rw [segment_kuseg_30xx h30 hva, hmmu]
      rfl
    exact ⟨fun hs => translate_direct hm hb hn hseg (by decide) fun h => absurd h (by simp [hs]),
      translate_direct_swapped hm hb hn hseg⟩
  · have h30 := is30xx_of_tlb64 hmmu
    obtain ⟨hu, hb⟩ := bounds_free (k := k) (boundsMapped_not_4650 (not_4650_of_30xx h30) va)
    have hseg : s.segment m va = .mapped := by
      rw [segment_kuseg_30xx h30 hva, hmmu]
      rfl
    have stops {e : Stop} (h : translate64 va k s = .error e) : translate va k n s = .error e :=
      translate_mapped_error hm hu hb hn hseg ((translateMapped_tlb64 hmmu).trans h)
    refine ⟨fun h => stops (translate64_none h), fun h => stops (translate64_several h), fun e i h => ?_⟩
    have hone := translate64_one (k := k) h
    refine ⟨fun hv => stops (hone.trans ?_), fun hv hd hk => stops (hone.trans ?_), fun hv hd hsw => ?_⟩
    · rw [hv]
      rfl
    · rw [hv, hd, hk]
      rfl
    · have hkd := mayAccess hd
      refine translate_mapped_ok hm hu hb hn hseg ((translateMapped_tlb64 hmmu).trans (hone.trans ?_)) ?_ fun hs => ?_
      · rw [hv, hkd]
        rfl
      · cases e.n <;> decide
      · rw [hsw hs]
        decide
  · have hor := isOrion_of_tlb48 hmmu
    obtain ⟨h30, h46⟩ := not_30xx_of_orion hor
    obtain ⟨hu, hb⟩ := bounds_free (k := k) (boundsMapped_not_4650 h46 va)
    have hseg : s.segment m va = .mapped := by
      rw [segment_kuseg_orion hor hva, herl]
      rfl
    have stops {e : Stop} (h : translate48 va k s = .error e) : translate va k n s = .error e :=
      translate_mapped_error hm hu hb hn hseg ((translateMapped_tlb48 hmmu).trans h)
    refine ⟨fun h => stops (translate48_none hva h), fun h => stops (translate48_several hva h), fun e i h => ?_⟩
    intro size page
    have hone : translate48 va k s = if !page.v then .error (.exc (.tlbInvalid va k.isStore) s)
      else if k.isStore && !page.d then .error (.exc (.tlbModified va) s)
      else .ok ((page.pfn.toNat * 4096 / size * size + va.toNat % size, page.c), s) := translate48_one hva h
    have hsize : 0 < size := Nat.mul_pos (by decide) (Nat.succ_pos _)
    refine ⟨fun hv => stops (hone.trans ?_), fun hv hd hk => stops (hone.trans ?_), fun hv hd hc =>
      ⟨page.pfn.toNat * 4096 / size * size + va.toNat % size, ?_, ?_, ?_⟩⟩
    · rw [hv]
      rfl
    · rw [hv, hd, hk]
      rfl
    · have hkd := mayAccess hd
      refine translate_mapped_ok hm hu hb hn hseg ((translateMapped_tlb48 hmmu).trans (hone.trans ?_)) hc fun hs =>
        absurd hs (by simp [swapped_4xxx h30])
      rw [hv, hkd]
      rfl
    · rw [Nat.mul_comm, Nat.mul_add_mod, Nat.mod_mod]
    · rw [Nat.mul_comm, Nat.mul_add_div hsize, Nat.div_eq_of_lt (Nat.mod_lt _ hsize), Nat.add_zero]
  · have hseg : s.segment m va = .mapped := by
      rw [segment_kuseg_4650 h46 hva, herl]
      rfl
    have hu : s.boundsUnsettled va = false := by
      unfold State.boundsUnsettled
      rw [hopen]
      exact Bool.and_false _
    have hout := outOfBounds_kuseg (k := k) h46 herl hva
    intro bound base cca
    refine ⟨fun h => translate_outOfBounds hm hu (hout.trans (decide_eq_true h)), fun h hc => ?_⟩
    refine translate_mapped_ok hm hu (hout.trans (decide_eq_false (Nat.not_lt.2 h))) hn hseg ?_ hc fun hs =>
      absurd hs (by simp [swapped_4xxx (not_30xx_of_4650 h46)])
    rw [translateMapped_bounds (mmu_basebounds h46), relocate_eq, toNat_lo32_low hva]
  · have hseg : s.segment m va = .direct va.toNat 2#3 := by
      rcases hmem with h46 | h48
      · rw [segment_kuseg_4650 h46 hva, herl]
        rfl
      · rw [segment_kuseg_orion (isOrion_of_tlb48 h48) hva, herl]
        rfl
    exact translate_direct hm (boundsMapped_erl herl va) hn hseg (by decide) fun _ => by decide

end Sys2Proof.Machine
end

section
/-! PROOFS. The moves of coprocessor 1: between the register files, of the control registers, and of formatted values. -/

namespace Sys2Proof.Machine

/-! ### Moves between the register files -/

theorem lo32_zext (w : Word) : lo32 (zext w) = w := by
  apply BitVec.eq_of_toNat_eq
  simp [lo32, zext]

section Moves
variable {s : State} {rt fs : RegNum}

theorem mfc1_completes (rt fs : RegNum) (hc : s.CopUsable 1#2) (hf : s.par.cpu.hasFpa = true) :
    Completes (.mfc1 rt fs) s fun t =>
      (rt ≠ 0#5 → s.fgrHazard [fs] = false → t.gprVal rt = (lo32 (s.fgr fs)).signExtend 64) ∧
        Frame { gpr := [rt] } s t ∧ Sequential s t := by
  obtain ⟨v, n, hv, hval⟩ := readFgrWord_reads fs s hf
  refine (completes_moved (i := .mfc1 rt fs) rfl ((bind_ok (requireCop_ok hc)).trans ((bind_ok hv).trans rfl))).mono
    fun t ⟨hgpr, hframe, hseq⟩ => ⟨fun hrt hz => ?_, hframe, hseq⟩
  rw [hgpr hrt, hval hz, sextLo, lo32_zext]
  exact s.narrow_sext _

theorem mtc1_completes (rt fs : RegNum) (hc : s.CopUsable 1#2) (hf : s.par.cpu.hasFpa = true) :
    ∃ a, s.Reads rt a ∧ Completes (.mtc1 rt fs) s fun t =>
      lo32 (t.fgr fs) = lo32 a ∧ t.fpu.fcr31 = s.fpu.fcr31 ∧ (∀ q, q ≠ fs → t.fgr q = s.fgr q) ∧
        Frame { fpu := true } s t ∧ Sequential s t := by
  obtain ⟨a, n, ha, ra, -⟩ := readGpr_reads rt s
  obtain ⟨hlow, hother, hfcr⟩ := setFgrWord_spec (s.skip n) fs a
  have hstep : FpuStep s (((s.skip n).setFgrWord fs a).delayFgr .mips3 [fs]) :=
    (fpuStep_skip s n).trans ((setFgrWord_step _ _ _).trans (fpuStep_delayFgr _ _ _))
  refine ⟨a, ra, _, runSeq_ok ((bind_ok (requireCop_ok hc)).trans ((bind_ok ha).trans
    (writeFgrWord_ok .mips3 fs a (s.skip n) hf))), ?_, ?_, fun q hq => ?_, hstep.frame_advance rfl, hstep.sequential⟩
  · rw [advance_fgr, delayFgr_fgr]
    exact hlow
  · rw [State.advance_fpu, delayFgr_fpu]
    exact hfcr
  · rw [advance_fgr, delayFgr_fgr]
    exact hother q hq

theorem dmfc1_completes (rt fs : RegNum) (hc : s.CopUsable 1#2) (hf : s.par.cpu.hasFpa = true) (h64 : s.Has64) :
    Completes (.dmfc1 rt fs) s fun t =>
      (rt ≠ 0#5 → (s.wideFgr = true ∨ bit fs 0 = false) → s.fgrHazard (s.doubleRegs fs) = false →
        t.gprVal rt = s.fgrDouble fs) ∧ Frame { gpr := [rt] } s t ∧ Sequential s t := by
  obtain ⟨v, n, hv, hval⟩ := readFgrDouble_reads fs s hf
  refine (completes_moved (i := .dmfc1 rt fs) rfl ((bind_ok (requireCop_ok hc)).trans ((bind_ok (require64_ok h64)).trans
    ((bind_ok hv).trans rfl)))).mono fun t ⟨hgpr, hframe, hseq⟩ => ⟨fun hrt hr hz => ?_, hframe, hseq⟩
  rw [hgpr hrt, hval hr hz]
  exact State.narrow_of_mips3 h64.1 _

theorem dmtc1_completes (rt fs : RegNum) (hc : s.CopUsable 1#2) (hf : s.par.cpu.hasFpa = true) (h64 : s.Has64) :
    ∃ a, s.Reads rt a ∧ Completes (.dmtc1 rt fs) s fun t =>
      ((s.wideFgr = true ∨ bit fs 0 = false) → t.fgrDouble fs = a) ∧ t.fpu.fcr31 = s.fpu.fcr31 ∧
        (∀ q, q ≠ fs → (s.wideFgr = true ∨ q &&& 30#5 ≠ fs &&& 30#5) → t.fgr q = s.fgr q) ∧
        Frame { fpu := true } s t ∧ Sequential s t := by
  obtain ⟨a, n, ha, ra, -⟩ := readGpr_reads rt s
  obtain ⟨t, ht, hstep, hfcr, hval, hother⟩ := writeFgrDouble_ok .mips3 fs a (s.skip n) hf
  have hst := (fpuStep_skip s n).trans hstep
  exact ⟨a, ra, _, runSeq_ok ((bind_ok (requireCop_ok hc)).trans ((bind_ok (require64_ok h64)).trans
    ((bind_ok ha).trans ht))), hval, hfcr, hother, hst.frame_advance rfl, hst.sequential⟩

end Moves

/-- Settles O48. -/
theorem fpRegisterMoves : Obligations.FpRegisterMoves := fun _ rt fs hc hf =>
  ⟨mfc1_completes rt fs hc hf, mtc1_completes rt fs hc hf, fun h64 => ⟨dmfc1_completes rt fs hc hf h64,
    dmtc1_completes rt fs hc hf h64⟩⟩

/-! ### Control registers -/

section Control
variable {s : State} {rt n : RegNum}

theorem readFcr_reads (n : RegNum) (s : State) (hf : s.par.cpu.hasFpa = true) :
    ∃ v j, readFcr n s = .ok (v, s.skip j) ∧ (n = 31#5 → s.haz.fcr ≠ some 31#5 → v = sext s.fpu.fcr31) ∧
      (n = 0#5 → v = (s.par.cpu.fpImp ++ s.par.fcr0Rev).setWidth 64) := by
  unfold readFcr
  by_cases h0 : n = 0#5
  · exact ⟨_, 0, (if_pos h0).trans (if_pos hf), fun h => absurd (h0.symm.trans h) (by decide), fun _ => rfl⟩
  · rw [if_neg h0]
    by_cases h31 : n = 31#5
    · rw [if_pos ⟨h31, hf⟩]
      by_cases hz : s.haz.fcr = some 31#5
      · exact ⟨sext (lo32 s.free), 1, by rw [readFcr31, if_pos hz]; rfl, fun _ h => absurd hz h, fun h => absurd h h0⟩
      · exact ⟨sext s.fpu.fcr31, 0, by rw [readFcr31_ok hz]; rfl, fun _ _ => rfl, fun h => absurd h h0⟩
    · exact ⟨sextLo s.free, 1, if_neg fun h => h31 h.1, fun h => absurd h h31, fun h => absurd h h0⟩

/-- FCR0 has its sixteen bits in the low half. -/
theorem fcr0_narrow (s : State) : s.narrow ((s.par.cpu.fpImp ++ s.par.fcr0Rev).setWidth 64) =
    (s.par.cpu.fpImp ++ s.par.fcr0Rev).setWidth 64 := by
  refine narrow_lt s (k := 16) (by decide) ?_
  rw [BitVec.toNat_setWidth]
  exact lt_of_le_of_lt (Nat.mod_le _ _) (s.par.cpu.fpImp ++ s.par.fcr0Rev).isLt

theorem cfc1_completes (rt n : RegNum) (hc : s.CopUsable 1#2) (hf : s.par.cpu.hasFpa = true) :
    Completes (.cfc1 rt n) s fun t =>
      (rt ≠ 0#5 → n = 31#5 → s.haz.fcr ≠ some 31#5 → t.gprVal rt = s.fpu.fcr31.signExtend 64) ∧
        (rt ≠ 0#5 → n = 0#5 → t.gprVal rt = (s.par.cpu.fpImp ++ s.par.fcr0Rev).setWidth 64) ∧
        Frame { gpr := [rt] } s t ∧ Sequential s t := by
  obtain ⟨v, j, hv, h31, h0⟩ := readFcr_reads n s hf
  refine (completes_moved (i := .cfc1 rt n) rfl ((bind_ok (requireCop_ok hc)).trans ((bind_ok hv).trans rfl))).mono
    fun t ⟨hgpr, hframe, hseq⟩ => ⟨fun hrt hn hz => ?_, fun hrt hn => ?_, hframe, hseq⟩
  · rw [hgpr hrt, h31 hn hz]
    exact s.narrow_sext _
  · rw [hgpr hrt, h0 hn, fcr0_narrow]

theorem ctcFcr31_fpu (s : State) (v : Word) :
    (s.ctcFcr31 v).fpu = { s.fpu with fcr31 := v &&& fcr31Mask s.par.cpu } := by
  have hdelay : ((s.setFcr31 (v &&& fcr31Mask s.par.cpu)).delayCond 2).fpu = _ := State.delayCond_fpu _ _
  unfold State.ctcFcr31
  dsimp only
  split
  · exact hdelay
  · exact hdelay

theorem ctcFcr31_step (s : State) (v : Word) : FpuStep s (s.ctcFcr31 v) := by
  have hdelay := (fpuStep_setFcr31 s (v &&& fcr31Mask s.par.cpu)).trans (fpuStep_delayCond _ 2)
  unfold State.ctcFcr31
  dsimp only
  split
  · exact hdelay
  · exact hdelay.trans ⟨by constructor <;> rfl, rfl, rfl, rfl, rfl⟩

/-- CTC1 of FCR31 writes it in any case, and then signals where the FPA requests it. -/
theorem ctc1_fcr31 (rt : RegNum) (hc : s.CopUsable 1#2) (hf : s.par.cpu.hasFpa = true) :
    ∃ a, s.Reads rt a ∧ ∃ u x, FpuStep s u ∧ u.fpu = { s.fpu with fcr31 := lo32 a &&& fcr31Mask s.par.cpu } ∧
      exec (.ctc1 rt 31#5) s = runSeq x s ∧
      x s = if fpaRequest (lo32 a &&& fcr31Mask s.par.cpu) then signalFp (pure ()) u else .ok ((), u) := by
  obtain ⟨a, n, ha, ra, -⟩ := readGpr_reads rt s
  refine ⟨a, ra, (s.skip n).ctcFcr31 (lo32 a), _, (fpuStep_skip s n).trans (ctcFcr31_step _ _), ctcFcr31_fpu _ _, rfl,
    (bind_ok (requireCop_ok hc)).trans ((bind_ok ha).trans ((if_pos ⟨rfl, hf⟩).trans ?_))⟩
  dsimp only
  rw [ctcFcr31_fpu]
  rfl

theorem fpaRequest_iff (w : Word) :
    fpaRequest w = true ↔ bit w 17 = true ∨ w.extractLsb' 12 5 &&& w.extractLsb' 7 5 ≠ 0#5 := by
  simp [fpaRequest]

end Control

/-- A state that CTC1 leaves, by whichever way, has the FPU that it wrote. -/
theorem signalFp_fpu {s u t : State} {x : Op Unit} (hx : x s = signalFp (pure ()) u) (ht : runSeq x s = .next t) :
    t.fpu = u.fpu := by
  unfold signalFp at hx
  split at hx
  · rw [runSeq_exc hx] at ht
    cases ht
    exact (frame_takeException _ u (w := { cp0 := true }) rfl).fpu rfl
  · split at hx
    · rw [runSeq_exc hx] at ht
      cases ht
      exact (frame_takeException _ u (w := { cp0 := true }) rfl).fpu rfl
    · rw [runSeq_ok hx] at ht
      cases ht
      rfl

/-- Settles O49. -/
theorem fpControlMoves : Obligations.FpControlMoves := by
  intro s rt n hc hf
  obtain ⟨a, ra, u, x, hstep, hfpu, hi, hx⟩ := ctc1_fcr31 (s := s) rt hc hf
  have hgr : u.fpu.fgr = s.fpu.fgr := by rw [hfpu]
  have hfcr : u.fpu.fcr31 = lo32 a &&& fcr31Mask s.par.cpu := by rw [hfpu]
  have signals (h : fpaRequest (lo32 a &&& fcr31Mask s.par.cpu) = true) : x s = signalFp (pure ()) u :=
    hx.trans (if_pos h)
  refine ⟨cfc1_completes rt n hc hf, fun hn => ?_, a, ra, fun hq => ?_, fun hq h30 => ⟨u, ?_, hfpu, hstep.frame rfl,
    hstep.pc, hstep.inDelay⟩, fun hq => ?_, fun t ht => ?_⟩
  · obtain ⟨b, j, hb, -, -⟩ := readGpr_reads rt s
    exact completes_skip (i := .ctc1 rt n) rfl ((bind_ok (requireCop_ok hc)).trans ((bind_ok hb).trans
      (if_neg fun h => hn h.1)))
  · exact ⟨_, hi.trans (runSeq_ok (hx.trans (if_neg (ne_true_of_eq_false hq)))), hfpu, hstep.frame_advance rfl,
      hstep.sequential⟩
  · refine hi.trans (runSeq_exc ((signals hq).trans ?_))
    exact if_pos (by rw [hstep.par, h30]; rfl)
  · rw [hi]
    exact signalFp_signals (signals ((fpaRequest_iff _).2 hq)) hstep hgr hfcr (.inr rfl)
  · rw [hi] at ht
    rw [← hfpu]
    cases hq : fpaRequest (lo32 a &&& fcr31Mask s.par.cpu) with
    | true => exact signalFp_fpu (signals hq) ht
    | false =>
      rw [runSeq_ok (hx.trans (if_neg (ne_true_of_eq_false hq)))] at ht
      cases ht
      rfl

/-! ### Formatted moves -/

section Formatted
variable {s : State} {f : FFmt} {i : Instr} {x : Op Unit} {src fs fd : RegNum}

/-- A formatted move that ran is done. -/
theorem fpMove_completes {l : Isa} (hi : exec i s = runSeq x s) {n : Nat} (hx : x s = fpMove f src fs fd (s.skip n))
    (h : s.FpRuns l f.fmt f.fmt [src] [fs, fd]) (hz : s.fgrHazard (s.fprRegs src f.fmt) = false) :
    Completes i s fun t => t.HoldsFpr fd f.fmt (s.fprVal src f.fmt) ∧
      t.fpu.fcr31 = setCauseBits s.fpu.fcr31 0 false ∧ FgrsKept s t fd ∧ Frame { fpu := true } s t ∧ Sequential s t := by
  obtain ⟨t, ht, hval, hfcr, hkept, hframe, hseq⟩ := fpMove_runs (s := s.skip n) (src := src) h hz
  exact ⟨t.advance, hi.trans (runSeq_ok (hx.trans ht)), hval, hfcr, hkept, ((same_skip s n).frame _).trans hframe, hseq⟩

/-- The formatted move of a conditional move has the one of its operands that the condition names. -/
theorem State.FpRuns.select {l : Isa} (h : s.FpRuns l f.fmt f.fmt [fs, fd] []) (hsrc : src = fs ∨ src = fd) :
    s.FpRuns l f.fmt f.fmt [src] [fs, fd] := by
  obtain ⟨hfpa, hcop, hisa, hf, hg, hvalid, htag⟩ := h
  have hmem : src ∈ [fs, fd] := by rcases hsrc with rfl | rfl <;> simp
  refine ⟨hfpa, hcop, hisa, hf, hg, fun r hr => hvalid r ?_, fun r hr => htag r ?_⟩
  · rcases List.mem_append.1 hr with hr | hr
    · rw [List.mem_singleton.1 hr]
      exact List.mem_append_left _ hmem
    · exact List.mem_append_left _ hr
  · rw [List.mem_singleton.1 hr]
    exact hmem

/-- A conditional move that came to its move, with the operand `src` selected. -/
theorem fpMoveSelected (hi : exec i s = runSeq x s) {n : Nat} (h : s.FpRuns .mips4 f.fmt f.fmt [fs, fd] [])
    (hz : ∀ r ∈ [fs, fd], s.fgrHazard (s.fprRegs r f.fmt) = false) (hx : x s = fpMove f src fs fd (s.skip n))
    (hsrc : src = fs ∨ src = fd) :
    Completes i s fun t => t.HoldsFpr fd f.fmt (s.fprVal src f.fmt) ∧
      t.fpu.fcr31 = setCauseBits s.fpu.fcr31 0 false ∧ FgrsKept s t fd ∧ Frame { fpu := true } s t ∧ Sequential s t :=
  fpMove_completes hi hx (h.select hsrc) (hz src (by rcases hsrc with rfl | rfl <;> simp))

end Formatted

/-- The five formatted moves of one format. -/
theorem formattedMoves {f : FFmt} {s : State} {fs fd rt : RegNum} {cc : BitVec 3} {mov movf movt movn movz : Instr}
    (hz : ∀ r ∈ [fs, fd], s.fgrHazard (s.fprRegs r f.fmt) = false)
    (imov : exec mov s = runSeq (do fpGate .mips1; fpMove f fs fs fd) s)
    (imovf : exec movf s = runSeq (do
      fpGate .mips4
      let c ← look fun s => s.fcc cc
      fpMove f (if c then fd else fs) fs fd) s)
    (imovt : exec movt s = runSeq (do
      fpGate .mips4
      let c ← look fun s => s.fcc cc
      fpMove f (if c then fs else fd) fs fd) s)
    (imovn : exec movn s = runSeq (do
      fpGate .mips4
      let v ← readGpr rt
      fpMove f (if v != 0 then fs else fd) fs fd) s)
    (imovz : exec movz s = runSeq (do
      fpGate .mips4
      let v ← readGpr rt
      fpMove f (if v == 0 then fs else fd) fs fd) s) :
    let done (src : RegNum) (t : State) : Prop := t.HoldsFpr fd f.fmt (s.fprVal src f.fmt) ∧
      t.fpu.fcr31 = setCauseBits s.fpu.fcr31 0 false ∧ FgrsKept s t fd ∧ Frame { fpu := true } s t ∧ Sequential s t
    (s.FpRuns .mips1 f.fmt f.fmt [fs] [fd] → Completes mov s (done fs)) ∧
      (s.FpRuns .mips4 f.fmt f.fmt [fs, fd] [] →
        Completes movf s (done (if s.fcc cc then fd else fs)) ∧
        Completes movt s (done (if s.fcc cc then fs else fd)) ∧
        ∃ a, s.Reads rt a ∧ Completes movn s (done (if a = 0 then fd else fs)) ∧
          Completes movz s (done (if a = 0 then fs else fd))) := by
  intro done
  refine ⟨fun h => ?_, fun h => ?_⟩
  · have hrun : s.FpRuns .mips1 f.fmt f.fmt [fs] [fs, fd] := by
      obtain ⟨hfpa, hcop, hisa, hf, hg, hvalid, htag⟩ := h
      refine ⟨hfpa, hcop, hisa, hf, hg, fun r hr => hvalid r ?_, htag⟩
      simpa using hr
    exact fpMove_completes (n := 0) imov (bind_ok (fpGate_ok h.2.1 h.2.2.1)) hrun (hz fs (by simp))
  · have gate := fpGate_ok h.2.1 h.2.2.1
    obtain ⟨a, n, ha, ra, -⟩ := readGpr_reads rt s
    refine ⟨fpMoveSelected (n := 0) imovf h hz ((bind_ok gate).trans (look_bind _ _ _)) ?_,
      fpMoveSelected (n := 0) imovt h hz ((bind_ok gate).trans (look_bind _ _ _)) ?_, a, ra,
      fpMoveSelected (n := n) imovn h hz ((bind_ok gate).trans ((bind_ok ha).trans ?_)) ?_,
      fpMoveSelected (n := n) imovz h hz ((bind_ok gate).trans ((bind_ok ha).trans ?_)) ?_⟩
    · exact (ite_eq_or_eq _ _ _).symm
    · exact ite_eq_or_eq _ _ _
    · by_cases h0 : a = 0 <;> simp [h0]
    · exact (ite_eq_or_eq _ _ _).symm
    · by_cases h0 : a = 0 <;> simp [h0]
    · exact ite_eq_or_eq _ _ _

/-- Settles O51. -/
theorem fpFormattedMoves : Obligations.FpFormattedMoves := by
  intro f s fs fd rt cc hz
  cases f with
  | s => exact formattedMoves hz rfl rfl rfl rfl rfl
  | d => exact formattedMoves hz rfl rfl rfl rfl rfl

end Sys2Proof.Machine
end

section
/-! PROOFS. The loads and stores of floating-point registers. -/

namespace Sys2Proof.Machine

/-! ### A field written to and read from floating-point registers -/

/-- From `s` to `u` the low `n` bytes of `w`, a word or a doubleword, went to FGR `r` or its pair, and nothing else changed. -/
structure FgrLoaded (s : State) (r : RegNum) (n : Nat) (w : DWord) (u : State) : Prop where
  word : n = 4 → lo32 (u.fgr r) = lo32 w
  double : n = 8 → (s.wideFgr = true ∨ bit r 0 = false) → u.fgrDouble r = w
  fcr31 : u.fpu.fcr31 = s.fpu.fcr31
  others : ∀ q, q ≠ r → (n = 4 ∨ s.wideFgr = true ∨ q &&& 30#5 ≠ r &&& 30#5) → u.fgr q = s.fgr q

/-- The operation writes a field of `n` bytes to FGR `r`, where the member has an FPA. -/
def FgrWriter (y : DWord → Op Unit) (r : RegNum) (n : Nat) : Prop :=
  ∀ (v : DWord) (s : State), s.par.cpu.hasFpa = true → ∃ u, y v s = .ok ((), u) ∧ FgrLoaded s r n v u ∧ FpuStep s u

theorem fgrWriter_word (l : Isa) (r : RegNum) : FgrWriter (writeFgrWord l r) r 4 := by
  intro v s hf
  obtain ⟨hlow, hother, hfcr⟩ := setFgrWord_spec s r v
  refine ⟨_, writeFgrWord_ok l r v s hf, ⟨fun _ => ?_, fun h => absurd h (by decide), ?_, fun q hq _ => ?_⟩,
    (setFgrWord_step _ _ _).trans (fpuStep_delayFgr _ _ _)⟩
  · rw [delayFgr_fgr, hlow]
  · rw [delayFgr_fpu, hfcr]
  · rw [delayFgr_fgr, hother q hq]

theorem fgrWriter_double (l : Isa) (r : RegNum) : FgrWriter (writeFgrDouble l r) r 8 := by
  intro v s hf
  obtain ⟨u, hu, hstep, hfcr, hval, hother⟩ := writeFgrDouble_ok l r v s hf
  exact ⟨u, hu, ⟨fun h => absurd h (by decide), fun _ => hval, hfcr,
    fun q hq h => hother q hq (h.resolve_left (by decide))⟩, hstep⟩

/-- `v` is what an instruction reads as a field of `n` bytes from FGR `r` or its pair. -/
structure FgrRead (s : State) (r : RegNum) (n : Nat) (v : DWord) : Prop where
  word : n = 4 → s.fgrHazard [r] = false → v = zext (lo32 (s.fgr r))
  double : n = 8 → (s.wideFgr = true ∨ bit r 0 = false) → s.fgrHazard (s.doubleRegs r) = false → v = s.fgrDouble r

/-- The operation reads a field of `n` bytes from FGR `r`, where the member has an FPA. -/
def FgrReader (y : Op DWord) (r : RegNum) (n : Nat) : Prop :=
  ∀ s : State, s.par.cpu.hasFpa = true → ∃ v j, y s = .ok (v, s.skip j) ∧ FgrRead s r n v

theorem fgrReader_word (r : RegNum) : FgrReader (readFgrWord r) r 4 := fun s hf => by
  obtain ⟨v, j, hv, hval⟩ := readFgrWord_reads r s hf
  exact ⟨v, j, hv, fun _ => hval, fun h => absurd h (by decide)⟩

theorem fgrReader_double (r : RegNum) : FgrReader (readFgrDouble r) r 8 := fun s hf => by
  obtain ⟨v, j, hv, hval⟩ := readFgrDouble_reads r s hf
  exact ⟨v, j, hv, fun h => absurd h (by decide), fun _ => hval⟩

/-! ### Loads -/

section Loads
variable {i : Instr} {x : Op Unit} {y : DWord → Op Unit} {s : State} {base index r : RegNum} {off : BitVec 16} {n : Nat}

/-- An instruction that comes to write a field to an FGR completes with the field there, and nothing else changed. -/
theorem completes_fgr (hi : exec i s = runSeq x s) (hy : FgrWriter y r n) (hf : s.par.cpu.hasFpa = true) {w : DWord} {m : Nat}
    (hx : x s = y w (s.skip m)) :
    Completes i s fun t => FgrLoaded s r n w t ∧ Frame { fpu := true } s t ∧ Sequential s t := by
  obtain ⟨u, hu, ⟨hword, hdouble, hfcr, hothers⟩, hstep⟩ := hy w (s.skip m) hf
  have hall : FpuStep s u := (fpuStep_skip s m).trans hstep
  exact ⟨u.advance, hi.trans (runSeq_ok (hx.trans hu)), ⟨hword, hdouble, hfcr, hothers⟩, hall.frame_advance rfl,
    hall.sequential⟩

/-- A load of a field into an FGR, from memory or from the isolated array. -/
theorem fgrLoad_completes (hi : exec i s = runSeq x s) (hy : FgrWriter y r n) (hf : s.par.cpu.hasFpa = true)
    (hx : x s = (loadField base off n id >>= y) s) :
    ∃ b, s.Reads base b ∧ ∀ pa cca, s.Maps (s.normVa (b + off.signExtend 64)) .load n pa cca →
      (s.Readable pa n → Completes i s fun t =>
        (∃ w, (s.offsetUndefined off n = false → w = s.memVal pa n) ∧ FgrLoaded s r n w t) ∧
          Frame { fpu := true } s t ∧ Sequential s t) ∧
      (s.isc = true → Completes i s fun t => FgrLoaded s r n (s.isolatedVal pa n) t ∧ IsolatedLoad s t pa ∧
        Frame { cp0 := true, fpu := true } s t ∧ Sequential s t) := by
  obtain ⟨b, m, hb, rb⟩ := effAddr_reads base off s
  refine ⟨b, rb, fun pa cca hm => ⟨fun hr => ?_, fun hisc => ?_⟩⟩
  · have hl := loadAt_ok (State.skip_Maps s m _ _ _ _ _ hm) hr
    obtain ⟨w, j, hw, hval⟩ := freeIf_reads (s.offsetUndefined off n) (s.memVal pa n) (s.skip m)
    have hfield : loadField base off n id s = .ok (w, s.skip (m + j)) :=
      by
      rw [← State.skip_skip]
      exact (bind_ok hb).trans ((bind_ok hl).trans ((look_bind _ _ _).trans hw))
    exact (completes_fgr hi hy hf (hx.trans (bind_ok hfield))).mono fun t ⟨hload, hrest⟩ => ⟨⟨w, hval, hload⟩, hrest⟩
  · obtain ⟨u, hl, hload, hframe, -, hnpc, -⟩ := loadAt_isolated (State.skip_Maps s m _ _ _ _ _ hm) hisc
    obtain ⟨hpar, -⟩ := hframe.rest
    have hfpu : u.fpu = s.fpu := hframe.fpu rfl
    have hund : u.offsetUndefined off n = false := by
      unfold State.offsetUndefined
      rw [hpar]
      exact offsetUndefined_of_isc hisc off n
    have hfield : loadField base off n id s = .ok (s.isolatedVal pa n, u) := by
      refine (bind_ok hb).trans ((bind_ok hl).trans ((look_bind _ _ _).trans ?_))
      rw [hund]
      rfl
    have hfgr : ∀ q, u.fgr q = s.fgr q := fun q => by
      unfold State.fgr
      rw [hfpu]
    have hwide : u.wideFgr = s.wideFgr := by
      have h30 : s.par.cpu.is30xx = true := ((Bool.and_eq_true _ _).mp hisc).1
      simp [State.wideFgr, State.fr, hpar, h30]
    obtain ⟨v, hv, ⟨hword, hdouble, hfcr, hothers⟩, hstep⟩ := hy (s.isolatedVal pa n) u (by rw [hpar]; exact hf)
    refine ⟨v.advance, hi.trans (runSeq_ok (hx.trans ((bind_ok hfield).trans hv))),
      ⟨hword, fun hn hr => hdouble hn (by rw [hwide]; exact hr), hfcr.trans (by rw [hfpu]), fun q hq hr => ?_⟩,
      hload.then (hstep.frame_advance (w := { fpu := true }) rfl) rfl, ?_, sequential_advance (hstep.nextPc.trans hnpc)⟩
    · exact (hothers q hq (by rw [hwide]; exact hr)).trans (hfgr q)
    · exact ((same_skip s m).frame _).trans
        ((hframe.mono (v := { cp0 := true, fpu := true }) (fun _ => id) (fun _ => id) id id (fun _ => rfl) id).trans
          ((hstep.frame_advance (w := { fpu := true }) rfl).mono (fun _ => id) (fun _ => id) id (fun _ => rfl) id id))

theorem hasFpa_of_mips4 (h : s.HasIsa .mips4) : s.par.cpu.hasFpa = true := by
  unfold State.HasIsa at h
  cases hc : s.par.cpu <;> simp_all [Cpu.isa, Isa.rank, Cpu.hasFpa]

theorem indexedAddr_leaves (hb : s.Settled base) (hx : s.Settled index)
    (hreg : (s.gprVal base + s.gprVal index).extractLsb' 62 2 ≠ (s.gprVal base).extractLsb' 62 2) :
    indexedAddr base index s = .ok ((s.normVa (s.gprVal base + s.gprVal index), true), s) := by
  refine (bind_ok (readGpr_settled hb)).trans ((bind_ok (readGpr_settled hx)).trans ?_)
  rw [look_apply, bne_iff_ne.2 hreg]

/-- An indexed load into an FGR. -/
theorem fgrIndexedLoad_completes (hi : exec i s = runSeq (indexedLoad base index n >>= y) s) (hy : FgrWriter y r n)
    (hc : s.CopUsable 1#2) (h4 : s.HasIsa .mips4) (hb : s.Settled base) (hx : s.Settled index) :
    let va := s.gprVal base + s.gprVal index
    (va.extractLsb' 62 2 = (s.gprVal base).extractLsb' 62 2 → ∀ pa cca, s.Maps va .load n pa cca → s.Readable pa n →
      Completes i s fun t => FgrLoaded s r n (s.memVal pa n) t ∧ Frame { fpu := true } s t ∧ Sequential s t) ∧
    (va.extractLsb' 62 2 ≠ (s.gprVal base).extractLsb' 62 2 →
      Completes i s fun t => ∃ w, FgrLoaded s r n w t ∧ Frame { fpu := true } s t ∧ Sequential s t) := by
  intro va
  have hf := hasFpa_of_mips4 h4
  refine ⟨fun hreg pa cca hm hr => ?_, fun hreg => ?_⟩
  · have hl : indexedLoad base index n s = .ok (s.memVal pa n, s) :=
      (bind_ok (requireIsa_ok h4)).trans ((bind_ok (requireCop_ok hc)).trans
        ((bind_ok (indexedAddr_settled hb hx h4 hreg)).trans (loadAt_ok hm hr)))
    exact completes_fgr (m := 0) hi hy hf (bind_ok hl)
  · have hl : indexedLoad base index n s = .ok (s.free, s.skip 1) :=
      (bind_ok (requireIsa_ok h4)).trans ((bind_ok (requireCop_ok hc)).trans
        ((bind_ok (indexedAddr_leaves hb hx hreg)).trans rfl))
    exact (completes_fgr hi hy hf (bind_ok hl)).mono fun t h => ⟨s.free, h⟩

end Loads

/-! ### Stores -/

section Stores
variable {i : Instr} {x : Op Unit} {y : Op DWord} {s : State} {base index r : RegNum} {off : BitVec 16} {n : Nat}

/-- The field of `n` bytes at `pa` of `t` is what `s` has in FGR `r` or its pair, where reading it is defined. -/
def FgrStored (s : State) (r : RegNum) (n pa : Nat) (t : State) : Prop :=
  (n = 4 → s.fgrHazard [r] = false →
    memReadList t.mem (s.lanes pa n) = toBytes s.bigEndianCpu n (zext (lo32 (s.fgr r)))) ∧
  (n = 8 → (s.wideFgr = true ∨ bit r 0 = false) → s.fgrHazard (s.doubleRegs r) = false →
    memReadList t.mem (s.lanes pa n) = toBytes s.bigEndianCpu n (s.fgrDouble r))

theorem FgrRead.stored {v : DWord} (h : FgrRead s r n v) {t : State} {pa : Nat}
    (hmem : memReadList t.mem (s.lanes pa n) = toBytes s.bigEndianCpu n v) : FgrStored s r n pa t :=
  ⟨fun hn hh => by rw [hmem, h.word hn hh], fun hn hr hh => by rw [hmem, h.double hn hr hh]⟩

/-- A store of a field from an FGR, into memory or into the isolated array. -/
theorem fgrStore_completes (hi : exec i s = runSeq x s) (hy : FgrReader y r n) (hf : s.par.cpu.hasFpa = true)
    (hx : x s = (y >>= storeField base off n) s) :
    ∃ b, s.Reads base b ∧ ∀ pa cca, s.Maps (s.normVa (b + off.signExtend 64)) .store n pa cca →
      (s.isc = false → Completes i s fun t => (s.offsetUndefined off n = false → FgrStored s r n pa t) ∧
        Frame { mem := s.lanes pa n } s t ∧ Sequential s t) ∧
      (s.isc = true → Completes i s fun t => ∃ v, FgrRead s r n v ∧ IsolatedStore s t pa n v ∧ Sequential s t) := by
  obtain ⟨v, j, hv, hread⟩ := hy s hf
  obtain ⟨b, w, m, rb, hw, hst⟩ := storeField_eq base off n v (s.skip j)
  rw [State.skip_skip] at hst
  have hrun : ∀ pa cca, s.Maps (s.normVa (b + off.signExtend 64)) .store n pa cca →
      x s = .ok ((), (s.skip (j + m)).putMem pa n w) := fun pa cca hm =>
    hx.trans ((bind_ok hv).trans (hst.trans (storeAt_isMaps w hm)))
  refine ⟨b, rb, fun pa cca hm => ⟨fun hisc => ?_, fun hisc => ?_⟩⟩
  · refine (completes_stored hi (hrun pa cca hm) hisc rfl).mono ?_
    rintro t ⟨hmem, hrest⟩
    exact ⟨fun hu => hread.stored (hw hu ▸ hmem), hrest⟩
  · have hwv := hw (offsetUndefined_of_isc hisc off n)
    subst hwv
    exact (completes_isolated hi (hrun pa cca hm) hisc).mono fun t ht => ⟨w, hread, ht⟩

theorem isc_of_mips4 (h : s.HasIsa .mips4) : s.isc = false := by
  unfold State.isc
  unfold State.HasIsa at h
  cases hc : s.par.cpu <;> simp_all [Cpu.isa, Isa.rank, Cpu.is30xx]

/-- An indexed store from an FGR. -/
theorem fgrIndexedStore_completes (hi : exec i s = runSeq (indexedStore base index n y) s) (hy : FgrReader y r n)
    (hc : s.CopUsable 1#2) (h4 : s.HasIsa .mips4) (hb : s.Settled base) (hx : s.Settled index) :
    let va := s.gprVal base + s.gprVal index
    (va.extractLsb' 62 2 = (s.gprVal base).extractLsb' 62 2 → ∀ pa cca, s.Maps va .store n pa cca →
      Completes i s fun t => FgrStored s r n pa t ∧ Frame { mem := s.lanes pa n } s t ∧ Sequential s t) ∧
    (va.extractLsb' 62 2 ≠ (s.gprVal base).extractLsb' 62 2 → exec i s = .refused .indexedStoreRegion) := by
  intro va
  refine ⟨fun hreg pa cca hm => ?_, fun hreg => ?_⟩
  · obtain ⟨v, j, hv, hread⟩ := hy s (hasFpa_of_mips4 h4)
    have hst : indexedStore base index n y s = .ok ((), (s.skip j).putMem pa n v) :=
      (bind_ok (requireIsa_ok h4)).trans ((bind_ok (requireCop_ok hc)).trans
        ((bind_ok (indexedAddr_settled hb hx h4 hreg)).trans ((bind_ok (refuseIf_ok _ _ rfl)).trans
          ((bind_ok hv).trans (storeAt_isMaps v hm)))))
    exact (completes_stored hi hst (isc_of_mips4 h4) rfl).mono fun t ⟨hmem, hrest⟩ => ⟨hread.stored hmem, hrest⟩
  · have hst : indexedStore base index n y s = .error (.refused .indexedStoreRegion) :=
      (bind_ok (requireIsa_ok h4)).trans ((bind_ok (requireCop_ok hc)).trans
        ((bind_ok (indexedAddr_leaves hb hx hreg)).trans (bind_error rfl)))
    exact hi.trans (runOp_refused (bind_error hst))

end Stores

/-! ### The statement -/

/-- Settles O50. -/
theorem fpLoadsAndStores : Obligations.FpLoadsAndStores := by
  refine ⟨?_, ?_, ?_, ?_⟩
  · intro n mk hrow s base ft off hc hf h2
    obtain ⟨x, y, hi, hy, hx⟩ : ∃ x y, exec (mk base ft off) s = runSeq x s ∧ FgrWriter y ft n ∧
        x s = (loadField base off n id >>= y) s := by
      simp only [List.mem_cons, List.not_mem_nil, or_false, Prod.mk.injEq] at hrow
      rcases hrow with ⟨rfl, rfl⟩ | ⟨rfl, rfl⟩
      · exact ⟨_, _, rfl, fgrWriter_word .mips1 ft, bind_ok (requireCop_ok hc)⟩
      · exact ⟨_, _, rfl, fgrWriter_double .mips1 ft,
          (bind_ok (requireIsa_ok (h2 rfl))).trans (bind_ok (requireCop_ok hc))⟩
    obtain ⟨b, rb, hb⟩ := fgrLoad_completes hi hy hf hx
    refine ⟨b, rb, fun pa cca hm => ?_⟩
    obtain ⟨hmem, hiso⟩ := hb pa cca hm
    refine ⟨fun hr => (hmem hr).mono ?_, fun hn hisc => (hiso hisc).mono ?_⟩
    · rintro t ⟨⟨w, hw, hload⟩, hrest⟩
      exact ⟨fun hu => ⟨fun hn => by rw [hload.word hn, hw hu, hn], fun hn hr => by rw [hload.double hn hr, hw hu, hn]⟩,
        hload.fcr31, hload.others, hrest⟩
    · rintro t ⟨hload, hrest⟩
      subst hn
      exact ⟨hload.word rfl, hload.fcr31, fun q hq => hload.others q hq (.inl rfl), hrest⟩
  · intro n mk hrow s base index fd hc h4 hb hx va others
    obtain ⟨y, hi, hy⟩ : ∃ y, exec (mk base index fd) s = runSeq (indexedLoad base index n >>= y) s ∧ FgrWriter y fd n := by
      simp only [List.mem_cons, List.not_mem_nil, or_false, Prod.mk.injEq] at hrow
      rcases hrow with ⟨rfl, rfl⟩ | ⟨rfl, rfl⟩
      · exact ⟨_, rfl, fgrWriter_word .mips1 fd⟩
      · exact ⟨_, rfl, fgrWriter_double .mips1 fd⟩
    obtain ⟨hin, hout⟩ := fgrIndexedLoad_completes hi hy hc h4 hb hx
    refine ⟨fun hreg pa cca hm hr => (hin hreg pa cca hm hr).mono ?_, fun hreg => (hout hreg).mono ?_⟩
    · rintro t ⟨hload, hrest⟩
      exact ⟨fun hn => hn ▸ hload.word hn, fun hn hr => hn ▸ hload.double hn hr, hload.fcr31, hload.others, hrest⟩
    · rintro t ⟨w, hload, hrest⟩
      exact ⟨hload.fcr31, hload.others, hrest⟩
  · intro n mk hrow s base ft off hc hf h2
    obtain ⟨x, y, hi, hy, hx⟩ : ∃ x y, exec (mk base ft off) s = runSeq x s ∧ FgrReader y ft n ∧
        x s = (y >>= storeField base off n) s := by
      simp only [List.mem_cons, List.not_mem_nil, or_false, Prod.mk.injEq] at hrow
      rcases hrow with ⟨rfl, rfl⟩ | ⟨rfl, rfl⟩
      · exact ⟨_, _, rfl, fgrReader_word ft, bind_ok (requireCop_ok hc)⟩
      · exact ⟨_, _, rfl, fgrReader_double ft, (bind_ok (requireIsa_ok (h2 rfl))).trans (bind_ok (requireCop_ok hc))⟩
    obtain ⟨b, rb, hb⟩ := fgrStore_completes hi hy hf hx
    refine ⟨b, rb, fun pa cca hm => ?_⟩
    obtain ⟨hmem, hiso⟩ := hb pa cca hm
    refine ⟨hmem, fun hn hisc => (hiso hisc).mono ?_⟩
    rintro t ⟨v, hread, hstore, hseq⟩
    subst hn
    exact ⟨v, hread.word rfl, hstore, hseq⟩
  · intro n mk hrow s base index fs hc h4 hb hx va
    obtain ⟨y, hi, hy⟩ : ∃ y, exec (mk base index fs) s = runSeq (indexedStore base index n y) s ∧ FgrReader y fs n := by
      simp only [List.mem_cons, List.not_mem_nil, or_false, Prod.mk.injEq] at hrow
      rcases hrow with ⟨rfl, rfl⟩ | ⟨rfl, rfl⟩
      · exact ⟨_, rfl, fgrReader_word fs⟩
      · exact ⟨_, rfl, fgrReader_double fs⟩
    obtain ⟨hin, hout⟩ := fgrIndexedStore_completes hi hy hc h4 hb hx
    refine ⟨fun hreg pa cca hm => (hin hreg pa cca hm).mono ?_, hout⟩
    rintro t ⟨⟨hword, hdouble⟩, hrest⟩
    exact ⟨hword, hdouble, hrest⟩

end Sys2Proof.Machine
end

section
/-! PROOFS. The computational floating-point instructions: each row of the statements is one of the shared shapes. -/

namespace Sys2Proof.Machine

section Rows
variable {i : Instr} {s : State} {f : FFmt} {fr ft fs fd : RegNum}

/-- An instruction on two operands delivers or ends in the exception. -/
theorem fpBinary_row {l : Isa} {k : Word → DWord → DWord → FpOut} (hi : exec i s = runSeq (fpBinary l f ft fs fd k) s) :
    (s.FpRejects l f.fmt f.fmt [fs, ft, fd] → s.FpUnimplemented (exec i s)) ∧
      (s.FpRuns l f.fmt f.fmt [fs, ft] [fd] → s.FpSettled f.fmt [fs, ft] →
        let a := s.fprVal fs f.fmt
        let b := s.fprVal ft f.fmt
        let o := k s.fpu.fcr31 a b
        let denorm := isDenorm f a || isDenorm f b
        let nan := isNan f a || isNan f b
        (s.FpDelivers o denorm nan false false → Completes i s fun t => Delivered s t fd f.fmt o) ∧
          s.FpEnds (exec i s) (fpDeclines s.par s.fpu.fcr31 denorm nan false false o) o.e) := by
  rw [hi]
  refine ⟨fun h => ?_, fun h hs => ⟨fun hd => ?_, fpBinary_ends h hs⟩⟩
  · exact fpChecked_rejects (srcs := [fs, ft]) (dst := [fd]) h (bind_ok (fpGate_ok h.2.1 h.2.2.1))
  · obtain ⟨t, ht, hdel⟩ := fpBinary_delivers h hs hd
    exact ⟨t, hi.trans ht, hdel⟩

/-- An instruction on one operand delivers or ends in the exception. -/
theorem fpUnary_row {l : Isa} {f g : Fmt} {extra : Params → DWord → FpOut → Bool} {k : Word → DWord → FpOut}
    (hi : exec i s = runSeq (fpUnary l f g fs fd extra k) s) :
    (s.FpRejects l f g [fs, fd] → s.FpUnimplemented (exec i s)) ∧
      (s.FpRuns l f g [fs] [fd] → s.FpSettled f [fs] →
        let a := s.fprVal fs f
        let o := k s.fpu.fcr31 a
        (s.FpDelivers o (denormIn f a) (nanIn f a) false (extra s.par a o) →
          Completes i s fun t => Delivered s t fd g o) ∧
          s.FpEnds (exec i s)
            (fpDeclines s.par s.fpu.fcr31 (denormIn f a) (nanIn f a) false (extra s.par a o) o) o.e) := by
  rw [hi]
  refine ⟨fun h => ?_, fun h hs => ⟨fun hd => ?_, fpUnary_ends h hs⟩⟩
  · exact fpChecked_rejects (srcs := [fs]) (dst := [fd]) h (bind_ok (fpGate_ok h.2.1 h.2.2.1))
  · obtain ⟨t, ht, hdel⟩ := fpUnary_delivers h hs hd
    exact ⟨t, hi.trans ht, hdel⟩

/-- The result of a compare (R920): less, equal and unordered, chosen by the low bits of the predicate. -/
theorem fCompare_eq (f : FFmt) (cond : BitVec 4) (a b : DWord) : fCompare f cond a b =
    ((bit cond 2 && fLess f a b) || (bit cond 1 && fEqual f a b) || (bit cond 0 && fUnordered f a b)) := rfl

/-- A compare writes its condition code or ends in the exception. -/
theorem fpCompare_row {cond : BitVec 4} {cc : BitVec 3} (hi : exec i s = runSeq (fpCompare f cond ft fs cc) s) :
    (s.FpRejects .mips1 f.fmt f.fmt [fs, ft] → s.FpUnimplemented (exec i s)) ∧
      (s.FpRuns .mips1 f.fmt f.fmt [fs, ft] [] → s.FpSettled f.fmt [fs, ft] →
        let a := s.fprVal fs f.fmt
        let b := s.fprVal ft f.fmt
        let o := FpOut.cond 0 (fCompareCond f cond a b)
        let denorm := isDenorm f a || isDenorm f b
        let nan := isNan f a || isNan f b
        (s.FpDelivers o denorm nan true false → Completes i s fun t =>
          t.fpu.fcr31 = setBit (addFlags (setCauseBits s.fpu.fcr31 o.e false) o.e) (fccBit (s.ccOf cc))
              (fCompare f cond a b) ∧
            t.fpu.fgr = s.fpu.fgr ∧ Frame { fpu := true } s t ∧ Sequential s t) ∧
          s.FpEnds (exec i s) (fpDeclines s.par s.fpu.fcr31 denorm nan true false o) o.e) := by
  rw [hi]
  refine ⟨fun h => ?_, fun h hs => ⟨fun hd => ?_, fpCompare_ends h hs⟩⟩
  · exact fpChecked_rejects (srcs := [fs, ft]) (dst := []) h (bind_ok (fpGate_ok h.2.1 h.2.2.1))
  · obtain ⟨t, ht, hdel⟩ := fpCompare_delivers h hs hd
    exact ⟨t, hi.trans ht, hdel⟩

end Rows

/-- Settles O52: every row is an instruction on two operands. -/
theorem fpBinaryArithmetic : Obligations.FpBinaryArithmetic := by
  intro f op mk hrow s ft fs fd
  have hi : exec (mk ft fs fd) s = runSeq (fpBinary .mips1 f ft fs fd fun fcr => op f (rmOf fcr)) s := by
    simp only [List.mem_cons, List.not_mem_nil, or_false, Prod.mk.injEq] at hrow
    casesm* _ ∨ _, _ ∧ _ <;> subst_vars <;> rfl
  exact fpBinary_row hi

/-- Settles O53: every row is an instruction on one operand. -/
theorem fpUnaryArithmetic : Obligations.FpUnaryArithmetic := by
  intro lvl f g k extra mk hrow s fs fd
  have hi : exec (mk fs fd) s = runSeq (fpUnary lvl f g fs fd extra k) s := by
    simp only [List.mem_cons, List.not_mem_nil, or_false, Prod.mk.injEq] at hrow
    casesm* _ ∨ _, _ ∧ _ <;> subst_vars <;> rfl
  exact fpUnary_row hi

/-- Settles O55: every row is a multiply-accumulate, the second step of which is the row's. -/
theorem fpMultiplyAdd : Obligations.FpMultiplyAdd := by
  intro f k mk hrow s fr ft fs fd h hs m a b c p o denorm nan i
  have hi : exec i s = runSeq (fpTernary f fr ft fs fd (k f)) s := by
    simp only [List.mem_cons, List.not_mem_nil, or_false, Prod.mk.injEq] at hrow
    casesm* _ ∨ _, _ ∧ _ <;> subst_vars <;> rfl
  rw [hi]
  obtain ⟨hsecond, hfirst⟩ := fpTernary_ends (k := k f) h hs
  refine ⟨fun hp => ⟨fun hd => ?_, hsecond hp⟩, hfirst⟩
  obtain ⟨t, ht, hdel⟩ := fpTernary_delivers (k := k f) h hs hp hd
  exact ⟨t, hi.trans ht, hdel⟩

/-- Settles O56: every row is a compare. -/
theorem fpCompares : Obligations.FpCompares := by
  intro f cond mk hrow s ft fs cc
  have hi : exec (mk ft fs cc) s = runSeq (fpCompare f cond ft fs cc) s := by
    simp only [List.mem_cons, List.not_mem_nil, or_false, Prod.mk.injEq] at hrow
    casesm* _ ∨ _, _ ∧ _ <;> subst_vars <;> rfl
  simp only [← fCompare_eq]
  exact fpCompare_row hi

end Sys2Proof.Machine
end

section
/-! PROOFS. When a member declines a floating-point operation, and the words whose format the tables mark U. -/

namespace Sys2Proof.Machine

/-! ### What a member declines (R892) -/

section Declines
variable {p : Params} {fcr : Word} {denorm nan cmp extra : Bool} {a : DWord} {o : FpOut} {f : FFmt}

theorem fpDeclines_iff : fpDeclines p fcr denorm nan cmp extra o = true ↔ extra = true ∨
    if p.cpu.is30xx then denorm = true ∨ o.tiny = true ∨ o.e &&& condZ ≠ 0 ∨ (o.e &&& condV ≠ 0 ∧ bit fcr 11 = false) ∨
      (nan = true ∧ ¬(cmp = true ∧ bit fcr 11 = true))
    else (o.tiny = true ∧ bit fcr 24 = false) ∨ (denorm = true ∧ p.fpDeclined.denormOperand = true) ∨
      (nan = true ∧ p.fpDeclined.nanOperand = true) := by
  unfold fpDeclines fsOf
  cases p.cpu.is30xx <;> simp [or_assoc, imp_iff_not_or]

theorem cvtWExtra_iff : cvtWExtra p a o = true ↔ p.cpu.is30xx = true ∧ o.e &&& condV ≠ 0 := by simp [cvtWExtra]

theorem cvtLExtra_iff : cvtLExtra p a o = true ↔ p.fpDeclined.longRange = true ∧ o.e &&& condV ≠ 0 := by simp [cvtLExtra]

theorem roundLExtra_iff : roundLExtra f p a o = true ↔ (p.cpu = .r5000 ∧ wideInt f 52 a = true) ∨ cvtLExtra p a o = true := by
  simp [roundLExtra]

theorem cvtDLExtra_iff : cvtDLExtra p a o = true ↔ p.cpu = .r5000 ∧ 53 < sigBits a.toInt.natAbs := by simp [cvtDLExtra]

end Declines

/-! ### Formats marked U (R893) -/

section Formats
variable {s : State} {w : Word} {l : Isa} {k : Nat}

/-- A word with a format marked U is an Unimplemented Operation where the member has the level. -/
theorem runWord_fpFormat (hd : decode s.par.cpu.isa w = .bad (.fpFormat l)) (hl : s.HasIsa l)
    (hf : s.par.cpu.hasFpa = true) (hc : s.CopUsable 1#2) : s.FpUnimplemented (runWord s w) := by
  unfold runWord
  rw [hd]
  refine fpUnimplemented_signals (u := s) ?_ (.refl s) rfl rfl
  exact (bind_ok (fpGate_ok hc hl)).trans ((look_bind _ _ _).trans (by rw [hf]; rfl))

theorem fRs_of_toNat (h : (w.extractLsb' 21 5).toNat = k) : fRs w = BitVec.ofNat 5 k := by
  rw [← h, BitVec.ofNat_toNat, BitVec.setWidth_eq]
  rfl

/-- A function with a level is marked U for format W. -/
theorem decodeFpW_format (h : fpFnLevel (fFn w) = some l) : decodeFpW w = .bad (.fpFormat l) := by
  unfold decodeFpW
  split
  · rename_i e
    rw [e] at h
    exact nomatch h
  · rename_i e
    rw [e] at h
    exact nomatch h
  · rw [h]

/-- A function with a level is marked U for format L, which itself is of MIPS III. -/
theorem decodeFpL_format (h : fpFnLevel (fFn w) = some l) :
    decodeFpL w = .bad (.fpFormat (if l = .mips4 then .mips4 else .mips3)) := by
  unfold decodeFpL
  split
  · rename_i e
    rw [e] at h
    exact nomatch h
  · rename_i e
    rw [e] at h
    exact nomatch h
  · rw [h]
    cases l <;> rfl

theorem fpFnLevel_mips1 : ∀ k ∈ [0, 1, 2, 3, 5, 6, 7, 0x24, 0x30, 0x31, 0x32, 0x33, 0x34, 0x35, 0x36, 0x37, 0x38, 0x39, 0x3A,
    0x3B, 0x3C, 0x3D, 0x3E, 0x3F], fpFnLevel (BitVec.ofNat 6 k) = some .mips1 := by decide
theorem fpFnLevel_mips2 : ∀ k ∈ [4, 12, 13, 14, 15], fpFnLevel (BitVec.ofNat 6 k) = some .mips2 := by decide
theorem fpFnLevel_mips3 : ∀ k ∈ [8, 9, 10, 11, 0x25], fpFnLevel (BitVec.ofNat 6 k) = some .mips3 := by decide
theorem fpFnLevel_mips4 : ∀ k ∈ [0x11, 0x12, 0x13, 0x15, 0x16], fpFnLevel (BitVec.ofNat 6 k) = some .mips4 := by decide

/-- A word of coprocessor 1 in format W whose function the member has. -/
theorem runWord_fpW (hop : fOp w = 0x11#6) (hrs : fRs w = 20#5) (h : fpFnLevel (fFn w) = some l) (hl : s.HasIsa l)
    (hf : s.par.cpu.hasFpa = true) (hc : s.CopUsable 1#2) : s.FpUnimplemented (runWord s w) :=
  runWord_fpFormat ((decode_cop1 _ hop).trans ((decodeCop1_w hrs).trans (decodeFpW_format h))) hl hf hc

/-- A word of coprocessor 1 in format L whose function the member has. -/
theorem runWord_fpL (hop : fOp w = 0x11#6) (hrs : fRs w = 21#5) (h : fpFnLevel (fFn w) = some l)
    (hl : s.HasIsa (if l = .mips4 then .mips4 else .mips3)) (hf : s.par.cpu.hasFpa = true) (hc : s.CopUsable 1#2) :
    s.FpUnimplemented (runWord s w) :=
  runWord_fpFormat ((decode_cop1 _ hop).trans ((decodeCop1_l hrs).trans (decodeFpL_format h))) hl hf hc

theorem one_le_rank (i : Isa) : 1 ≤ i.rank := by cases i <;> decide

theorem isa_of_rank4 {i : Isa} (h : i.rank = 4) : i = .mips4 := by cases i <;> simp_all [Isa.rank]

/-- A multiply-add in format W or L. -/
theorem runWord_cop1x_format (hop : fOp w = 0x13#6) (h4 : s.par.cpu.isa.rank = 4) (hk : fFn w = BitVec.ofNat 6 k)
    (h : k ∈ [0x24, 0x25, 0x2C, 0x2D, 0x34, 0x35, 0x3C, 0x3D]) (hf : s.par.cpu.hasFpa = true) (hc : s.CopUsable 1#2) :
    s.FpUnimplemented (runWord s w) := by
  refine runWord_fpFormat ((decode_cop1x (isa_of_rank4 h4) hop).trans ?_) (l := .mips4) h4.ge hf hc
  unfold decodeCop1x
  rw [hk]
  simp only [List.mem_cons, List.not_mem_nil, or_false] at h
  rcases h with rfl | rfl | rfl | rfl | rfl | rfl | rfl | rfl <;> rfl

end Formats

/-- A formatted move in a format, or of an odd register, that the member does not take. -/
theorem fpMov_rejects {s : State} {f : FFmt} {fs fd : RegNum} {x : Op Unit} (h : s.FpRejects .mips1 f.fmt f.fmt [fs, fd])
    (hx : x s = (fpGate .mips1 >>= fun _ => fpMove f fs fs fd) s) : s.FpUnimplemented (runSeq x s) := by
  obtain ⟨hfpa, hcop, hisa, hwhy⟩ := h
  refine fpChecked_rejects (l := .mips1) (f := f.fmt) (g := f.fmt) (srcs := [fs]) (dst := [fs, fd]) ?_
    (hx.trans (bind_ok (fpGate_ok hcop hisa)))
  exact ⟨hfpa, hcop, hisa, hwhy.imp_right fun ⟨h30, r, hr, hodd⟩ => ⟨h30, r, List.mem_cons_of_mem _ hr, hodd⟩⟩

/-- Settles O57. -/
theorem fpExceptionTaken : Obligations.FpExceptionTaken := by
  refine ⟨fun p fcr denorm nan cmp extra a o f =>
    ⟨fpDeclines_iff, cvtWExtra_iff, cvtLExtra_iff, roundLExtra_iff, cvtDLExtra_iff⟩, ?_, ?_, ?_⟩
  · intro s w hf hc op fmt fn lvl fns1 fns2 fns3 fns4 hw
    have hlevel {l : Isa} (h : l.rank ≤ lvl) : s.HasIsa l := h
    rcases hw with ⟨hop, hw⟩ | ⟨hop, h4, hfn⟩
    · have hop := fOp_of_toNat hop
      have hfn : fFn w = BitVec.ofNat 6 fn := fFn_of_toNat rfl
      rcases hw with ⟨hfmt, h⟩ | ⟨hfmt, h⟩ | ⟨hfmt, h⟩ | ⟨hfmt, h3, h⟩
      · refine runWord_fpFormat ((decode_cop1 _ hop).trans ((decodeCop1_s (fRs_of_toNat hfmt)).trans ?_)) (l := .mips1)
          (one_le_rank _) hf hc
        unfold decodeFpS
        rw [hfn, h]
        rfl
      · refine runWord_fpFormat ((decode_cop1 _ hop).trans ((decodeCop1_d (fRs_of_toNat hfmt)).trans ?_)) (l := .mips1)
          (one_le_rank _) hf hc
        unfold decodeFpD
        rw [hfn, h]
        rfl
      · have hrs := fRs_of_toNat hfmt
        rcases h with h | ⟨hl, h⟩ | ⟨hl, h⟩ | ⟨hl, h⟩
        · exact runWord_fpW (l := .mips1) hop hrs (hfn ▸ fpFnLevel_mips1 fn h) (one_le_rank _) hf hc
        · exact runWord_fpW (l := .mips2) hop hrs (hfn ▸ fpFnLevel_mips2 fn h) (hlevel hl) hf hc
        · exact runWord_fpW (l := .mips3) hop hrs (hfn ▸ fpFnLevel_mips3 fn h) (hlevel hl) hf hc
        · exact runWord_fpW (l := .mips4) hop hrs (hfn ▸ fpFnLevel_mips4 fn h) (hlevel hl.ge) hf hc
      · have hrs := fRs_of_toNat hfmt
        rcases h with h | ⟨hl, h⟩
        · rcases List.mem_append.1 h with h | h
          · rcases List.mem_append.1 h with h | h
            · exact runWord_fpL (l := .mips1) hop hrs (hfn ▸ fpFnLevel_mips1 fn h) (hlevel h3) hf hc
            · exact runWord_fpL (l := .mips2) hop hrs (hfn ▸ fpFnLevel_mips2 fn h) (hlevel h3) hf hc
          · exact runWord_fpL (l := .mips3) hop hrs (hfn ▸ fpFnLevel_mips3 fn h) (hlevel h3) hf hc
        · exact runWord_fpL (l := .mips4) hop hrs (hfn ▸ fpFnLevel_mips4 fn h) (hlevel hl.ge) hf hc
    · exact runWord_cop1x_format (fOp_of_toNat hop) h4 (fFn_of_toNat rfl) hfn hf hc
  · intro s fs fd f h
    cases f
    · exact fpMov_rejects h rfl
    · exact fpMov_rejects h rfl
  · intro f op mk hrow s ft fs fd hruns hset h30 a b o hd he
    obtain ⟨-, hrest⟩ := fpBinaryArithmetic f op mk hrow s ft fs fd
    obtain ⟨-, -, hends⟩ := hrest hruns hset
    obtain ⟨u, hfcr, hfgr, hframe, hpc, -, hdelay, htaken, -⟩ := hends hd he
    exact ⟨u, htaken h30, hfcr, hfgr, hframe, hpc, hdelay⟩

end Sys2Proof.Machine
end

section
/-! PROOFS. Rounding to an integer, in natural numbers: what `RoundedNat` says of a number that is one. -/

namespace Sys2Proof.Machine

section Natural
variable {rm : Rm} {neg : Bool} {m k : Nat} {r : Nat × Bool}

/-- The distance of the rounded number, in natural numbers. -/
theorem RoundedNat.near_nat (h : RoundedNat rm neg k m r) : r.1 * 2 ^ k < m + 2 ^ k ∧ m < r.1 * 2 ^ k + 2 ^ k := by
  obtain ⟨hlo, hhi⟩ := abs_lt.1 h.near
  constructor
  · have : (r.1 : ℝ) * 2 ^ k < m + 2 ^ k := by linarith
    exact_mod_cast this
  · have : (m : ℝ) < r.1 * 2 ^ k + 2 ^ k := by linarith
    exact_mod_cast this

/-- Rounding to nearest: within half a unit, and even at half a unit. -/
theorem RoundedNat.nearest_nat (h : RoundedNat .nearest neg k m r) :
    2 * (r.1 * 2 ^ k) ≤ 2 * m + 2 ^ k ∧ 2 * m ≤ 2 * (r.1 * 2 ^ k) + 2 ^ k ∧
      ((2 * (r.1 * 2 ^ k) = 2 * m + 2 ^ k ∨ 2 * m = 2 * (r.1 * 2 ^ k) + 2 ^ k) → r.1 % 2 = 0) := by
  obtain ⟨hnear, heven⟩ := h.nearest rfl
  obtain ⟨hlo, hhi⟩ := abs_le.1 (show |2 * ((r.1 : ℝ) * 2 ^ k - m)| ≤ 2 ^ k by rwa [abs_mul, abs_two])
  refine ⟨?_, ?_, fun hhalf => heven ?_⟩
  · have : 2 * ((r.1 : ℝ) * 2 ^ k) ≤ 2 * m + 2 ^ k := by linarith
    exact_mod_cast this
  · have : 2 * (m : ℝ) ≤ 2 * (r.1 * 2 ^ k) + 2 ^ k := by linarith
    exact_mod_cast this
  · have hpos : (0 : ℝ) < 2 ^ k := by positivity
    rcases hhalf with hup | hdown
    · have : 2 * ((r.1 : ℝ) * 2 ^ k) = 2 * m + 2 ^ k := by exact_mod_cast hup
      rw [abs_of_nonneg (by linarith)]
      linarith
    · have : 2 * (m : ℝ) = 2 * (r.1 * 2 ^ k) + 2 ^ k := by exact_mod_cast hdown
      rw [abs_of_nonpos (by linarith)]
      linarith

theorem ite_le_natCast {b : Bool} {x y z w : Nat} (h : if b then (x : ℝ) ≤ y else (z : ℝ) ≤ w) :
    if b then x ≤ y else z ≤ w := by
  cases b <;> simpa using h

end Natural

/-- Settles O58. -/
theorem roundingToNeighbour : Obligations.RoundingToNeighbour := by
  intro rm neg m k q
  have h := roundNat_rounded rm neg m k false m le_rfl (by linarith) (by simp) nofun
  obtain ⟨hlo, hhi⟩ := h.near_nat
  refine ⟨?_, hlo, hhi, fun hrm => ?_, fun hrm => ?_, fun hrm => ?_, fun hrm => ?_⟩
  · rw [← Bool.not_eq_false, h.inexact, not_iff_not]
    exact_mod_cast Iff.rfl
  · exact_mod_cast h.zero hrm
  · exact ite_le_natCast (by exact_mod_cast h.up hrm)
  · exact ite_le_natCast (by exact_mod_cast h.down hrm)
  · subst hrm
    exact h.nearest_nat

end Sys2Proof.Machine
end

section
/-! PROOFS. The special results of floating-point arithmetic: NaNs, infinities, zeros and signs. -/

namespace Sys2Proof.Machine

/-! ### NaNs and numbers (R825) -/

/-- The value is a number or an infinity. -/
def FVal.Num : FVal → Prop
  | .nan _ => False
  | _ => True

section Values
variable {f g : FFmt} {a b : DWord} {x y : FVal} {sig : Bool}

theorem unpackF_eq_nan_iff : unpackF f a = .nan sig ↔ isNan f a = true ∧ bit a (f.mbits - 1) = sig := by
  unfold unpackF isNan
  dsimp only
  split
  · split <;> simp_all
  · split <;> simp_all

theorem isNan_iff : isNan f a = true ↔ ∃ sig, unpackF f a = .nan sig := by simp [unpackF_eq_nan_iff]

theorem isSNan_iff : isSNan f a = true ↔ unpackF f a = .nan true := by simp [unpackF_eq_nan_iff, isSNan]

theorem num_of_not_nan (h : isNan f a = false) : (unpackF f a).Num := by
  cases hx : unpackF f a with
  | nan sig => exact absurd (isNan_iff.2 ⟨sig, hx⟩) (by simp [h])
  | inf neg => trivial
  | fin neg m e => trivial

theorem isNan_of_num (h : unpackF f a = x) (hx : x.Num) : isNan f a = false := by
  rw [Bool.eq_false_iff]
  intro hn
  obtain ⟨sig, hs⟩ := isNan_iff.1 hn
  rw [← h, hs] at hx
  exact hx

/-! ### NaN operands (R894) -/

variable {k : FVal → FVal → FpOut} {k1 : FVal → FpOut}

theorem withNan2_snan (h : isSNan f a = true ∨ isSNan f b = true) : withNan2 f a b k = .invalid f := by
  simp only [isSNan_iff] at h
  unfold withNan2
  rcases h with h | h
  · rw [h]
    cases unpackF f b <;> rfl
  · rw [h]
    cases unpackF f a <;> simp

theorem withNan2_qnan (ha : isSNan f a = false) (hb : isSNan f b = false) (h : isNan f a = true ∨ isNan f b = true) :
    withNan2 f a b k = .quiet f := by
  simp only [← Bool.not_eq_true, isSNan_iff, isNan_iff] at ha hb h
  unfold withNan2
  cases hx : unpackF f a <;> cases hy : unpackF f b <;> simp_all

theorem withNan2_num (ha : unpackF f a = x) (hb : unpackF f b = y) (hx : x.Num) (hy : y.Num) :
    withNan2 f a b k = k x y := by
  unfold withNan2
  rw [ha, hb]
  cases x with
  | nan sig => exact hx.elim
  | inf _ | fin _ _ _ =>
    cases y with
    | nan sig => exact hy.elim
    | inf _ | fin _ _ _ => rfl

theorem withNan1_snan (h : isSNan f a = true) : withNan1 f g a k1 = .invalid g := by
  unfold withNan1
  rw [isSNan_iff.1 h]
  rfl

theorem withNan1_qnan (ha : isSNan f a = false) (h : isNan f a = true) : withNan1 f g a k1 = .quiet g := by
  obtain ⟨sig, hs⟩ := isNan_iff.1 h
  rw [← Bool.not_eq_true, isSNan_iff, hs] at ha
  unfold withNan1
  rw [hs]
  cases sig
  · rfl
  · exact absurd rfl ha

theorem withNan1_num (ha : unpackF f a = x) (hx : x.Num) : withNan1 f g a k1 = k1 x := by
  unfold withNan1
  rw [ha]
  cases x with
  | nan sig => exact hx.elim
  | inf _ | fin _ _ _ => rfl

end Values

/-! ### The operations on numbers and infinities -/

section Operations
variable {f g : FFmt} {rm : Rm} {a b : DWord} {x y : FVal}

theorem fAdd_num (ha : unpackF f a = x) (hb : unpackF f b = y) (hx : x.Num) (hy : y.Num) :
    fAdd f rm a b = addVal f rm x y := withNan2_num ha hb hx hy

theorem fSub_num (ha : unpackF f a = x) (hb : unpackF f b = y) (hx : x.Num) (hy : y.Num) :
    fSub f rm a b = addVal f rm x y.negate := withNan2_num ha hb hx hy

theorem fMul_num (ha : unpackF f a = x) (hb : unpackF f b = y) (hx : x.Num) (hy : y.Num) :
    fMul f rm a b = mulVal f rm x y := withNan2_num ha hb hx hy

theorem fDiv_num (ha : unpackF f a = x) (hb : unpackF f b = y) (hx : x.Num) (hy : y.Num) :
    fDiv f rm a b = divVal f rm x y := withNan2_num ha hb hx hy

end Operations

/-! ### Signs (R904, R905) -/

theorem signBit_lt (f : FFmt) : f.signBit < 64 := by cases f <;> decide

theorem bit_signMask (f : FFmt) (i : Nat) : bit (1#64 <<< f.signBit) i = decide (i = f.signBit) := by
  have := signBit_lt f
  unfold bit
  rw [BitVec.getLsbD_shiftLeft, BitVec.getLsbD_one]
  by_cases h : i = f.signBit
  · simp [h, this]
  · have : ¬(f.signBit ≤ i ∧ i - f.signBit = 0) := by omega
    simp only [h, decide_false]
    by_cases hlt : i < f.signBit
    · simp [hlt]
    · simp [show i - f.signBit ≠ 0 by omega]

theorem bit_clearSign (f : FFmt) (a : DWord) (i : Nat) :
    bit (clearSign f a) i = if i = f.signBit then false else bit a i := by
  have h := bit_signMask f i
  unfold bit at h ⊢
  unfold clearSign
  rw [BitVec.getLsbD_and, BitVec.getLsbD_not, h]
  by_cases hi : i < 64
  · simp only [hi, decide_true, Bool.true_and]
    split <;> simp [*]
  · rw [BitVec.getLsbD_of_ge _ _ (by omega)]
    simp

theorem bit_flipSign (f : FFmt) (a : DWord) (i : Nat) :
    bit (flipSign f a) i = if i = f.signBit then !bit a i else bit a i := by
  have h := bit_signMask f i
  unfold bit at h ⊢
  unfold flipSign
  rw [BitVec.getLsbD_xor, h]
  split <;> simp [*]

/-! ### Quiet NaNs -/

/-- The bit that tells a signalling NaN from a quiet one is the top bit of the mantissa field. -/
theorem bit_mantissa_top (f : FFmt) (a : DWord) : bit a (f.mbits - 1) = decide (2 ^ (f.mbits - 1) ≤ fMant f a) := by
  unfold bit fMant
  rw [← BitVec.testBit_toNat, Nat.testBit_eq_decide_div_mod_eq]
  cases f <;> simp only [FFmt.mbits] <;> norm_num <;> omega

/-- A NaN whose mantissa field is below the top bit is quiet. -/
theorem isNan_packF_quiet (f : FFmt) (neg : Bool) {m : Nat} (h0 : m ≠ 0) (hm : m < 2 ^ (f.mbits - 1)) :
    isNan f (packF f neg f.emax m) = true ∧ isSNan f (packF f neg f.emax m) = false := by
  have hlt : m < 2 ^ f.mbits := hm.trans_le (Nat.pow_le_pow_right (by decide) (Nat.sub_le _ _))
  have he : f.emax < 2 ^ f.ebits := by cases f <;> decide
  have hnan : isNan f (packF f neg f.emax m) = true := by
    simp [isNan, fExp_packF f neg _ m he hlt, fMant_packF f neg _ m he hlt, h0]
  refine ⟨hnan, ?_⟩
  simp [isSNan, bit_mantissa_top, fMant_packF f neg _ m he hlt, hm]

theorem someQuietNan_quiet (f : FFmt) (free : DWord) :
    isNan f (someQuietNan f free) = true ∧ isSNan f (someQuietNan f free) = false := by
  have hone : 1 < 2 ^ (f.mbits - 1) := by cases f <;> decide
  refine isNan_packF_quiet f _ ?_ ?_
  · split <;> omega
  · split
    · exact hone
    · exact Nat.mod_lt _ (by positivity)

/-! ### Compares (R920) -/

section Compare
variable {f : FFmt} {a b : DWord} {x y : FVal}

theorem fUnordered_num (ha : unpackF f a = x) (hb : unpackF f b = y) (hx : x.Num) (hy : y.Num) :
    fUnordered f a b = false := by simp [fUnordered, isNan_of_num ha hx, isNan_of_num hb hy]

theorem fLess_eq (ha : unpackF f a = x) (hb : unpackF f b = y) : fLess f a b = ltVal x y := by
  unfold fLess
  rw [ha, hb]

theorem fEqual_num (ha : unpackF f a = x) (hb : unpackF f b = y) (hx : x.Num) (hy : y.Num) :
    fEqual f a b = (!ltVal x y && !ltVal y x) := by
  unfold fEqual
  rw [fUnordered_num ha hb hx hy, fLess_eq ha hb, fLess_eq hb ha]
  rfl

/-- A NaN is unordered with everything. -/
theorem compare_nan (h : isNan f a = true ∨ isNan f b = true) :
    fUnordered f a b = true ∧ fLess f a b = false ∧ fEqual f a b = false := by
  have hun : fUnordered f a b = true := by simpa [fUnordered] using h
  refine ⟨hun, ?_, by simp [fEqual, hun]⟩
  unfold fLess
  rcases h with h | h
  · obtain ⟨sig, hs⟩ := isNan_iff.1 h
    rw [hs]
    cases unpackF f b <;> rfl
  · obtain ⟨sig, hs⟩ := isNan_iff.1 h
    rw [hs]
    cases unpackF f a <;> rfl

end Compare

/-! ### The statement -/

section Special
variable {f g : FFmt} {rm : Rm} {a b : DWord}

/-- The exponent field of a denormalized number is zero, that of a NaN is all ones. -/
theorem not_nan_of_denorm (h : isDenorm f a = true) : isNan f a = false := by
  have he : f.emax ≠ 0 := by cases f <;> decide
  simp only [isDenorm, Bool.and_eq_true, beq_iff_eq] at h
  simp [isNan, h.1, he.symm]

theorem fAbs_num (h : isNan f a = false) : fAbs f a = .signed f a (clearSign f a) := withNan1_num rfl (num_of_not_nan h)
theorem fNeg_num (h : isNan f a = false) : fNeg f a = .signed f a (flipSign f a) := withNan1_num rfl (num_of_not_nan h)

theorem signed_denorm (h : isDenorm f a = true) (v : DWord) :
    FpOut.signed f a v = { bits := fZero f (fSign f v), e := condU ||| condI, anyNan := false, tiny := true } := if_pos h

theorem signed_normal (h : isDenorm f a = false) (v : DWord) : FpOut.signed f a v = .exact v := if_neg (by simp [h])

theorem fSign_clearSign : fSign f (clearSign f a) = false := by simp [fSign, bit_clearSign]
theorem fSign_flipSign : fSign f (flipSign f a) = !bit a f.signBit := by simp [fSign, bit_flipSign]

end Special

/-- Settles O60: the NaN rules are those of `withNan2` and `withNan1`; elsewhere each operation is read on the values. -/
theorem fpSpecialCases : Obligations.FpSpecialCases := by
  intro f g rm a b
  refine ⟨fun h op hop => ?_, fun ha hb h op hop => ?_, fun row hrow => ?_, fun n _ h => ?_, someQuietNan_quiet f, ?_, ?_, ?_,
    ?_, ?_, ?_, ?_, ?_, ?_, compare_nan, ?_⟩
  · simp only [List.mem_cons, List.not_mem_nil, or_false] at hop
    rcases hop with rfl | rfl | rfl | rfl <;> exact withNan2_snan h
  · have hquiet : op f rm a b = .quiet f := by
      simp only [List.mem_cons, List.not_mem_nil, or_false] at hop
      rcases hop with rfl | rfl | rfl | rfl <;> exact withNan2_qnan ha hb h
    rw [hquiet]
    exact ⟨rfl, rfl⟩
  · obtain ⟨k, hk⟩ : ∃ k, row.2 = withNan1 f row.1 a k := by
      simp only [List.mem_cons, List.not_mem_nil, or_false] at hrow
      rcases hrow with rfl | rfl | rfl | rfl <;> exact ⟨_, rfl⟩
    rw [hk]
    refine ⟨withNan1_snan, fun hs hn => ?_⟩
    rw [withNan1_qnan hs hn]
    exact ⟨rfl, rfl⟩
  · unfold fToInt
    rcases h with h | ⟨neg, h⟩
    · obtain ⟨sig, hs⟩ := isNan_iff.1 h
      rw [hs]
    · rw [h]
  · intro n ha
    refine ⟨fun hb => ?_, fun hb => ?_, ?_, ?_⟩
    · rw [fAdd_num ha hb trivial trivial]
      cases n <;> rfl
    · rw [fSub_num ha hb trivial trivial]
      cases n <;> rfl
    · exact withNan1_num ha trivial
    · exact withNan1_num ha trivial
  · intro n ha
    refine ⟨fun n' m e hb => ⟨?_, ?_, ?_, ?_, fun hm => ⟨?_, ?_⟩, ?_, ?_⟩, fun hb => ?_, fun hb => ?_, fun n' hb => ?_⟩
    · exact fAdd_num ha hb trivial trivial
    · exact fAdd_num hb ha trivial trivial
    · exact fSub_num ha hb trivial trivial
    · exact fSub_num hb ha trivial trivial
    · exact (fMul_num ha hb trivial trivial).trans (if_neg hm)
    · rw [fMul_num hb ha trivial trivial, bne_comm]
      exact if_neg hm
    · exact fDiv_num ha hb trivial trivial
    · rw [fDiv_num hb ha trivial trivial, bne_comm]
      rfl
    · rw [fAdd_num ha hb trivial trivial]
      cases n <;> rfl
    · rw [fSub_num ha hb trivial trivial]
      cases n <;> rfl
    · exact fMul_num ha hb trivial trivial
  · rintro n n' e (⟨ha, hb⟩ | ⟨ha, hb⟩)
    · exact fMul_num ha hb trivial trivial
    · exact fMul_num ha hb trivial trivial
  · intro n n' e e' ha hb
    exact fDiv_num ha hb trivial trivial
  · intro n n' ha hb
    exact fDiv_num ha hb trivial trivial
  · intro n n' m e e' hm ha hb
    exact (fDiv_num ha hb trivial trivial).trans (if_neg hm)
  · intro m e hm ha
    exact (withNan1_num ha trivial).trans (if_neg hm)
  · intro h
    have hn := not_nan_of_denorm h
    rw [fAbs_num hn, fNeg_num hn, signed_denorm h, signed_denorm h, fSign_clearSign, fSign_flipSign]
    exact ⟨rfl, rfl⟩
  · intro hn hd
    refine ⟨clearSign f a, flipSign f a, ?_, ?_, bit_clearSign f a, bit_flipSign f a⟩
    · rw [fAbs_num hn, signed_normal hd]
    · rw [fNeg_num hn, signed_normal hd]
  · intro n ha
    refine ⟨fun n' hb => ⟨fUnordered_num ha hb trivial trivial, fLess_eq ha hb, ?_⟩, fun n' m e hb => ?_⟩
    · rw [fEqual_num ha hb trivial trivial]
      cases n <;> cases n' <;> rfl
    · refine ⟨fUnordered_num ha hb trivial trivial, fUnordered_num hb ha trivial trivial, fLess_eq ha hb, fLess_eq hb ha,
        ?_, ?_⟩
      · rw [fEqual_num ha hb trivial trivial]
        cases n <;> rfl
      · rw [fEqual_num hb ha trivial trivial]
        cases n <;> rfl

end Sys2Proof.Machine
end

section
/-! PROOFS. The finite results of floating-point arithmetic as real numbers, rounded once. -/

namespace Sys2Proof.Machine

/-! ### The numbers -/

section Numbers
variable {na nb : Bool} {ma mb m : Nat} {ea eb e : Int} {f : FFmt} {a : DWord}

theorem finValue_false : finValue false m e = (m : ℝ) * 2 ^ e := one_mul _
theorem finValue_true : finValue true m e = -((m : ℝ) * 2 ^ e) := neg_one_mul _

theorem finValue_not : finValue (!na) m e = -finValue na m e := by
  cases na
  · exact finValue_true.trans (congrArg Neg.neg finValue_false.symm)
  · rw [finValue_true, neg_neg]
    exact finValue_false

theorem abs_finValue : |finValue na m e| = (m : ℝ) * 2 ^ e := by
  have h : 0 ≤ (m : ℝ) * 2 ^ e := by positivity
  cases na
  · rw [finValue_false, abs_of_nonneg h]
  · rw [finValue_true, abs_neg, abs_of_nonneg h]

theorem finValue_eq_zero : finValue na m e = 0 ↔ m = 0 := by
  have h : (2 : ℝ) ^ e ≠ 0 := by positivity
  rw [← abs_eq_zero, abs_finValue, mul_eq_zero]
  simp [h]

theorem finValue_neg_iff (hm : m ≠ 0) : decide (finValue na m e < 0) = na := by
  have h : 0 < (m : ℝ) * 2 ^ e := by positivity
  cases na
  · rw [finValue_false]
    exact decide_eq_false (not_lt.2 h.le)
  · rw [finValue_true]
    exact decide_eq_true (neg_neg_of_pos h)

theorem finValue_mul : finValue na ma ea * finValue nb mb eb = finValue (na != nb) (ma * mb) (ea + eb) := by
  unfold finValue
  rw [zpow_add₀ two_ne_zero]
  cases na <;> cases nb <;> push_cast <;> simp <;> ring

theorem finValue_div : finValue na ma ea / finValue nb mb eb =
    (if na != nb then -1 else 1) * ((ma : ℝ) / mb * 2 ^ (ea - eb)) := by
  unfold finValue
  rw [zpow_sub₀ two_ne_zero]
  cases na <;> cases nb <;> simp [div_eq_mul_inv] <;> ring

/-- An integer times a power of two. -/
theorem finValue_int (t : Int) : finValue (decide (t < 0)) t.natAbs e = (t : ℝ) * 2 ^ e := by
  rcases lt_or_ge t 0 with h | h
  · rw [decide_eq_true h, finValue_true, Nat.cast_natAbs, abs_of_neg h]
    push_cast
    ring
  · rw [decide_eq_false (not_lt.2 h), finValue_false, Nat.cast_natAbs, abs_of_nonneg h]

/-- The signed mantissa at a lower exponent, as `addVal` and `ltVal` line numbers up. -/
theorem aligned_finValue (h : e ≤ ea) :
    (((if na then -((ma * 2 ^ (ea - e).toNat : Nat) : Int) else ((ma * 2 ^ (ea - e).toNat : Nat) : Int)) : Int) : ℝ) * 2 ^ e =
      finValue na ma ea := by
  have hpow : (2 : ℝ) ^ ea = 2 ^ (ea - e).toNat * 2 ^ e := by
    rw [← zpow_natCast, Int.toNat_of_nonneg (by omega), ← zpow_add₀ two_ne_zero]
    congr 1
    ring
  unfold finValue
  rw [hpow]
  cases na <;> push_cast <;> simp <;> ring

/-- The mantissa of an encoding has at most one bit more than the field. -/
theorem mant_lt (h : unpackF f a = .fin na m e) : m < 2 ^ (f.mbits + 1) := by
  have hm : fMant f a < 2 ^ f.mbits := Nat.mod_lt _ (by positivity)
  unfold unpackF at h
  dsimp only at h
  rw [pow_succ]
  split at h
  · split at h <;> exact nomatch h
  · split at h
    · obtain ⟨-, rfl, -⟩ := FVal.fin.inj h
      omega
    · obtain ⟨-, rfl, -⟩ := FVal.fin.inj h
      omega

theorem mant_lt_two_pow (h : unpackF f a = .fin na m e) : m < 2 ^ 53 :=
  (mant_lt h).trans_le (by cases f <;> decide)

end Numbers

/-! ### Quotients of natural numbers -/

theorem natCast_div_lt_succ (n d : Nat) : (n : ℝ) / d < (n / d : Nat) + 1 := by
  rw [← Nat.floor_div_eq_div (K := ℝ)]
  exact Nat.lt_floor_add_one _

theorem natCast_mod_eq_zero (n : Nat) {d : Nat} (hd : d ≠ 0) : (n % d != 0) = false ↔ (n : ℝ) / d = (n / d : Nat) := by
  have hd' : (d : ℝ) ≠ 0 := by exact_mod_cast hd
  rw [bne_eq_false_iff_eq, div_eq_iff hd', ← Nat.cast_mul, Nat.cast_inj, ← Nat.dvd_iff_mod_eq_zero]
  exact ⟨fun h => (Nat.div_mul_cancel h).symm, fun h => Dvd.intro_left _ h.symm⟩

/-! ### Rounding -/

section Rounding
variable {f : FFmt} {rm : Rm} {x y : ℝ} {z neg na nb : Bool} {m ma mb : Nat} {e ea eb : Int}

theorem rounded_zero (hx : x = 0) : Rounded f rm x z (.exact (fZero f z)) := by
  unfold Rounded
  rw [if_pos hx]

/-- A finite number other than zero, rounded. -/
theorem roundF_finValue (hm : m ≠ 0) : Rounded f rm (finValue neg m e) z (roundF f rm neg m e false) := by
  have h := roundF_rounded f rm (finValue neg m e) m z m e false hm le_rfl (by linarith) (by simp) abs_finValue nofun
  rwa [finValue_neg_iff hm] at h

theorem roundFin_finValue : Rounded f rm (finValue neg m e) neg (roundFin f rm neg m e) := by
  unfold roundFin
  split
  · rename_i h
    exact rounded_zero (finValue_eq_zero.2 h)
  · rename_i h
    exact roundF_finValue h

theorem addVal_rounded : Rounded f rm (finValue na ma ea + finValue nb mb eb) (if na = nb then na else decide (rm = .down))
    (addVal f rm (.fin na ma ea) (.fin nb mb eb)) := by
  have hzero : zeroSign rm na nb = if na = nb then na else decide (rm = .down) := by
    unfold zeroSign
    cases na <;> cases nb <;> cases rm <;> rfl
  rw [← hzero]
  unfold addVal
  dsimp only
  rw [← aligned_finValue (na := na) (ma := ma) (min_le_left ea eb),
    ← aligned_finValue (na := nb) (ma := mb) (min_le_right ea eb), ← add_mul, ← Int.cast_add]
  generalize (if na then -((ma * 2 ^ (ea - min ea eb).toNat : Nat) : Int) else ((ma * 2 ^ (ea - min ea eb).toNat : Nat) : Int)) +
    (if nb then -((mb * 2 ^ (eb - min ea eb).toNat : Nat) : Int) else ((mb * 2 ^ (eb - min ea eb).toNat : Nat) : Int)) = t
  split
  · rename_i h
    exact rounded_zero (by rw [h, Int.cast_zero, zero_mul])
  · rename_i h
    unfold roundFin
    rw [if_neg (by omega), ← finValue_int]
    exact roundF_finValue (by omega)

theorem divFin_rounded (ha : ma ≠ 0) (hb : mb ≠ 0) (hlt : mb < 2 ^ 53) (hx : |x| = (ma : ℝ) / mb * 2 ^ e) :
    Rounded f rm x z (divFin f rm (decide (x < 0)) ma mb e) := by
  have hb' : (0 : ℝ) < mb := by positivity
  have hbig : 2 ^ (f.mbits + 1) ≤ ma * 2 ^ 130 / mb := by
    rw [Nat.le_div_iff_mul_le (by omega)]
    calc 2 ^ (f.mbits + 1) * mb ≤ 2 ^ 77 * 2 ^ 53 := Nat.mul_le_mul (by cases f <;> decide) hlt.le
      _ ≤ ma * 2 ^ 130 := by rw [← pow_add]; exact Nat.le_mul_of_pos_left _ (by omega)
  refine roundF_rounded f rm x ((ma * 2 ^ 130 : Nat) / mb) z _ (e - 130) _ ?_ Nat.cast_div_le
    (natCast_div_lt_succ _ mb) (natCast_mod_eq_zero _ hb) ?_ fun _ => hbig
  · have : 0 < 2 ^ (f.mbits + 1) := by positivity
    omega
  · rw [hx, zpow_sub₀ two_ne_zero]
    push_cast
    field_simp
    norm_cast

end Rounding

/-! ### Square roots -/

section Roots
variable {f : FFmt} {rm : Rm} {z : Bool} {n m : Nat} {e : Int} {w : ℝ}

/-- The integer square root of the integer part of a number. -/
theorem isqrt_bounds (hn : n < 2 ^ 248) (lo : (n : ℝ) ≤ w) (hi : w < n + 1) :
    (isqrt n : ℝ) ≤ √w ∧ √w < isqrt n + 1 := by
  obtain ⟨hle, hlt⟩ := isqrt_spec n hn
  constructor
  · apply Real.le_sqrt_of_sq_le
    have : ((isqrt n * isqrt n : Nat) : ℝ) ≤ n := by exact_mod_cast hle
    push_cast at this
    linarith
  · rw [Real.sqrt_lt' (by positivity)]
    have : ((n + 1 : Nat) : ℝ) ≤ ((isqrt n + 1) * (isqrt n + 1) : Nat) := by exact_mod_cast hlt
    push_cast at this
    linarith

theorem sqrt_eq_isqrt_iff (hn : n < 2 ^ 248) (lo : (n : ℝ) ≤ w) : √w = isqrt n ↔ isqrt n * isqrt n = n ∧ w = n := by
  obtain ⟨hle, -⟩ := isqrt_spec n hn
  have hle' : ((isqrt n * isqrt n : Nat) : ℝ) ≤ n := by exact_mod_cast hle
  have hw : 0 ≤ w := (Nat.cast_nonneg n).trans lo
  rw [Real.sqrt_eq_iff_mul_self_eq hw (Nat.cast_nonneg _), ← Nat.cast_mul]
  constructor
  · intro h
    have hwn : w = n := le_antisymm (by rw [h]; exact hle') lo
    exact ⟨by exact_mod_cast h.symm.trans hwn, hwn⟩
  · rintro ⟨hsq, hwn⟩
    rw [hsq, hwn]

/-- A square root with an even exponent. -/
theorem sqrt_mul_zpow (w : ℝ) {E : Int} (hE : E % 2 = 0) : √(w * 2 ^ E) = √w * 2 ^ (E / 2) := by
  have h : (2 : ℝ) ^ E = (2 ^ (E / 2)) ^ 2 := by
    rw [← zpow_natCast, ← zpow_mul]
    congr 1
    push_cast
    omega
  rw [h, Real.sqrt_mul' _ (by positivity), Real.sqrt_sq (by positivity)]

/-- `sqrtArg` writes the number with an even exponent and 120 or 121 further bits. -/
theorem sqrtArg_spec (m : Nat) (e : Int) : (sqrtArg m e).2 % 2 = 0 ∧
    ((sqrtArg m e).1 : ℝ) * 2 ^ (sqrtArg m e).2 = (m : ℝ) * 2 ^ e ∧
    m * 2 ^ 120 ≤ (sqrtArg m e).1 ∧ (sqrtArg m e).1 ≤ m * 2 ^ 121 := by
  have hle : m * 2 ^ 120 ≤ m * 2 ^ 121 := Nat.mul_le_mul_left _ (by decide)
  have hval (k : Nat) : ((m * 2 ^ k : Nat) : ℝ) * 2 ^ (e - k) = (m : ℝ) * 2 ^ e := by
    rw [zpow_sub₀ two_ne_zero, zpow_natCast]
    push_cast
    field_simp
  unfold sqrtArg
  split
  · exact ⟨by dsimp only; omega, hval 120, le_rfl, hle⟩
  · exact ⟨by dsimp only; omega, hval 121, hle, le_rfl⟩

/-- A number of 120 bits has a square root of more bits than a format. -/
theorem le_isqrt (h : 2 ^ 120 ≤ n) (hn : n < 2 ^ 248) : 2 ^ (f.mbits + 1) ≤ isqrt n := by
  obtain ⟨-, hlt⟩ := isqrt_spec n hn
  have hf : 2 ^ (f.mbits + 1) ≤ 2 ^ 53 := by cases f <;> decide
  by_contra hsmall
  have hle : isqrt n + 1 ≤ 2 ^ 53 := by omega
  have := Nat.mul_le_mul hle hle
  omega

/-- The root of an integer and a fraction, rounded from its integer part. -/
theorem roundF_isqrt (h : 2 ^ 120 ≤ n) (hn : n < 2 ^ 248) (lo : (n : ℝ) ≤ w) (hi : w < n + 1) {sticky : Bool}
    (hs : sticky = false ↔ isqrt n * isqrt n = n ∧ w = n) :
    Rounded f rm (√w * 2 ^ e) z (roundF f rm false (isqrt n) e sticky) := by
  obtain ⟨hlo, hhi⟩ := isqrt_bounds hn lo hi
  have hnonneg : 0 ≤ √w * 2 ^ e := by positivity
  have hbig := le_isqrt (f := f) h hn
  have hpos : 0 < 2 ^ (f.mbits + 1) := by positivity
  have hr := roundF_rounded f rm (√w * 2 ^ e) (√w) z (isqrt n) e sticky (by omega) hlo hhi
    (hs.trans (sqrt_eq_isqrt_iff hn lo).symm) (abs_of_nonneg hnonneg) fun _ => hbig
  rwa [decide_eq_false (not_lt.2 hnonneg)] at hr

theorem sqrt_rounded (hm : m ≠ 0) (hlt : m < 2 ^ 53) : Rounded f rm (√((m : ℝ) * 2 ^ e)) z
    (roundF f rm false (isqrt (sqrtArg m e).1) ((sqrtArg m e).2 / 2)
      (isqrt (sqrtArg m e).1 * isqrt (sqrtArg m e).1 != (sqrtArg m e).1)) := by
  obtain ⟨heven, hval, hge, hle⟩ := sqrtArg_spec m e
  rw [← hval, sqrt_mul_zpow _ heven]
  exact roundF_isqrt (by omega) (by omega) le_rfl (by linarith) (by simp)

end Roots

/-! ### Integers -/

section Integers
variable {rm : Rm} {neg : Bool} {m : Nat} {e : Int} {r : Nat × Bool} {n : Nat}

/-- Rounding to an integer, of the number itself. -/
theorem roundInt_rounded (rm : Rm) (neg : Bool) (m : Nat) (e : Int) :
    RoundedNat rm neg 0 ((m : ℝ) * 2 ^ e) (roundInt rm neg m e) := by
  unfold roundInt
  split
  · rename_i h
    have hv : (m : ℝ) * 2 ^ e = ((m * 2 ^ e.toNat : Nat) : ℝ) * 2 ^ 0 := by
      rw [← Int.toNat_of_nonneg h, zpow_natCast, Int.toNat_natCast]
      push_cast
      ring
    rw [hv]
    exact ⟨by simp, fun _ => by simp, fun _ => le_rfl, fun _ => by simp, fun _ => by simp, by simp⟩
  · rename_i h
    obtain ⟨k, hk⟩ : ∃ k : Nat, e = -(k : Int) := ⟨(-e).toNat, by omega⟩
    subst hk
    have R := roundNat_rounded rm neg m k false m le_rfl (by linarith) (by simp) nofun
    rw [neg_neg, Int.toNat_natCast]
    set y := roundNat rm neg m k false
    have hd : (0 : ℝ) < 2 ^ k := by positivity
    have hv : (m : ℝ) * 2 ^ (-(k : Int)) = m / 2 ^ k := by rw [zpow_neg, zpow_natCast]; rfl
    have hle : (y.1 : ℝ) * 2 ^ 0 ≤ m / 2 ^ k ↔ (y.1 : ℝ) * 2 ^ k ≤ m := by rw [pow_zero, mul_one, le_div_iff₀ hd]
    have hge : (m : ℝ) / 2 ^ k ≤ y.1 * 2 ^ 0 ↔ (m : ℝ) ≤ y.1 * 2 ^ k := by rw [pow_zero, mul_one, div_le_iff₀ hd]
    have hdist : |(y.1 : ℝ) * 2 ^ 0 - m / 2 ^ k| = |(y.1 : ℝ) * 2 ^ k - m| / 2 ^ k := by
      rw [← abs_of_pos hd, ← abs_div, abs_of_pos hd]
      congr 1
      field_simp
    rw [hv]
    refine ⟨?_, fun h => ?_, fun h => hle.2 (R.zero h), fun h => ?_, fun h => ?_, ?_⟩
    · rw [hdist, pow_zero, div_lt_one hd]
      exact R.near
    · obtain ⟨hnear, heven⟩ := R.nearest h
      rw [hdist, pow_zero, ← mul_div_assoc, div_le_one hd, div_eq_one_iff_eq hd.ne']
      exact ⟨hnear, heven⟩
    · rw [hle, hge]
      exact R.up h
    · rw [hle, hge]
      exact R.down h
    · rw [R.inexact, pow_zero, mul_one, eq_div_iff hd.ne']

/-- The rounded number with the sign of the exact one. -/
theorem signed_sub_finValue (neg : Bool) (q m : Nat) (e : Int) :
    |(((if neg then -(q : Int) else q) : Int) : ℝ) - finValue neg m e| = |(q : ℝ) - m * 2 ^ e| := by
  cases neg
  · rw [finValue_false]
    rfl
  · rw [finValue_true, ← abs_neg]
    congr 1
    push_cast
    simp
    ring

/-- What does not fit in `n + 1` bits, by magnitude and by value. -/
theorem not_fits_iff (neg : Bool) (q n : Nat) : (q ≥ 2 ^ n ∧ ¬(neg = true ∧ q = 2 ^ n)) ↔
    ¬(-2 ^ n ≤ (if neg then -(q : Int) else (q : Int)) ∧ (if neg then -(q : Int) else (q : Int)) < 2 ^ n) := by
  have hpow : (2 : Int) ^ n = ((2 ^ n : Nat) : Int) := by push_cast; rfl
  have hpos : 0 < 2 ^ n := by positivity
  rw [hpow]
  generalize 2 ^ n = p at hpos ⊢
  cases neg
  · simp
  · simp
    omega

/-- The integer that `fToInt` delivers, or Invalid where it does not fit. -/
theorem roundedInt_of_nat (h : RoundedNat rm neg 0 ((m : ℝ) * 2 ^ e) r) : RoundedInt n rm (finValue neg m e)
    (if r.1 ≥ 2 ^ (n - 1) ∧ ¬(neg ∧ r.1 = 2 ^ (n - 1)) then .cond (BitVec.ofNat 64 (2 ^ (n - 1) - 1)) condV
      else .cond (BitVec.ofInt 64 (if neg then -(r.1 : Int) else r.1)) (if r.2 then condI else 0)) := by
  obtain ⟨hnear, hnearest, hzero, hup, hdown, hexact⟩ := h
  rw [pow_zero, mul_one] at hnear hnearest hzero hup hdown hexact
  refine ⟨if neg then -(r.1 : Int) else r.1, ?_, fun hrm => ?_, fun hrm => ?_, fun hrm => ?_, fun hrm => ?_, ?_⟩
  · rwa [signed_sub_finValue]
  · obtain ⟨hhalf, heven⟩ := hnearest hrm
    rw [signed_sub_finValue]
    refine ⟨hhalf, fun h => ?_⟩
    have := heven h
    split <;> omega
  · rw [abs_finValue]
    have habs : |(((if neg then -(r.1 : Int) else r.1) : Int) : ℝ)| = r.1 := by cases neg <;> simp
    rw [habs]
    exact hzero hrm
  · have := hup hrm
    cases neg
    · rw [finValue_false]
      simpa using this
    · rw [finValue_true]
      simpa using this
  · have := hdown hrm
    cases neg
    · rw [finValue_false]
      simpa using this
    · rw [finValue_true]
      simpa using this
  · have heq : (((if neg then -(r.1 : Int) else r.1) : Int) : ℝ) = finValue neg m e ↔ r.2 = false := by
      rw [← sub_eq_zero, ← abs_eq_zero, signed_sub_finValue, abs_eq_zero, sub_eq_zero, hexact]
    have hinexact : (if r.2 then condI else 0) =
        if (((if neg then -(r.1 : Int) else r.1) : Int) : ℝ) = finValue neg m e then 0 else condI := by
      simp only [heq]
      cases r.2 <;> rfl
    simp only [not_fits_iff, hinexact]
    rw [ite_not]

end Integers

/-! ### The statement -/

section Finite
variable {f g : FFmt} {rm : Rm} {a b : DWord} {na nb : Bool} {ma mb : Nat} {ea eb : Int}

/-- Numbers compare as the reals they stand for. -/
theorem ltVal_finValue : ltVal (.fin na ma ea) (.fin nb mb eb) = true ↔ finValue na ma ea < finValue nb mb eb := by
  rw [← aligned_finValue (min_le_left ea eb), ← aligned_finValue (min_le_right ea eb),
    mul_lt_mul_iff_left₀ (by positivity), Int.cast_lt]
  exact decide_eq_true_iff

theorem fDiv_rounded (ha : unpackF f a = .fin na ma ea) (hb : unpackF f b = .fin nb mb eb) (hmb : mb ≠ 0) :
    Rounded f rm (finValue na ma ea / finValue nb mb eb) (na != nb) (fDiv f rm a b) := by
  have hdiv : fDiv f rm a b = if ma = 0 then .exact (fZero f (na != nb)) else divFin f rm (na != nb) ma mb (ea - eb) :=
    (fDiv_num ha hb trivial trivial).trans (if_neg hmb)
  rw [hdiv]
  split
  · rename_i h
    exact rounded_zero (by rw [finValue_eq_zero.2 h, zero_div])
  · rename_i h
    have hpos : 0 < (ma : ℝ) / mb * 2 ^ (ea - eb) := by positivity
    have hx := finValue_div (na := na) (ma := ma) (ea := ea) (nb := nb) (mb := mb) (eb := eb)
    have hsign : decide (finValue na ma ea / finValue nb mb eb < 0) = (na != nb) := by
      rw [hx]
      cases na != nb
      · simpa using hpos.le
      · simpa using hpos
    have habs : |finValue na ma ea / finValue nb mb eb| = (ma : ℝ) / mb * 2 ^ (ea - eb) := by
      rw [hx, abs_mul, abs_of_pos hpos]
      cases na != nb <;> simp
    have hr := divFin_rounded (f := f) (rm := rm) (z := na != nb) h hmb (mant_lt_two_pow hb) habs
    rwa [hsign] at hr

theorem fSqrt_rounded (ha : unpackF f a = .fin na ma ea) (h : na = false ∨ ma = 0) :
    Rounded f rm (√(finValue na ma ea)) na (fSqrt f rm a) := by
  have hsqrt : fSqrt f rm a = _ := withNan1_num ha trivial
  rw [hsqrt]
  dsimp only
  split
  · rename_i hz
    exact rounded_zero (by rw [finValue_eq_zero.2 hz, Real.sqrt_zero])
  · rename_i hz
    obtain rfl := h.resolve_right hz
    rw [finValue_false]
    exact sqrt_rounded hz (mant_lt_two_pow ha)

theorem fToInt_rounded (ha : unpackF f a = .fin na ma ea) (n : Nat) :
    RoundedInt n rm (finValue na ma ea) (fToInt f n rm a) := by
  unfold fToInt
  rw [ha]
  exact roundedInt_of_nat (roundInt_rounded rm na ma ea)

theorem fFromInt_rounded (n : Int) : Rounded g rm n false (fFromInt g rm n) := by
  have hn : (n : ℝ) = finValue (decide (n < 0)) n.natAbs 0 := by rw [finValue_int, zpow_zero, mul_one]
  unfold fFromInt
  by_cases h : n = 0
  · subst h
    exact rounded_zero Int.cast_zero
  · unfold roundFin
    rw [hn, if_neg (by omega)]
    exact roundF_finValue (by omega)

theorem fEqual_finValue (ha : unpackF f a = .fin na ma ea) (hb : unpackF f b = .fin nb mb eb) :
    fEqual f a b = true ↔ finValue na ma ea = finValue nb mb eb := by
  rw [fEqual_num ha hb trivial trivial, Bool.and_eq_true, Bool.not_eq_true', Bool.not_eq_true', ← Bool.not_eq_true,
    ← Bool.not_eq_true, ltVal_finValue, ltVal_finValue, not_lt, not_lt]
  exact ⟨fun ⟨hge, hle⟩ => le_antisymm hle hge, fun h => ⟨h.ge, h.le⟩⟩

end Finite

/-- Settles O59. -/
theorem fpFiniteResults : Obligations.FpFiniteResults := by
  intro f g rm a b na nb ma mb ea eb ha hb x y
  refine ⟨?_, ?_, ?_, fDiv_rounded ha hb, fSqrt_rounded ha, ?_, fFromInt_rounded, fun n _ => fToInt_rounded ha n, ?_,
    fEqual_finValue ha hb, fUnordered_num ha hb trivial trivial⟩
  · rw [fAdd_num ha hb trivial trivial]
    exact addVal_rounded
  · have hneg : x - y = finValue na ma ea + finValue (!nb) mb eb := by rw [finValue_not, ← sub_eq_add_neg]
    rw [fSub_num ha hb trivial trivial, hneg]
    exact addVal_rounded
  · have hmul : x * y = finValue (na != nb) (ma * mb) (ea + eb) := finValue_mul
    rw [fMul_num ha hb trivial trivial, hmul]
    exact roundFin_finValue
  · have hconv : fConvert f g rm a = roundFin g rm na ma ea := withNan1_num ha trivial
    rw [hconv]
    exact roundFin_finValue
  · rw [fLess_eq ha hb]
    exact ltVal_finValue

end Sys2Proof.Machine
end

section
/-! PROOFS. The approximations of the R5000: near the reciprocal and the reciprocal of the square root. -/

namespace Sys2Proof.Machine

/-! ### Numbers near an exact one -/

section Near
variable {f : FFmt} {rm : Rm} {neg z : Bool} {k c m : Nat} {e u top : Int} {w x : ℝ} {o : FpOut}

/-- A result with a condition beside others has none of the conditions that the whole has not. -/
theorem and_eq_zero_of_or {a b d : BitVec 5} (h : (a ||| b) &&& d = 0) : a &&& d = 0 := by
  refine BitVec.eq_of_getLsbD_eq fun i _ => ?_
  have hi := congrArg (·.getLsbD i) h
  simp only [BitVec.getLsbD_and, BitVec.getLsbD_or] at hi ⊢
  revert hi
  cases a.getLsbD i <;> simp

/-- A number rounded once that neither overflows nor underflows is the rounded number, with the sign of the exact one. -/
theorem Rounded.value (h : Rounded f rm x z o) (hx : x ≠ 0) (ho : o.e &&& (condO ||| condU) = 0) :
    ∃ (q : Nat) (t : Int) (m : Nat) (e : Int), 2 ^ f.mbits * 2 ^ t ≤ |x| ∧ |x| < 2 ^ (f.mbits + 1) * 2 ^ t ∧
      abs ((q : ℝ) * 2 ^ t - |x|) < 2 ^ t ∧ unpackF f o.bits = .fin (decide (x < 0)) m e ∧ (m : ℝ) * 2 ^ e = q * 2 ^ t ∧
      o.e = if (q : ℝ) * 2 ^ t = |x| then 0 else condI := by
  unfold Rounded at h
  rw [if_neg hx] at h
  obtain ⟨q, t, hlo, hhi, hnear, -, -, -, -, hout⟩ := h
  split at hout
  · rw [hout] at ho
    exact absurd ho (show ¬(condO ||| condI) &&& (condO ||| condU) = 0 by decide)
  · split at hout
    · rw [hout] at ho
      exact absurd ho (show ¬(condU ||| condI) &&& (condO ||| condU) = 0 by decide)
    · obtain ⟨⟨m, e, hbits, -, hval⟩, hcond⟩ := hout
      exact ⟨q, t, m, e, hlo, hhi, hnear, hbits, hval, congrArg FpOut.e hcond⟩

/-- The distance of two numbers of one sign. -/
theorem finValue_sub_of_sign (hm : (m : ℝ) * 2 ^ e = w) : |finValue (decide (x < 0)) m e - x| = abs (w - |x|) := by
  rw [← hm]
  rcases lt_or_ge x 0 with h | h
  · rw [decide_eq_true h, finValue_true, abs_of_neg h, ← abs_neg]
    congr 1
    ring
  · rw [decide_eq_false (not_lt.2 h), finValue_false, abs_of_nonneg h]

/-- The correctly rounded number is within one unit. -/
theorem Rounded.near (h : Rounded f rm x z o) (hx : x ≠ 0) (hk : 1 ≤ k) (ho : o.e &&& (condO ||| condU) = 0) :
    Near f k x o := by
  obtain ⟨q, t, m, e, hlo, hhi, hnear, hbits, hval, -⟩ := h.value hx ho
  refine ⟨_, m, e, t, hbits, .inl hlo, hhi, ?_⟩
  rw [finValue_sub_of_sign hval]
  have hk' : (1 : ℝ) ≤ k := by exact_mod_cast hk
  exact hnear.le.trans (le_mul_of_one_le_left (by positivity) hk')

/-- A number of the format's precision is not inexact when it is rounded. -/
theorem roundF_not_inexact (hfit : fitsF f c = true) : (roundF f rm neg c e false).e ≠ condI := by
  have hcut : c % 2 ^ (c.log2 + 1 - (f.mbits + 1)) = 0 := by
    rw [show c.log2 + 1 - (f.mbits + 1) = c.log2 - f.mbits by omega]
    unfold fitsF at hfit
    simp only [Bool.or_eq_true, decide_eq_true_eq, beq_iff_eq] at hfit
    rcases hfit with h | h
    · rw [Nat.sub_eq_zero_of_le h, pow_zero, Nat.mod_one]
    · exact h
  have hexact : (roundNat rm neg c (c.log2 + 1 - (f.mbits + 1)) false).2 = false := by
    unfold roundNat
    dsimp only
    rw [hcut]
    rfl
  obtain ⟨mant, top, hplace⟩ : ∃ mant top, roundF f rm neg c e false =
      placeF f rm neg mant top (roundNat rm neg c (c.log2 + 1 - (f.mbits + 1)) false).2 := ⟨_, _, rfl⟩
  rw [hplace, hexact]
  unfold placeF
  dsimp only
  split
  · exact show condO ||| condI ≠ condI by decide
  · split
    · exact show condU ||| condI ≠ condI by decide
    · exact show (0 : BitVec 5) ≠ condI by decide

/-- A number of the format's precision that neither overflows nor underflows is itself. -/
theorem roundF_fits (hfit : fitsF f c = true) (hc : c ≠ 0)
    (ho : (roundF f rm neg c e false).e &&& (condO ||| condU) = 0) :
    ∃ m' e', unpackF f (roundF f rm neg c e false).bits = .fin neg m' e' ∧ (m' : ℝ) * 2 ^ e' = c * 2 ^ e := by
  have hround := roundF_finValue (f := f) (rm := rm) (neg := neg) (z := neg) (e := e) hc
  obtain ⟨q, t, m, e', -, -, -, hbits, hval, hcond⟩ := hround.value (finValue_eq_zero.not.2 hc) ho
  rw [finValue_neg_iff hc] at hbits
  refine ⟨m, e', hbits, hval.trans ?_⟩
  by_contra hne
  rw [abs_finValue, if_neg hne] at hcond
  exact roundF_not_inexact hfit hcond

/-- The unit of a number whose leading bit is worth `2^top`. -/
theorem unitExp_spec (hlo : (2 : ℝ) ^ top ≤ w) (hhi : w < 2 ^ (top + 1)) :
    (2 ^ f.mbits * 2 ^ unitExp f top ≤ w ∨ unitExp f top = 1 - (f.bias : Int) - f.mbits) ∧
      w < 2 ^ (f.mbits + 1) * 2 ^ unitExp f top := by
  have hpow (n : Nat) (t : Int) : (2 : ℝ) ^ n * 2 ^ t = 2 ^ (n + t) := by rw [zpow_add₀ two_ne_zero, zpow_natCast]
  rw [hpow, hpow]
  constructor
  · rcases max_choice (top - f.mbits) (1 - (f.bias : Int) - f.mbits) with h | h
    · left
      rwa [unitExp, h, add_sub_cancel]
    · exact .inr h
  · refine hhi.trans_le (zpow_le_zpow_right₀ one_le_two ?_)
    have : top - f.mbits ≤ unitExp f top := le_max_left _ _
    push_cast
    omega

/-- An approximation is within `k` units, if the outcome it falls back to is. -/
theorem approximate_near {base : Nat} {out : FpOut} {free : DWord} {cmp : Nat → Ordering}
    (hneg : decide (x < 0) = neg) (hgt : ∀ c, cmp c ≠ .gt ↔ (c : ℝ) * 2 ^ (u - 1) ≤ |x|)
    (hlt : ∀ c, cmp c ≠ .lt ↔ |x| ≤ (c : ℝ) * 2 ^ (u - 1))
    (hunit : (2 ^ f.mbits * 2 ^ u ≤ |x| ∨ u = 1 - (f.bias : Int) - f.mbits) ∧ |x| < 2 ^ (f.mbits + 1) * 2 ^ u)
    (hout : out.e &&& (condO ||| condU) = 0 → Near f k x out)
    (ho : (approximate f rm neg k base u out free cmp).e &&& (condO ||| condU) = 0) :
    Near f k x (approximate f rm neg k base u out free cmp) := by
  unfold approximate at ho ⊢
  dsimp only at ho ⊢
  generalize base - 2 * k + free.toNat % (4 * k + 1) = c at ho ⊢
  split
  · rename_i hc
    rw [if_pos hc] at ho
    obtain ⟨hc0, hfit, hle, hge⟩ := hc
    obtain ⟨m', e', hbits, hval⟩ := roundF_fits hfit hc0 (and_eq_zero_of_or ho)
    refine ⟨neg, m', e', u, hbits, hunit.1, hunit.2, ?_⟩
    rw [← hneg, finValue_sub_of_sign hval]
    have hhalf : (2 : ℝ) ^ u = 2 * 2 ^ (u - 1) := by
      rw [zpow_sub_one₀ two_ne_zero]
      ring
    have hp : (0 : ℝ) < 2 ^ (u - 1) := by positivity
    have hlow : (c : ℝ) ≤ ((c - 2 * k : Nat) : ℝ) + 2 * k := by exact_mod_cast (by omega : c ≤ c - 2 * k + 2 * k)
    have hle' := (hgt _).1 hle
    have hge' := (hlt _).1 hge
    push_cast at hge'
    rw [hhalf, abs_le]
    constructor
    · linarith
    · have := mul_le_mul_of_nonneg_right hlow hp.le
      linarith
  · rename_i hc
    rw [if_neg hc] at ho
    exact hout ho

end Near

/-! ### Comparing with one, and the place of the leading bit -/

section Place
variable {m n c : Nat} {e u : Int} {w : ℝ}

theorem mul_zpow_eq_div (m : Nat) (e : Int) : (m : ℝ) * 2 ^ e = (m * 2 ^ e.toNat : Nat) / (2 ^ (-e).toNat : Nat) := by
  have h : (2 : ℝ) ^ e = 2 ^ e.toNat / 2 ^ (-e).toNat := by
    rw [← zpow_natCast, ← zpow_natCast, ← zpow_sub₀ two_ne_zero]
    congr 1
    omega
  rw [h]
  push_cast
  rw [mul_div_assoc]

theorem cmpOne_ne_gt : cmpOne m e ≠ .gt ↔ (m : ℝ) * 2 ^ e ≤ 1 := by
  unfold cmpOne
  rw [Nat.compare_ne_gt, mul_zpow_eq_div, div_le_one (by positivity), Nat.cast_le]

theorem cmpOne_ne_lt : cmpOne m e ≠ .lt ↔ 1 ≤ (m : ℝ) * 2 ^ e := by
  unfold cmpOne
  rw [Nat.compare_ne_lt, mul_zpow_eq_div, one_le_div (by positivity), Nat.cast_le]

/-- The leading bit of a scaled number, from its integer part. -/
theorem log2_scaled (hn : n ≠ 0) (lo : (n : ℝ) ≤ w) (hi : w < n + 1) (s : Int) :
    (2 : ℝ) ^ (n.log2 + s) ≤ w * 2 ^ s ∧ w * 2 ^ s < 2 ^ (n.log2 + s + 1) := by
  have hlow : ((2 ^ n.log2 : Nat) : ℝ) ≤ n := by exact_mod_cast Nat.log2_self_le hn
  have hhigh : ((n + 1 : Nat) : ℝ) ≤ (2 ^ (n.log2 + 1) : Nat) := by exact_mod_cast (Nat.lt_log2_self : n < _)
  push_cast at hlow hhigh
  have hs : (0 : ℝ) < 2 ^ s := by positivity
  rw [show (n.log2 : Int) + s + 1 = ((n.log2 + 1 : Nat) : Int) + s by push_cast; ring, zpow_add₀ two_ne_zero,
    zpow_add₀ two_ne_zero, zpow_natCast, zpow_natCast]
  exact ⟨mul_le_mul_of_nonneg_right (hlow.trans lo) hs.le, mul_lt_mul_of_pos_right (hi.trans_le hhigh) hs⟩

/-- The comparison RECIP makes: `c` half units with the reciprocal. -/
theorem recip_cmp (hm : m ≠ 0) : (cmpOne (c * m) (u - 1 + e) ≠ .gt ↔ (c : ℝ) * 2 ^ (u - 1) ≤ ((m : ℝ) * 2 ^ e)⁻¹) ∧
    (cmpOne (c * m) (u - 1 + e) ≠ .lt ↔ ((m : ℝ) * 2 ^ e)⁻¹ ≤ (c : ℝ) * 2 ^ (u - 1)) := by
  have hpos : 0 < (m : ℝ) * 2 ^ e := by positivity
  have hval : ((c * m : Nat) : ℝ) * 2 ^ (u - 1 + e) = c * 2 ^ (u - 1) * (m * 2 ^ e) := by
    rw [zpow_add₀ two_ne_zero]
    push_cast
    ring
  rw [cmpOne_ne_gt, cmpOne_ne_lt, hval, ← one_div, le_div_iff₀ hpos, div_le_iff₀ hpos]
  exact ⟨Iff.rfl, Iff.rfl⟩

/-- The comparison RSQRT makes: `c` half units with the reciprocal of the square root. -/
theorem rsqrt_cmp (hm : m ≠ 0) :
    (cmpOne (c * c * m) (2 * (u - 1) + e) ≠ .gt ↔ (c : ℝ) * 2 ^ (u - 1) ≤ (√((m : ℝ) * 2 ^ e))⁻¹) ∧
    (cmpOne (c * c * m) (2 * (u - 1) + e) ≠ .lt ↔ (√((m : ℝ) * 2 ^ e))⁻¹ ≤ (c : ℝ) * 2 ^ (u - 1)) := by
  have hpos : 0 < (m : ℝ) * 2 ^ e := by positivity
  have hroot : 0 < √((m : ℝ) * 2 ^ e) := Real.sqrt_pos.2 hpos
  have hnonneg : 0 ≤ (c : ℝ) * 2 ^ (u - 1) * √((m : ℝ) * 2 ^ e) := by positivity
  have hval : ((c * c * m : Nat) : ℝ) * 2 ^ (2 * (u - 1) + e) = (c * 2 ^ (u - 1) * √((m : ℝ) * 2 ^ e)) ^ 2 := by
    rw [mul_pow, Real.sq_sqrt hpos.le, zpow_add₀ two_ne_zero, two_mul, zpow_add₀ two_ne_zero]
    push_cast
    ring
  rw [cmpOne_ne_gt, cmpOne_ne_lt, hval, sq_le_one_iff₀ hnonneg, one_le_sq_iff₀ hnonneg, ← one_div, le_div_iff₀ hroot,
    div_le_iff₀ hroot]
  exact ⟨Iff.rfl, Iff.rfl⟩

end Place

/-! ### RECIP and RSQRT -/

section Approximations
variable {f : FFmt} {rm : Rm} {a free : DWord} {neg : Bool} {m : Nat} {e : Int}

theorem abs_inv_finValue : |(finValue neg m e)⁻¹| = ((m : ℝ) * 2 ^ e)⁻¹ := by rw [abs_inv, abs_finValue]

theorem fRecip_zero (ha : unpackF f a = .fin neg 0 e) : fRecip f rm free a = .cond (fInf f neg) condZ :=
  withNan1_num ha trivial

theorem fRsqrt_zero (ha : unpackF f a = .fin neg 0 e) : fRsqrt f rm free a = .cond (fInf f neg) condZ :=
  withNan1_num ha trivial

theorem fRecip_near (ha : unpackF f a = .fin neg m e) (hm : m ≠ 0)
    (ho : (fRecip f rm free a).e &&& (condO ||| condU) = 0) : Near f 1 (finValue neg m e)⁻¹ (fRecip f rm free a) := by
  have hdef : fRecip f rm free a = _ := (withNan1_num ha trivial).trans (if_neg hm)
  rw [hdef] at ho ⊢
  have hlt := mant_lt_two_pow ha
  have hm' : (m : ℝ) ≠ 0 := by exact_mod_cast hm
  have hne : (finValue neg m e)⁻¹ ≠ 0 := inv_ne_zero (finValue_eq_zero.not.2 hm)
  have hsign : decide ((finValue neg m e)⁻¹ < 0) = neg := by
    simp only [inv_lt_zero]
    exact finValue_neg_iff hm
  have hscale : ((2 ^ 130 : Nat) : ℝ) / m * 2 ^ (-130 - e) = |(finValue neg m e)⁻¹| := by
    rw [abs_inv_finValue, zpow_sub₀ two_ne_zero]
    push_cast
    field_simp
    norm_num
  have hn : 2 ^ 130 / m ≠ 0 := by
    rw [Nat.div_ne_zero_iff]
    omega
  obtain ⟨hlo, hhi⟩ := log2_scaled hn Nat.cast_div_le (natCast_div_lt_succ (2 ^ 130) m) (-130 - e)
  rw [hscale, ← add_sub_assoc, ← sub_eq_add_neg] at hlo hhi
  refine approximate_near hsign (fun c => ?_) (fun c => ?_) (unitExp_spec hlo hhi) (fun hout => ?_) ho
  · rw [abs_inv_finValue]
    exact (recip_cmp hm).1
  · rw [abs_inv_finValue]
    exact (recip_cmp hm).2
  · refine Rounded.near (rm := rm) (z := neg) ?_ hne le_rfl hout
    have habs : |(finValue neg m e)⁻¹| = ((1 : Nat) : ℝ) / m * 2 ^ (-e) := by
      rw [abs_inv_finValue, mul_inv, zpow_neg, Nat.cast_one, one_div]
    have hr := divFin_rounded (f := f) (rm := rm) (z := neg) one_ne_zero hm hlt habs
    rwa [hsign] at hr

theorem inv_sqrt_pos (hm : m ≠ 0) : 0 < (√(finValue false m e))⁻¹ := by
  rw [finValue_false]
  positivity

/-- An approximation of the reciprocal of the square root, `r` plus less than one times `2^k`. -/
theorem approximate_rsqrt_near {r base : Nat} {k u : Int} {v : ℝ} {o out : FpOut} (hm : m ≠ 0) (hr : r ≠ 0) (hlo : (r : ℝ) ≤ v)
    (hhi : v < r + 1) (hv : v * 2 ^ k = (√(finValue false m e))⁻¹) (hu : u = unitExp f (r.log2 + k))
    (hout : Rounded f rm (v * 2 ^ k) false out)
    (ho : o.e &&& (condO ||| condU) = 0)
    (h : o = approximate f rm false 2 base u out free fun c => cmpOne (c * c * m) (2 * (u - 1) + e)) :
    Near f 2 (√(finValue false m e))⁻¹ o := by
  subst h
  have hpos := inv_sqrt_pos (e := e) hm
  obtain ⟨hplace, hplace'⟩ := log2_scaled hr hlo hhi k
  rw [hv, ← abs_of_pos hpos] at hplace hplace'
  refine approximate_near (decide_eq_false (not_lt.2 hpos.le)) (fun c => ?_) (fun c => ?_) ?_ (fun he => ?_) ho
  · rw [abs_of_pos hpos, finValue_false]
    exact (rsqrt_cmp hm).1
  · rw [abs_of_pos hpos, finValue_false]
    exact (rsqrt_cmp hm).2
  · rw [hu]
    exact unitExp_spec hplace hplace'
  · exact Rounded.near (hv ▸ hout) hpos.ne' (by decide) he

/-- RSQRT takes the root of `2^(-e) / m`, with an even exponent. -/
theorem rsqrt_scaled {X : Nat} {E : Int} (heven : E % 2 = 0) (hval : (X : ℝ) * 2 ^ E = 2 ^ (-e)) (hm : m ≠ 0) :
    √((X * 2 ^ 120 : Nat) / m : ℝ) * 2 ^ (E / 2 - 60) = (√(finValue false m e))⁻¹ := by
  have hm' : (0 : ℝ) < m := by positivity
  rw [show E / 2 - 60 = (E - 120) / 2 by omega, ← sqrt_mul_zpow _ (by omega), ← Real.sqrt_inv, finValue_false]
  congr 1
  calc ((X * 2 ^ 120 : Nat) : ℝ) / m * 2 ^ (E - 120) = X * 2 ^ E / m := by
        rw [zpow_sub₀ two_ne_zero]
        push_cast
        field_simp
        norm_num
    _ = ((m : ℝ) * 2 ^ e)⁻¹ := by
        rw [hval, mul_inv, zpow_neg, div_eq_mul_inv, mul_comm]

theorem fRsqrt_near (ha : unpackF f a = .fin false m e) (hm : m ≠ 0)
    (ho : (fRsqrt f rm free a).e &&& (condO ||| condU) = 0) :
    Near f 2 (√(finValue false m e))⁻¹ (fRsqrt f rm free a) := by
  have hdef : fRsqrt f rm free a = _ := (withNan1_num ha trivial).trans ((if_neg hm).trans (if_neg nofun))
  have hlt := mant_lt_two_pow ha
  obtain ⟨heven, hval, hge, hle⟩ := sqrtArg_spec 1 (-e)
  rw [Nat.cast_one, one_mul] at hval
  have hbig : 2 ^ 120 ≤ (sqrtArg 1 (-e)).1 * 2 ^ 120 / m := by
    rw [Nat.le_div_iff_mul_le (by omega), mul_comm]
    exact Nat.mul_le_mul_right _ (by omega)
  have hsmall : (sqrtArg 1 (-e)).1 * 2 ^ 120 / m < 2 ^ 248 := (Nat.div_le_self _ _).trans_lt (by omega)
  have hr : isqrt ((sqrtArg 1 (-e)).1 * 2 ^ 120 / m) ≠ 0 :=
    (Nat.lt_of_lt_of_le (by positivity : 0 < 2 ^ (f.mbits + 1)) (le_isqrt hbig hsmall)).ne'
  obtain ⟨hlo, hhi⟩ := isqrt_bounds hsmall Nat.cast_div_le (natCast_div_lt_succ _ m)
  refine approximate_rsqrt_near hm hr hlo hhi (rsqrt_scaled heven hval hm) (congrArg _ (add_sub_assoc _ _ _)) ?_ ho hdef
  refine roundF_isqrt hbig hsmall Nat.cast_div_le (natCast_div_lt_succ _ m) ?_
  rw [Bool.or_eq_false_iff, bne_eq_false_iff_eq, natCast_mod_eq_zero _ hm]

end Approximations

/-! ### The statement -/

section Row
variable {i : Instr} {s : State} {f : FFmt} {fs fd : RegNum} {k : Word → DWord → DWord → FpOut}

/-- An approximation delivers for some choice, or ends in the exception. -/
theorem fpApprox_row (hi : exec i s = runSeq (fpApprox f fs fd k) s) (h : s.FpRuns .mips4 f.fmt f.fmt [fs] [fd])
    (hs : s.FpSettled f.fmt [fs]) :
    let a := s.fprVal fs f.fmt
    ((∀ x, s.FpDelivers (k s.fpu.fcr31 x a) (isDenorm f a) (isNan f a) false false) →
      ∃ x, Completes i s fun t => Delivered s t fd f.fmt (k s.fpu.fcr31 x a)) ∧
    ∃ x, let o := k s.fpu.fcr31 x a
      s.FpEnds (exec i s) (fpDeclines s.par s.fpu.fcr31 (isDenorm f a) (isNan f a) false false o) o.e := by
  rw [hi]
  refine ⟨fun hd => ?_, fpApprox_ends h hs⟩
  obtain ⟨x, t, ht, hdel⟩ := fpApprox_delivers h hs hd
  exact ⟨x, t, hi.trans ht, hdel⟩

end Row

/-- Settles O54. -/
theorem fpApproximations : Obligations.FpApproximations := by
  refine ⟨fun f op mk hrow s fs fd h hs => ?_, fun f rm a x neg m e ha => ⟨?_, fun hm => ⟨?_, ?_⟩⟩⟩
  · have hi : exec (mk fs fd) s = runSeq (fpApprox f fs fd fun fcr => op f (rmOf fcr)) s := by
      simp only [List.mem_cons, List.not_mem_nil, or_false, Prod.mk.injEq] at hrow
      casesm* _ ∨ _, _ ∧ _ <;> subst_vars <;> rfl
    exact fpApprox_row hi h hs
  · rintro rfl
    exact ⟨fRecip_zero ha, fun hneg => hneg ▸ fRsqrt_zero ha⟩
  · rintro o rfl ho
    exact fRecip_near ha hm ho
  · rintro rfl o rfl ho
    exact fRsqrt_near ha hm ho

end Sys2Proof.Machine
end
